-- ==== Sys2Proof/Word.lean ====
section
/-!
DEFINITION. The word types of the TW-5 ("Ndebex") model, the enumerations its encodings use, and their plainest
helpers. Nothing here says what an instruction does: registers are 64-bit scalars, 4,096-bit vectors and 512-bit masks
(R72), a slot is 96 bits (R223), and a line word is 32 bits (R224).
-/

namespace Sys2Proof

/-- One byte of memory, of a scratchpad or of a record. -/
abbrev Byte := BitVec 8
/-- A scalar register (R72). -/
abbrev Word := BitVec 64
/-- A vector register: 512 bytes, little-endian (R133). -/
abbrev Vec := BitVec 4096
/-- A mask register (R72). -/
abbrev Mask := BitVec 512
/-- One instruction slot (R223). -/
abbrev Slot96 := BitVec 96
/-- A table by numeric key: keys strictly rising, no entry equal to what an unlisted key reads as. -/
abbrev SMap (α : Type) := List (Nat × α)

/-- The element types of R132, in the order of their values. -/
inductive ElemTy where
  | f32 | f16 | bf16 | f64 | e4m3 | e5m2 | i32 | n32 | i16 | n16 | i8 | n8 | i64 | n64 | i4 | n4
  deriving DecidableEq, Repr

/-- The spaces of R102: GLOBAL, OWN, PEER, DEVICE. -/
inductive Space where
  | global | own | peer | anycore
  deriving DecidableEq, Repr

/-- What a run-time error report names (R18): a core, a cluster's engines, an L2 slice, or an HBM granule, which is
poisoned and not quarantined (R20). -/
inductive FailUnit where
  | core | cluster | slice | hbmGranule
  deriving DecidableEq, Repr

/-- The transactions of a UALink peer (R14). The spec names no set of atomics that a peer may ask of the part: fetch-add, swap
and compare-and-swap are the model's: DESIGN CHOICE (log entry 79). -/
inductive UaKind where
  | read | write | fetchAdd | swap | cas | coherence
  deriving DecidableEq, Repr

/-- Width in bits (R132). -/
def ElemTy.width : ElemTy → Nat
  | .f32 | .i32 | .n32 => 32
  | .f16 | .bf16 | .i16 | .n16 => 16
  | .f64 | .i64 | .n64 => 64
  | .e4m3 | .e5m2 | .i8 | .n8 => 8
  | .i4 | .n4 => 4

/-- A floating-point type (R129). -/
def ElemTy.isFloat : ElemTy → Bool
  | .f32 | .f16 | .bf16 | .f64 | .e4m3 | .e5m2 => true
  | _ => false

/-- An i type: two's complement (R131). -/
def ElemTy.isSigned : ElemTy → Bool
  | .i32 | .i16 | .i8 | .i64 | .i4 => true
  | _ => false

/-- The `ty` field's value (R132). -/
def ElemTy.toBits : ElemTy → BitVec 4
  | .f32 => 0 | .f16 => 1 | .bf16 => 2 | .f64 => 3 | .e4m3 => 4 | .e5m2 => 5 | .i32 => 6 | .n32 => 7
  | .i16 => 8 | .n16 => 9 | .i8 => 10 | .n8 => 11 | .i64 => 12 | .n64 => 13 | .i4 => 14 | .n4 => 15

/-- The element type a `ty` field names (R132). -/
def ElemTy.ofBits (b : BitVec 4) : ElemTy :=
  match b.toNat with
  | 0 => .f32 | 1 => .f16 | 2 => .bf16 | 3 => .f64 | 4 => .e4m3 | 5 => .e5m2 | 6 => .i32 | 7 => .n32
  | 8 => .i16 | 9 => .n16 | 10 => .i8 | 11 => .n8 | 12 => .i64 | 13 => .n64 | 14 => .i4 | _ => .n4

/-- The `sp` field's value (R102). -/
def Space.toBits : Space → BitVec 2
  | .global => 0 | .own => 1 | .peer => 2 | .anycore => 3

/-- The space an `sp` field names (R102). -/
def Space.ofBits (b : BitVec 2) : Space :=
  match b.toNat with
  | 0 => .global | 1 => .own | 2 => .peer | _ => .anycore

end Sys2Proof
end

