-- ==== Sys2Proof/Syntax.lean ====
section
/-!
DEFINITION. The syntax of the TW-5: the seven slot formats of R230 as records whose fields are the format's fields, the
operands an event of the part carries, and `Instr`, one constructor for every row of the opcode table.

An ISA instruction is its format's fields. An EVENT row (a reset, a record fetch, a completion, a debugger command) is
one indivisible step of the part too; its operands are the choices the spec leaves to the world outside the machine
(which slot, which access, what a sensor reads, where the supervisor places an area).
-/

namespace Sys2Proof

/-- Format S (R230): scalar arithmetic. -/
structure FmtS where
  d : BitVec 6
  a : BitVec 6
  b : BitVec 6
  fn : BitVec 6
  bi : Bool
  w : BitVec 2
  sx : Bool
  imm : BitVec 32
  deriving DecidableEq, Repr

/-- Format V (R230): vector and mask instructions; `mq` is the governing mask of R228. -/
structure FmtV where
  mq : BitVec 4
  d : BitVec 6
  a : BitVec 6
  b : BitVec 6
  c : BitVec 6
  fn : BitVec 5
  ty : ElemTy
  rm : BitVec 3
  sat : Bool
  bs : Bool
  bi : Bool
  neg : BitVec 3
  imm : BitVec 32
  deriving DecidableEq, Repr

/-- Format M (R230): memory, atomics and synchronisation. -/
structure FmtM where
  mq : BitVec 4
  d : BitVec 6
  a : BitVec 6
  x : BitVec 6
  sz : BitVec 3
  ord : BitVec 3
  sc : BitVec 3
  sp : Space
  fe : BitVec 2
  ch : BitVec 3
  pc : BitVec 11
  off : BitVec 32
  deriving DecidableEq, Repr

/-- Format B (R230): control transfers. -/
structure FmtB where
  a : BitVec 6
  cc : BitVec 3
  msk : BitVec 3
  slot : BitVec 3
  loff : BitVec 45
  deriving DecidableEq, Repr

/-- Format J (R230): engines, messages, launches. -/
structure FmtJ where
  d : BitVec 6
  f : BitVec 6
  fn : BitVec 4
  aq : Bool
  rl : Bool
  aqs : BitVec 3
  rls : BitVec 3
  st : Bool
  imm : BitVec 32
  deriving DecidableEq, Repr

/-- Format G (R230): gates. -/
structure FmtG where
  h : BitVec 6
  vw : BitVec 6
  vn : BitVec 5
  sw : BitVec 6
  sn : BitVec 4
  mw : BitVec 6
  st : BitVec 6
  imm : BitVec 32
  deriving DecidableEq, Repr

/-- Format Y (R230): system and fault service. -/
structure FmtY where
  d : BitVec 6
  a : BitVec 6
  sr : BitVec 12
  fn : BitVec 6
  imm : BitVec 32
  deriving DecidableEq, Repr

/-- A reading of the package's power, and the limit the supervisor has set, in watts (R13). -/
structure PowerReading where
  watts : Nat
  limit : Nat
  deriving DecidableEq, Repr

/-- What bring-up finds and the supervisor sets at its start (R16, R18, R35, R90, R205): the units failing self-test,
the AtomicOp widths the root port reports, the checked pools `(P, S, X)` and the bound UALink windows
`(window, remote endpoint, base, coherent)`. -/
structure BringUp where
  failCores : List Nat
  failClusters : List Nat
  failSlices : List Nat
  /-- The store of quarantined units is cleared first, which MANUFACTURE alone allows (R18). -/
  clearStore : Bool
  aop32 : Bool
  aop64 : Bool
  aop128 : Bool
  pools : List (Nat × Nat × Nat)
  uaWindows : List (Nat × Nat × Nat × Bool)
  deriving DecidableEq, Repr

/-- A dispatcher's turn (R59): its die, and whether it counts a slot as taken for which a task message is under way (log
entry 34). -/
structure DispatchPick where
  die : Nat
  counted : Bool
  deriving DecidableEq, Repr

/-- The unit a run-time error report names (R18, R20, R107). -/
structure QuarantineIn where
  unit : FailUnit
  index : Nat
  /-- Slots (core × 16 + slot) whose state cannot be read back (R20). -/
  unreadable : List Nat
  deriving DecidableEq, Repr

/-- A 64-bit register write arriving at function 0 (R21). -/
structure BarWrite where
  bar : Nat
  off : Nat
  val : Word
  deriving DecidableEq, Repr

/-- A fetch of the next record of submission queue `asid`; `readOk` is false when the ring read completes with an
error or poison (R27). -/
structure RecordFetch where
  asid : Nat
  readOk : Bool
  deriving DecidableEq, Repr

/-- A fetch of the next administrative record: `ringOk` is false when the ring read fails (R27), `argOk` when a host
read the command needs completes with an error or poison (STATUS FETCH, R39). -/
structure AdminFetch where
  ringOk : Bool
  argOk : Bool
  deriving DecidableEq, Repr

/-- Where the supervisor places a new domain's tables and pinned areas (R38, R92, R152, R170, R176, R182, R186, R207,
R213): physical addresses for the level-5 table and the region table, virtual addresses for the rest. -/
structure DomPlace where
  root : Nat
  regionPa : Nat
  trapVa : Nat
  ringVa : Nat
  stackVa : Nat
  sealVa : Nat
  sealCount : Nat
  saveVa : Nat
  saveLen : Nat
  logVa : Nat
  raceVa : Nat
  deriving DecidableEq, Repr

/-- The arrival that ends access `id` (R80, R37, R36). Other numbers name what has no access of its own (log entry 72):
2^40 + cluster × 2^16 + job the host data an engine job reads, 2^41 + n a reading of the HBM block n (64 bytes each) by
the hub, a walker, an engine, a code fetch or a link. -/
structure AccessDone where
  id : Nat
  /-- Bit k: the check value of the k-th 64-byte block the access touches does not match (R37). -/
  crcBad : Nat
  /-- Bit k: the completion for that block carries poisoned data (R36). -/
  poisoned : Nat
  deriving DecidableEq, Repr

/-- A failure of a host access (R36): the access, numbered as in `AccessDone`, and by bit k the 64-byte blocks it touches
that fail. -/
structure HostFail where
  access : Nat
  blocks : Nat
  deriving DecidableEq, Repr

/-- A range of virtual addresses of one domain (R98). -/
structure VaRange where
  asid : Nat
  lo : Nat
  hi : Nat
  deriving DecidableEq, Repr

/-- A code line requested by core `core` for domain `asid` (R76). -/
structure LineFill where
  core : Nat
  asid : Nat
  line : Nat
  deriving DecidableEq, Repr

/-- A debugger's session on function 1 (R50, R51): the SHAKE256 of the key it proves, and whether it is the debug
authority's. -/
structure SessionOpen where
  session : Nat
  keyHash : BitVec 256
  authority : Bool
  deriving DecidableEq, Repr

/-- The CMD registers of a session at its DOORBELL (R215), the operation being the event itself. The bytes of CMD that R215 gives
no name are byte 1, bytes 4 to 7 and bytes 48 to 63. -/
structure DebugCmd where
  session : Nat
  asid : Nat
  gtid : Word
  addr : Word
  arg : Word
  len : Word
  buf : Word
  byte1 : Byte := 0
  bytes4 : BitVec 32 := 0
  bytes48 : BitVec 128 := 0
  deriving DecidableEq, Repr

/-- Bytes written at a physical address from outside the cores (R126). `image` names the domain for which the
supervisor maps the bytes as a code image (R45). -/
structure HostStore where
  pa : Nat
  bytes : List Byte
  bySupervisor : Bool
  image : Option Nat
  /-- The domain the supervisor writes them for, when it is not an image of it (R46). -/
  asid : Option Nat
  /-- The check value of a block fails, and which of the blocks written it is (R37). -/
  crcBad : Bool
  block : Nat
  deriving DecidableEq, Repr

/-- A transaction a UALink peer sends to the part as completer (R14). -/
structure UaRequest where
  kind : UaKind
  pa : Nat
  size : Nat
  operand : BitVec 128
  compare : BitVec 128
  bytes : List Byte
  /-- The data carries the poison indication; the check value of a block fails, and which one it is (R37). -/
  poisoned : Bool
  crcBad : Bool
  block : Nat
  deriving DecidableEq, Repr

/-- The instructions and events of the part, one constructor for every row of the opcode table (those with operands
first, in the table order, then those without). -/
inductive Instr where
  /-- BRINGUP_COMPLETE (R16). -/
  | bringupComplete (b : BringUp)
  /-- LINK_RETRAIN_FAIL (R10). -/
  | linkRetrainFail (link : Nat)
  /-- POWER_LIMIT_STEP (R13): the measured power, and the limit the supervisor has set. -/
  | powerLimitStep (r : PowerReading)
  /-- THERMAL_LIMIT_STEP (R13). -/
  | thermalLimitStep (hottest : Nat)
  /-- THERMAL_TRIP (R13). -/
  | thermalTrip (hottest : Nat)
  /-- UNIT_QUARANTINE (R20). -/
  | unitQuarantine (q : QuarantineIn)
  /-- SQ_TAIL_WRITE (R24). -/
  | sqTailWrite (queue newTail : Nat)
  /-- SQ_STOPPED_CLEAR (R23). -/
  | sqStoppedClear (queue : Nat)
  /-- REGISTER_WRITE (R21). -/
  | registerWrite (w : BarWrite)
  /-- MSIX_UNMASK (R31). -/
  | msixUnmask (vector : Nat) (mask : Bool)
  /-- SQ_NOP_RECORD (R26). -/
  | sqNopRecord (q : RecordFetch)
  /-- SQ_JOB_RECORD (R28). -/
  | sqJobRecord (q : RecordFetch)
  /-- SQ_LAUNCH_RECORD (R26). -/
  | sqLaunchRecord (q : RecordFetch)
  /-- SQ_GRAPH_RECORD (R26). -/
  | sqGraphRecord (q : RecordFetch)
  /-- SQ_WAIT_RECORD (R26). -/
  | sqWaitRecord (q : RecordFetch)
  /-- SQ_WAIT_DONE (R26). -/
  | sqWaitDone (queue : Nat)
  /-- SQ_CANCEL_RECORD (R26). -/
  | sqCancelRecord (q : RecordFetch)
  /-- DOM_CREATE (R40). -/
  | domCreate (a : AdminFetch) (place : DomPlace)
  /-- DOM_REVOKE (R41). -/
  | domRevoke (a : AdminFetch)
  /-- DOM_KILL (R41). -/
  | domKill (a : AdminFetch)
  /-- DOM_DESTROY (R41). -/
  | domDestroy (a : AdminFetch)
  /-- ADIT_PUBLISH (R150). -/
  | aditPublish (a : AdminFetch)
  /-- ADIT_GRANT (R151). -/
  | aditGrant (a : AdminFetch)
  /-- ADIT_REVOKE (R150). -/
  | aditRevoke (a : AdminFetch)
  /-- EP_GRANT (R40). -/
  | epGrant (a : AdminFetch)
  /-- VEC_GRANT (R40). -/
  | vecGrant (a : AdminFetch)
  /-- SET_ALLOT (R43). -/
  | setAllot (a : AdminFetch)
  /-- KEY_IMPORT (R47). -/
  | keyImport (a : AdminFetch)
  /-- ATTEST (R45). -/
  | attest (a : AdminFetch)
  /-- GET_NONCE (R50). -/
  | getNonce (a : AdminFetch)
  /-- LIFECYCLE (R49). -/
  | lifecycle (a : AdminFetch)
  /-- MSIX_TIMER_EXPIRY (R31). -/
  | msixTimerExpiry (vector : Nat)
  /-- MSIX_MESSAGE_ISSUED (R31). -/
  | msixMessageIssued (vector : Nat)
  /-- HOST_ACCESS_ERROR (R36). -/
  | hostAccessError (f : HostFail)
  /-- HOST_ACCESS_TIMEOUT (R36). -/
  | hostAccessTimeout (f : HostFail)
  /-- MEMORY_ACCESS_COMPLETE (R80). -/
  | memoryAccessComplete (m : AccessDone)
  /-- TRANSLATION_INVALIDATE (R98). -/
  | translationInvalidate (r : VaRange)
  /-- ICACHE_FILL (R76). -/
  | icacheFill (l : LineFill)
  /-- LAUNCH_START (R56). -/
  | launchStart (launchId : Nat)
  /-- DISPATCH_TASK_START (R59). -/
  | dispatchTaskStart (d : DispatchPick)
  /-- DISPATCH_RESUME (R59). -/
  | dispatchResume (d : DispatchPick)
  /-- MESSAGE_ARRIVAL (R60). -/
  | messageArrival (message : Nat)
  /-- TASK_ADMIT (R61). -/
  | taskAdmit (core : Nat)
  /-- BUDGET_EXPIRY (R64). -/
  | budgetExpiry (slot : Nat)
  /-- TIME_SLICE_END (R43). -/
  | timeSliceEnd (asid next : Nat)
  /-- PREEMPT_SAVE (R65). -/
  | preemptSave (slot : Nat)
  /-- TASK_FINISH (R62). -/
  | taskFinish (slot : Nat)
  /-- GRAPH_ARM (R70). -/
  | graphArm (walker : Nat)
  /-- GRAPH_NODE_LAUNCH (R70). -/
  | graphNodeLaunch (walker : Nat)
  /-- GRAPH_NODE_WAIT (R70). -/
  | graphNodeWait (walker : Nat)
  /-- GRAPH_WAIT_DONE (R360). -/
  | graphWaitDone (walker : Nat)
  /-- GRAPH_NODE_COND (R70). -/
  | graphNodeCond (walker : Nat)
  /-- GRAPH_NODE_HOST (R70). -/
  | graphNodeHost (walker : Nat)
  /-- GRAPH_NODE_END (R70). -/
  | graphNodeEnd (walker : Nat)
  /-- FE_WAKE (R75). -/
  | feWake (slot : Nat)
  /-- MONITOR_WAKE (R78). -/
  | monitorWake (slot : Nat)
  /-- MONITOR_SWEEP (R78). -/
  | monitorSweep (core : Nat)
  /-- ACQ_RETRY_PASS (R317). -/
  | acqRetryPass (slot : Nat)
  /-- RECV_WAKE (R334). -/
  | recvWake (slot : Nat)
  /-- JOB_WAIT_DONE (R331). -/
  | jobWaitDone (slot : Nat)
  /-- JOB_ACCEPT (R84). -/
  | jobAccept (cluster : Nat)
  /-- ENGINE_JOB_START (R329). -/
  | engineJobStart (cluster engine : Nat)
  /-- ENGINE_ACQUIRE_GRANTED (R329). -/
  | engineAcquireGranted (cluster job : Nat)
  /-- ENGINE_JOB_COMPLETE (R329). -/
  | engineJobComplete (cluster job : Nat)
  /-- DATA_FAULT_DELIVERY (R181). -/
  | dataFaultDelivery (slot : Nat)
  /-- GATE_MOVE_DONE (R160). -/
  | gateMoveDone (slot : Nat)
  /-- CLEANUP_RESERVE_OUT (R164). -/
  | cleanupReserveOut (slot : Nat)
  /-- DEBUG_SESSION_OPEN (R51). -/
  | debugSessionOpen (d : SessionOpen)
  /-- HALT (R216). -/
  | halt (c : DebugCmd)
  /-- DEBUG_RESUME (R216). -/
  | debugResume (c : DebugCmd)
  /-- READ_TASK (R215). -/
  | readTask (c : DebugCmd)
  /-- READ_MEM (R215). -/
  | readMem (c : DebugCmd)
  /-- WRITE_MEM (R215). -/
  | writeMem (c : DebugCmd)
  /-- SET_BP (R217). -/
  | setBp (c : DebugCmd)
  /-- SET_WP (R217). -/
  | setWp (c : DebugCmd)
  /-- TAIL (R218). -/
  | tail (c : DebugCmd)
  /-- ACCT (R221). -/
  | acct (c : DebugCmd)
  /-- SLOG (R222). -/
  | slog (c : DebugCmd)
  /-- REWIND (R199). -/
  | rewind (c : DebugCmd)
  /-- REPLAY (R201). -/
  | replay (c : DebugCmd)
  /-- REPLAY_STOP (R201). -/
  | replayStop (asid : Nat)
  /-- STEPBACK (R203). -/
  | stepback (c : DebugCmd)
  /-- RELEASE (R203). -/
  | release (c : DebugCmd)
  /-- TAIL_LOST_PACKET (R218). -/
  | tailLostPacket (core : Nat)
  /-- ILL (R259). -/
  | ill (bits : BitVec 88)
  /-- ADD (R256). -/
  | add (f : FmtS)
  /-- SUB (R256). -/
  | sub (f : FmtS)
  /-- MUL (R256). -/
  | mul (f : FmtS)
  /-- MULH (R256). -/
  | mulh (f : FmtS)
  /-- DIV (R257). -/
  | div (f : FmtS)
  /-- REM (R257). -/
  | rem (f : FmtS)
  /-- AND (R256). -/
  | and (f : FmtS)
  /-- OR (R256). -/
  | or (f : FmtS)
  /-- XOR (R256). -/
  | xor (f : FmtS)
  /-- ANDN (R256). -/
  | andn (f : FmtS)
  /-- SHL (R256). -/
  | shl (f : FmtS)
  /-- SHR (R256). -/
  | shr (f : FmtS)
  /-- SRA (R256). -/
  | sra (f : FmtS)
  /-- ROT (R256). -/
  | rot (f : FmtS)
  /-- MIN (R256). -/
  | min (f : FmtS)
  /-- MAX (R256). -/
  | max (f : FmtS)
  /-- CMP (R256). -/
  | cmp (f : FmtS)
  /-- SEL (R256). -/
  | sel (f : FmtS)
  /-- MOV (R256). -/
  | mov (f : FmtS)
  /-- LIH (R256). -/
  | lih (f : FmtS)
  /-- CLZ (R256). -/
  | clz (f : FmtS)
  /-- CTZ (R256). -/
  | ctz (f : FmtS)
  /-- POPC (R256). -/
  | popc (f : FmtS)
  /-- BEXT (R258). -/
  | bext (f : FmtS)
  /-- BINS (R258). -/
  | bins (f : FmtS)
  /-- LEA (R256). -/
  | lea (f : FmtS)
  /-- ABS (R256). -/
  | abs (f : FmtS)
  /-- EXT (R256). -/
  | ext (f : FmtS)
  /-- BSWAP (R256). -/
  | bswap (f : FmtS)
  /-- BR (R262). -/
  | br (f : FmtB)
  /-- JMP (R262). -/
  | jmp (f : FmtB)
  /-- CALL (R263). -/
  | call (f : FmtB)
  /-- CALLI (R263). -/
  | calli (f : FmtB)
  /-- RET (R263). -/
  | ret (f : FmtB)
  /-- LOOP (R264). -/
  | loop (f : FmtB)
  /-- END (R265). -/
  | endTask (f : FmtB)
  /-- PFI (R266). -/
  | pfi (f : FmtB)
  /-- TRAP (R267). -/
  | trap (f : FmtB)
  /-- BPT (R267). -/
  | bpt (f : FmtB)
  /-- RSYS (R269). -/
  | rsys (f : FmtY)
  /-- WSYS (R269). -/
  | wsys (f : FmtY)
  /-- XSYS (R269). -/
  | xsys (f : FmtY)
  /-- BENCH (R271). -/
  | bench (f : FmtY)
  /-- TMARK (R272). -/
  | tmark (f : FmtY)
  /-- VADD (R280). -/
  | vadd (f : FmtV)
  /-- VSUB (R280). -/
  | vsub (f : FmtV)
  /-- VMUL (R280). -/
  | vmul (f : FmtV)
  /-- VFMA (R280). -/
  | vfma (f : FmtV)
  /-- VMIN (R281). -/
  | vmin (f : FmtV)
  /-- VMAX (R281). -/
  | vmax (f : FmtV)
  /-- VDIV (R282). -/
  | vdiv (f : FmtV)
  /-- VSQRT (R282). -/
  | vsqrt (f : FmtV)
  /-- VRCP (R282). -/
  | vrcp (f : FmtV)
  /-- VRSQ (R282). -/
  | vrsq (f : FmtV)
  /-- VEXP2 (R282). -/
  | vexp2 (f : FmtV)
  /-- VLOG2 (R282). -/
  | vlog2 (f : FmtV)
  /-- VFCMP (R283). -/
  | vfcmp (f : FmtV)
  /-- VFCLASS (R284). -/
  | vfclass (f : FmtV)
  /-- VCVT (R285). -/
  | vcvt (f : FmtV)
  /-- VABS (R280). -/
  | vabs (f : FmtV)
  /-- VIADD (R286). -/
  | viadd (f : FmtV)
  /-- VISUB (R286). -/
  | visub (f : FmtV)
  /-- VIMUL (R286). -/
  | vimul (f : FmtV)
  /-- VIMULH (R286). -/
  | vimulh (f : FmtV)
  /-- VIMAD (R286). -/
  | vimad (f : FmtV)
  /-- VAND (R286). -/
  | vand (f : FmtV)
  /-- VOR (R286). -/
  | vor (f : FmtV)
  /-- VXOR (R286). -/
  | vxor (f : FmtV)
  /-- VSHL (R286). -/
  | vshl (f : FmtV)
  /-- VSHR (R286). -/
  | vshr (f : FmtV)
  /-- VSRA (R286). -/
  | vsra (f : FmtV)
  /-- VIMIN (R286). -/
  | vimin (f : FmtV)
  /-- VIMAX (R286). -/
  | vimax (f : FmtV)
  /-- VICMP (R286). -/
  | vicmp (f : FmtV)
  /-- VSEL (R286). -/
  | vsel (f : FmtV)
  /-- VMOV (R286). -/
  | vmov (f : FmtV)
  /-- VBCAST (R287). -/
  | vbcast (f : FmtV)
  /-- VID (R287). -/
  | vid (f : FmtV)
  /-- VPERM (R288). -/
  | vperm (f : FmtV)
  /-- VROT (R289). -/
  | vrot (f : FmtV)
  /-- VSLIDE (R289). -/
  | vslide (f : FmtV)
  /-- VRED (R292). -/
  | vred (f : FmtV)
  /-- VSCAN (R293). -/
  | vscan (f : FmtV)
  /-- VEXT (R290). -/
  | vext (f : FmtV)
  /-- VINS (R290). -/
  | vins (f : FmtV)
  /-- VPACK (R291). -/
  | vpack (f : FmtV)
  /-- VUNPACK (R291). -/
  | vunpack (f : FmtV)
  /-- VDOT4 (R294). -/
  | vdot4 (f : FmtV)
  /-- VDOT8 (R294). -/
  | vdot8 (f : FmtV)
  /-- VQUANT (R295). -/
  | vquant (f : FmtV)
  /-- VDEQUANT (R295). -/
  | vdequant (f : FmtV)
  /-- VPOPC (R286). -/
  | vpopc (f : FmtV)
  /-- MAND (R296). -/
  | mand (f : FmtV)
  /-- MOR (R296). -/
  | mor (f : FmtV)
  /-- MXOR (R296). -/
  | mxor (f : FmtV)
  /-- MNOT (R296). -/
  | mnot (f : FmtV)
  /-- MPOP (R296). -/
  | mpop (f : FmtV)
  /-- MFIRST (R296). -/
  | mfirst (f : FmtV)
  /-- MFROMS (R296). -/
  | mfroms (f : FmtV)
  /-- MTOS (R296). -/
  | mtos (f : FmtV)
  /-- MLEN (R296). -/
  | mlen (f : FmtV)
  /-- LD (R302). -/
  | ld (f : FmtM)
  /-- ST (R302). -/
  | st (f : FmtM)
  /-- VLD (R303). -/
  | vld (f : FmtM)
  /-- VST (R303). -/
  | vst (f : FmtM)
  /-- VLDS (R303). -/
  | vlds (f : FmtM)
  /-- VSTS (R303). -/
  | vsts (f : FmtM)
  /-- VLDX (R304). -/
  | vldx (f : FmtM)
  /-- VSTX (R304). -/
  | vstx (f : FmtM)
  /-- PF (R306). -/
  | pf (f : FmtM)
  /-- CLN (R307). -/
  | cln (f : FmtM)
  /-- FECLR (R308). -/
  | feclr (f : FmtM)
  /-- FESET (R308). -/
  | feset (f : FmtM)
  /-- FETST (R308). -/
  | fetst (f : FmtM)
  /-- MLD (R305). -/
  | mld (f : FmtM)
  /-- MST (R305). -/
  | mst (f : FmtM)
  /-- AADD (R309). -/
  | aadd (f : FmtM)
  /-- AAND (R309). -/
  | aand (f : FmtM)
  /-- AOR (R309). -/
  | aor (f : FmtM)
  /-- AXOR (R309). -/
  | axor (f : FmtM)
  /-- AMIN (R309). -/
  | amin (f : FmtM)
  /-- AMAX (R309). -/
  | amax (f : FmtM)
  /-- ASWP (R309). -/
  | aswp (f : FmtM)
  /-- ACAS (R309). -/
  | acas (f : FmtM)
  /-- ACAS2 (R310). -/
  | acas2 (f : FmtM)
  /-- RED (R312). -/
  | red (f : FmtM)
  /-- VATOM (R313). -/
  | vatom (f : FmtM)
  /-- FENCE (R314). -/
  | fence (f : FmtM)
  /-- ACQ (R317). -/
  | acq (f : FmtM)
  /-- REL (R318). -/
  | rel (f : FmtM)
  /-- ARV (R319). -/
  | arv (f : FmtM)
  /-- SGEN (R320). -/
  | sgen (f : FmtM)
  /-- SINI (R320). -/
  | sini (f : FmtM)
  /-- WAITA (R322). -/
  | waita (f : FmtM)
  /-- MXJ (R324). -/
  | mxj (f : FmtJ)
  /-- CPJ (R324). -/
  | cpj (f : FmtJ)
  /-- JPOLL (R331). -/
  | jpoll (f : FmtJ)
  /-- JWAIT (R331). -/
  | jwait (f : FmtJ)
  /-- JCAN (R332). -/
  | jcan (f : FmtJ)
  /-- SEND (R333). -/
  | send (f : FmtJ)
  /-- RECV (R334). -/
  | recv (f : FmtJ)
  /-- LAUNCH (R335). -/
  | launch (f : FmtJ)
  /-- CCNT (R337). -/
  | ccnt (f : FmtJ)
  /-- CANCEL (R338). -/
  | cancel (f : FmtJ)
  /-- GRAPH (R336). -/
  | graph (f : FmtJ)
  /-- HNOTE (R339). -/
  | hnote (f : FmtJ)
  /-- GCALL (R157). -/
  | gcall (f : FmtG)
  /-- GRET (R159). -/
  | gret (f : FmtG)
  /-- GDONE (R340). -/
  | gdone (f : FmtG)
  /-- DINFO (R341). -/
  | dinfo (f : FmtG)
  /-- RTAKE (R179). -/
  | rtake (f : FmtY)
  /-- RCMPL (R180). -/
  | rcmpl (f : FmtY)
  /-- RFAIL (R181). -/
  | rfail (f : FmtY)
  /-- TRET (R173). -/
  | tret (f : FmtY)
  /-- HOST_WRITE (R126). -/
  | hostWrite (h : HostStore)
  /-- UALINK_COMPLETER_REQUEST (R14). -/
  | ualinkCompleterRequest (u : UaRequest)
  /-- FLIT_CRC_ERROR (R7). -/
  | flitCrcError (link : Nat)
  /-- POWER_ON (R15). -/
  | powerOn
  /-- PERST_ASSERT (R15). -/
  | perstAssert
  /-- PCIE_HOT_RESET (R15). -/
  | pcieHotReset
  /-- FUNCTION_LEVEL_RESET_F0 (R15). -/
  | functionLevelResetF0
  /-- FUNCTION_LEVEL_RESET_F1 (R15). -/
  | functionLevelResetF1
  /-- SUPERVISOR_RESET (R15). -/
  | supervisorReset
  /-- WIPE_COMPLETE (R15). -/
  | wipeComplete
  /-- NONCE_EXPIRY (R50). -/
  | nonceExpiry
  /-- NOP (R259). -/
  | nop
  /-- RESET_RELEASE (R15). -/
  | resetRelease
  deriving DecidableEq, Repr

end Sys2Proof
end

