-- ==== Sys2Proof/WellFormed.lean ====
section
/-!
DEFINITION. Static legality of an instruction (R228 to R232 and the field tables of R256, R260, R268, R273 to R296,
R297, R323, R340, R342): a term that is not well formed raises ILLEGAL_INSTR and has no encoding that decodes. What
depends on the task, a vector register at or above VREGS (R73), is checked when the instruction issues.
For an event, well-formedness bounds its operands to the units of R1.
-/

namespace Sys2Proof

/-- `mq` may name a mask (R228): anything but the negated m0. -/
def mqOk (mq : BitVec 4) : Bool := mq != 8

/-! ### Format S -/

/-- A two-source scalar instruction (R255, R256): `bi` excludes `b`, an unused `imm` is zero. -/
def FmtS.binary (f : FmtS) (fnMax : Nat) : Bool :=
  decide (f.fn.toNat ≤ fnMax) && (!f.bi || f.b == 0) && (f.bi || f.imm == 0)

/-- A one-source scalar instruction (R256): b and bi are zero. -/
def FmtS.unary (f : FmtS) (fnMax : Nat) : Bool :=
  decide (f.fn.toNat ≤ fnMax) && f.b == 0 && !f.bi && f.imm == 0

/-- w and sx are zero: the result is 64 bits wide (R256). -/
def FmtS.full (f : FmtS) : Bool := f.w == 0 && !f.sx

/-- The control of bext and bins written as imm has bits 31:13 zero (R256). -/
def FmtS.control (f : FmtS) : Bool := !f.bi || f.imm >>> 13 == 0

/-! ### Format V -/

/-- The set F of R273. -/
def ElemTy.inF : ElemTy → Bool
  | .f32 | .f16 | .bf16 | .f64 => true
  | _ => false
/-- The set F3 of R273. -/
def ElemTy.inF3 (t : ElemTy) : Bool := t.inF && t != .f64
/-- The set I of R273. -/
def ElemTy.inI (t : ElemTy) : Bool := !t.isFloat
/-- The set I8 of R273. -/
def ElemTy.inI8 (t : ElemTy) : Bool := t.inI && t.width != 4
/-- The set W16 of R273. -/
def ElemTy.inW16 (t : ElemTy) : Bool := decide (16 ≤ t.width)

/-- The immediate is a legal element (ImmElem, R274): a narrow floating-point type needs bits 31:w zero. -/
def FmtV.immElem (f : FmtV) : Bool :=
  !(f.ty.isFloat && decide (f.ty.width < 32)) || f.imm.toNat < 2 ^ f.ty.width

/-- Which fields of Format V an instruction uses, besides d and a. `bOpen`: b accepts bs and bi. -/
structure VUse where
  b : Bool := false
  bOpen : Bool := false
  c : Bool := false
  rm : Bool := false
  sat : Bool := false
  neg : BitVec 3 := 0
  imm : Bool := false
  fnMax : Nat := 0
  /-- imm is an unsigned shift, no element (R289). -/
  raw : Bool := false
  deriving DecidableEq, Repr

/-- Every field the instruction does not use is zero (R273), rm is not 7 (R134), bs and bi exclude each other (R274). -/
def FmtV.uses (f : FmtV) (u : VUse) : Bool :=
  mqOk f.mq && decide (f.fn.toNat ≤ u.fnMax)
    && (u.b || (f.b == 0)) && (u.bOpen || (!f.bs && !f.bi)) && !(f.bs && f.bi) && (!f.bi || f.b == 0)
    && (u.c || f.c == 0) && (u.rm || f.rm == 0) && f.rm != 7 && (u.sat || !f.sat)
    && f.neg &&& ~~~u.neg == 0 && (u.imm || f.bi || f.imm == 0) && (!f.bi || u.raw || f.immElem)

/-- A field naming a mask register that is written: m1 to m7 (R231). -/
def maskDest (d : BitVec 6) : Bool := decide (1 ≤ d.toNat) && decide (d.toNat ≤ 7)
/-- A field naming a mask register that is read: m0 to m7 (R231). -/
def maskSrc (a : BitVec 6) : Bool := decide (a.toNat ≤ 7)

/-- Lanes of a type: 4,096 div its width (R133). -/
def ElemTy.lanes (t : ElemTy) : Nat := 4096 / t.width
/-- Mask bits of a type: its lanes, and 512 for a 4-bit type (R133). -/
def ElemTy.maskLanes (t : ElemTy) : Nat := min t.lanes 512

/-- `vcvt` names a part below the width ratio (R285). -/
def FmtV.cvtPart (f : FmtV) : Bool :=
  let ws := (ElemTy.ofBits (f.fn.extractLsb' 0 4)).width
  decide (f.imm.toNat < max ws f.ty.width / min ws f.ty.width) && decide (f.fn.toNat ≤ 15)

/-- `vext` and `vins`: the index comes from s[b] under bs, from imm otherwise, and the other field is zero (R229,
R290). -/
def FmtV.index (f : FmtV) : Bool :=
  f.mq == 0 && f.fn == 0 && f.c == 0 && f.rm == 0 && !f.sat && !f.bi && f.neg == 0
    && (if f.bs then f.imm == 0 else f.b == 0)

/-- A mask-group instruction (R296): mq zero, and no rm, sat, neg, c, bs. -/
def FmtV.maskOp (f : FmtV) (fnMax : Nat) (b imm bi : Bool) : Bool :=
  f.mq == 0 && decide (f.fn.toNat ≤ fnMax) && f.c == 0 && f.rm == 0 && !f.sat && !f.bs && f.neg == 0
    && (b || f.b == 0) && (bi || !f.bi) && (imm || f.imm == 0)

/-- The group width and code width of `vquant` and `vdequant` (R295). -/
def FmtV.quantFn (f : FmtV) : Bool := f.fn.extractLsb' 0 2 != 3 && f.fn.extractLsb' 3 2 == 0

/-! ### Format M -/

/-- The row of R297 for an instruction: its admitted sz, ord, sp, whether fe is used, and the largest `ch`
(`none`: a cache hint, R300). -/
structure MUse where
  szMin : Nat := 0
  szMax : Nat
  ords : List Nat
  spMin : Nat := 0
  spMax : Nat := 3
  fe : Bool := false
  ch : Option Nat := some 0
  d : Bool := true
  x : Bool := true
  deriving DecidableEq, Repr

/-- The Format M rules common to every row: the ranges of R232, the qualifier combinations of R112, the `pc` and `fe`
rules of R102 and the hints of R300. -/
def FmtM.uses (f : FmtM) (u : MUse) : Bool :=
  let sp := f.sp.toBits.toNat
  mqOk f.mq && decide (u.szMin ≤ f.sz.toNat) && decide (f.sz.toNat ≤ u.szMax)
    && u.ords.contains f.ord.toNat && decide (f.sc.toNat ≤ 5) && (f.ord != 0 || f.sc == 0)
    && decide (u.spMin ≤ sp) && decide (sp ≤ u.spMax)
    && (f.fe == 0 || (u.fe && f.sp != .global && f.fe != 3))
    && (match u.ch with
        | none => decide (f.ch.toNat ≤ 3) && (f.sp == .global || f.ch == 0)
        | some m => decide (f.ch.toNat ≤ m))
    && (match f.sp with
        | .global | .own => f.pc == 0
        | .peer => decide (f.pc.toNat < 8)
        | .anycore => true)
    && (u.d || f.d == 0) && (u.x || f.x == 0)

/-- Rows outside the masked opcodes need mq = 0 (R228). -/
def FmtM.plain (f : FmtM) (u : MUse) : Bool := f.mq == 0 && f.uses u

/-- The orderings of a load, a store, a value-returning atomic and `red` (R112). -/
def loadOrds : List Nat := [0, 1, 4]
/-- See `loadOrds`. -/
def storeOrds : List Nat := [0, 2, 4]
/-- See `loadOrds`. -/
def atomicOrds : List Nat := [0, 1, 2, 3, 4]

/-- A 16-byte `ld` or `st` names an even, non-zero pair (R297). -/
def FmtM.pairOk (f : FmtM) : Bool := f.sz != 4 || (f.d != 0 && f.d.toNat % 2 == 0)

/-! ### Formats B, J, G, Y -/

/-- A direct transfer: a, cc and mk zero (R260). -/
def FmtB.direct (f : FmtB) : Bool := f.a == 0 && f.cc == 0 && f.msk == 0
/-- A register transfer: only a is used (R260). -/
def FmtB.register (f : FmtB) : Bool := f.cc == 0 && f.msk == 0 && f.slot == 0 && f.loff == 0
/-- `trap` and `bpt`: a 16-bit code in loff (R260). -/
def FmtB.code (f : FmtB) : Bool :=
  f.a == 0 && f.cc == 0 && f.msk == 0 && f.slot == 0 && decide (f.loff.toNat < 2 ^ 16)

/-- Common rules of Format J (R323): a frame at a multiple of 8, scopes 0 to 5, a scope zero without its flag. -/
def FmtJ.common (f : FmtJ) : Bool :=
  f.f.toNat % 8 == 0 && decide (f.aqs.toNat ≤ 5) && decide (f.rls.toNat ≤ 5)
    && (f.aq || f.aqs == 0) && (f.rl || f.rls == 0)

/-- `mxj` and `cpj` (R323). -/
def FmtJ.job (f : FmtJ) : Bool :=
  f.common && decide (f.fn.toNat ≤ 3) && (f.aq || (f.fn == 0 && !f.rl)) && !(f.rl && f.fn == 3)
    && (f.fn == 3 || f.imm == 0)

/-- A Format J row without flags: `fnMax`, and whether d and f are used (R323). -/
def FmtJ.plain (f : FmtJ) (fnMax : Nat) (d fr : Bool) : Bool :=
  f.common && decide (f.fn.toNat ≤ fnMax) && !f.aq && !f.rl && !f.st && (d || f.d == 0) && (fr || f.f == 0)

/-- The windows of `gcall` (R230, R340). -/
def FmtG.window (f : FmtG) : Bool :=
  decide (f.vn.toNat ≤ 16) && decide (f.sn.toNat ≤ 8) && f.mw != 0 && f.mw != 62 && f.imm == 0

/-- `gret`, `gdone` and the unused fields of `dinfo`: no window (R340). -/
def FmtG.bare (f : FmtG) : Bool := f.vw == 0 && f.vn == 0 && f.sw == 0 && f.sn == 0 && f.mw == 63

/-- A Format Y row of the fault service: sr and imm zero (R342). -/
def FmtY.service (f : FmtY) (fnMax : Nat) (d a : Bool) : Bool :=
  f.sr == 0 && f.imm == 0 && decide (f.fn.toNat ≤ fnMax) && (d || f.d == 0) && (a || f.a == 0)

/-- A core index, a cluster index, a slot key (core × 16 + slot) and a queue number (R1, R21). -/
def isCore (n : Nat) : Bool := decide (n < 1280)
/-- See `isCore`. -/
def isCluster (n : Nat) : Bool := decide (n < 160)
/-- See `isCore`. -/
def isSlot (n : Nat) : Bool := decide (n < 20480)
/-- See `isCore`. Queue 1,024 is the administrative queue. -/
def isQueue (n : Nat) : Bool := decide (n ≤ 1024)

/-- Static legality (R232), and the bounds of an event's operands (R1). -/
def Instr.wf : Instr → Bool
  | .powerOn => true
  | .perstAssert => true
  | .pcieHotReset => true
  | .functionLevelResetF0 => true
  | .functionLevelResetF1 => true
  | .supervisorReset => true
  | .wipeComplete => true
  | .bringupComplete _ => true
  | .linkRetrainFail link => decide (link < 8)
  | .powerLimitStep r => decide (1200 ≤ r.limit) && decide (r.limit ≤ 2800)
  | .thermalLimitStep _ => true
  | .thermalTrip _ => true
  | .unitQuarantine _ => true
  | .sqTailWrite queue newTail => isQueue queue && decide (newTail < 2 ^ 32)
  | .sqStoppedClear queue => isQueue queue
  | .registerWrite _ => true
  | .msixUnmask vector _ => decide (vector ≤ 256)
  | .sqNopRecord q => decide (q.asid < 1024)
  | .sqJobRecord q => decide (q.asid < 1024)
  | .sqLaunchRecord q => decide (q.asid < 1024)
  | .sqGraphRecord q => decide (q.asid < 1024)
  | .sqWaitRecord q => decide (q.asid < 1024)
  | .sqWaitDone queue => isQueue queue
  | .sqCancelRecord q => decide (q.asid < 1024)
  | .domCreate _ _ => true
  | .domRevoke _ => true
  | .domKill _ => true
  | .domDestroy _ => true
  | .aditPublish _ => true
  | .aditGrant _ => true
  | .aditRevoke _ => true
  | .epGrant _ => true
  | .vecGrant _ => true
  | .setAllot _ => true
  | .keyImport _ => true
  | .attest _ => true
  | .getNonce _ => true
  | .lifecycle _ => true
  | .nonceExpiry => true
  | .msixTimerExpiry vector => decide (vector ≤ 256)
  | .msixMessageIssued vector => decide (vector ≤ 256)
  | .hostAccessError _ => true
  | .hostAccessTimeout _ => true
  | .memoryAccessComplete _ => true
  | .translationInvalidate r => decide (r.asid < 1024)
  | .icacheFill l => isCore l.core && decide (l.asid < 1024)
  | .launchStart _ => true
  | .dispatchTaskStart d => decide (d.die < 4)
  | .dispatchResume d => decide (d.die < 4)
  | .messageArrival _ => true
  | .taskAdmit core => isCore core
  | .budgetExpiry slot => isSlot slot
  | .timeSliceEnd asid next => decide (asid < 1024) && decide (next ≤ 1024)
  | .preemptSave slot => isSlot slot
  | .taskFinish slot => isSlot slot
  | .graphArm _ => true
  | .graphNodeLaunch _ => true
  | .graphNodeWait _ => true
  | .graphWaitDone _ => true
  | .graphNodeCond _ => true
  | .graphNodeHost _ => true
  | .graphNodeEnd _ => true
  | .feWake slot => isSlot slot
  | .monitorWake slot => isSlot slot
  | .monitorSweep core => isCore core
  | .acqRetryPass slot => isSlot slot
  | .recvWake slot => isSlot slot
  | .jobWaitDone slot => isSlot slot
  | .jobAccept cluster => isCluster cluster
  | .engineJobStart cluster engine => isCluster cluster && decide (engine < 2)
  | .engineAcquireGranted cluster _ => isCluster cluster
  | .engineJobComplete cluster _ => isCluster cluster
  | .dataFaultDelivery slot => isSlot slot
  | .gateMoveDone slot => isSlot slot
  | .cleanupReserveOut slot => isSlot slot
  | .debugSessionOpen _ => true
  | .halt c => decide (c.asid < 1024)
  | .debugResume c => decide (c.asid < 1024)
  | .readTask c => decide (c.asid < 1024)
  | .readMem c => decide (c.asid < 1024)
  | .writeMem c => decide (c.asid < 1024)
  | .setBp c => decide (c.asid < 1024)
  | .setWp c => decide (c.asid < 1024)
  | .tail c => decide (c.asid < 1024)
  | .acct c => decide (c.asid < 1024)
  | .slog c => decide (c.asid < 1024)
  | .rewind c => decide (c.asid < 1024)
  | .replay c => decide (c.asid < 1024)
  | .replayStop asid => decide (asid < 1024)
  | .stepback c => decide (c.asid < 1024)
  | .release c => decide (c.asid < 1024)
  | .tailLostPacket core => isCore core
  | .ill _ => true
  | .nop => true
  | .add f => f.binary 2
  | .sub f => f.binary 2
  | .mul f => f.binary 0
  | .mulh f => f.binary 2
  | .div f => f.binary 1
  | .rem f => f.binary 1
  | .and f => f.binary 0
  | .or f => f.binary 0
  | .xor f => f.binary 0
  | .andn f => f.binary 0
  | .shl f => f.binary 0
  | .shr f => f.binary 0
  | .sra f => f.binary 0
  | .rot f => f.binary 1
  | .min f => f.binary 1
  | .max f => f.binary 1
  | .cmp f => f.binary 6
  | .sel f => f.binary 0
  | .mov f => f.binary 1 && f.a == 0 && (f.fn == 0 || (f.bi && f.full))
  | .lih f => f.fn == 0 && f.a == 0 && f.b == 0 && f.bi && f.full
  | .clz f => f.unary 0
  | .ctz f => f.unary 0
  | .popc f => f.unary 0
  | .bext f => f.binary 1 && f.full && f.control
  | .bins f => f.binary 0 && f.full && f.control
  | .lea f => f.binary 6 && f.full
  | .abs f => f.unary 0
  | .ext f => f.unary 0
  | .bswap f => f.unary 1
  | .br f => f.cc != 7 && (f.cc != 0 || f.a == 0) && (f.cc == 5 || f.cc == 6 || f.msk == 0)
  | .jmp f => f.direct
  | .call f => f.direct
  | .calli f => f.register
  | .ret f => f.register
  | .loop f => f.a != 0 && f.cc == 0 && f.msk == 0
  | .endTask f => f.register && f.a == 0
  | .pfi f => f.a == 0 && f.cc == 0 && f.slot == 0
  | .trap f => f.code
  | .bpt f => f.code
  | .rsys f => f.a == 0 && f.fn == 0 && f.imm == 0
  | .wsys f => f.d == 0 && f.fn == 0 && f.imm == 0
  | .xsys f => decide (f.fn.toNat ≤ 2) && f.imm == 0
  | .bench f => f.service 0 true false
  | .tmark f => f.service 0 true false
  | .vadd f => f.ty.inF && f.uses { b := true, bOpen := true, rm := true, sat := true, neg := 3 }
  | .vsub f => f.ty.inF && f.uses { b := true, bOpen := true, rm := true, sat := true, neg := 3 }
  | .vmul f => f.ty.inF && f.uses { b := true, bOpen := true, rm := true, sat := true, neg := 3 }
  | .vfma f => f.ty.inF && f.uses { b := true, bOpen := true, c := true, rm := true, sat := true, neg := 7 }
  | .vmin f => f.ty.inF && f.uses { b := true, bOpen := true, sat := true, neg := 3, fnMax := 1 }
  | .vmax f => f.ty.inF && f.uses { b := true, bOpen := true, sat := true, neg := 3, fnMax := 1 }
  | .vdiv f => f.ty.inF && f.uses { b := true, bOpen := true, rm := true, sat := true }
  | .vsqrt f => f.ty.inF && f.uses { rm := true }
  | .vrcp f => f.ty.inF3 && f.uses { rm := true, sat := true }
  | .vrsq f => f.ty.inF3 && f.uses { rm := true, sat := true }
  | .vexp2 f => f.ty.inF3 && f.uses { rm := true, sat := true }
  | .vlog2 f => f.ty.inF3 && f.uses { rm := true }
  | .vfcmp f => f.ty.inF && maskDest f.d && f.uses { b := true, bOpen := true, neg := 3, fnMax := 7 }
  | .vfclass f => f.ty.inF && f.uses {}
  | .vcvt f => f.cvtPart && f.uses { rm := true, sat := true, imm := true, fnMax := 15 }
  | .vabs f => f.ty.inF && f.uses {}
  | .viadd f => f.ty.inI && f.uses { b := true, bOpen := true, sat := true }
  | .visub f => f.ty.inI && f.uses { b := true, bOpen := true, sat := true }
  | .vimul f => f.ty.inI && f.uses { b := true, bOpen := true, sat := true }
  | .vimulh f => f.ty.inI && f.uses { b := true, bOpen := true }
  | .vimad f => f.ty.inI && f.uses { b := true, bOpen := true, c := true, sat := true, neg := 7 }
  | .vand f => f.uses { b := true, bOpen := true, fnMax := 1 }
  | .vor f => f.uses { b := true, bOpen := true }
  | .vxor f => f.uses { b := true, bOpen := true }
  | .vshl f => f.ty.inI && f.uses { b := true, bOpen := true }
  | .vshr f => f.ty.inI && f.uses { b := true, bOpen := true }
  | .vsra f => f.ty.inI && f.uses { b := true, bOpen := true }
  | .vimin f => f.ty.inI && f.uses { b := true, bOpen := true }
  | .vimax f => f.ty.inI && f.uses { b := true, bOpen := true }
  | .vicmp f => f.ty.inI && maskDest f.d && f.uses { b := true, bOpen := true, fnMax := 5 }
  | .vsel f => maskSrc f.c && f.uses { b := true, bOpen := true, c := true }
  | .vmov f => f.uses {}
  | .vbcast f => f.uses { imm := true, fnMax := 2 } && (match f.fn.toNat with
      | 0 => f.imm == 0
      | 1 => decide (f.imm.toNat < f.ty.lanes)
      | _ => f.a == 0 && f.immElem)
  | .vid f => f.ty.inI && f.a == 0 && !f.bi && (f.bs || f.b == 0) && f.uses { b := true, bOpen := true, imm := true }
  | .vperm f => f.ty.inW16 && (f.fn == 1 || f.c == 0) && f.uses { b := true, c := true, fnMax := 1 }
  | .vrot f => (f.bs || f.bi) && f.uses { b := true, bOpen := true, fnMax := 1, raw := true }
  | .vslide f => (f.bs || f.bi) && f.uses { b := true, bOpen := true, c := true, fnMax := 1, raw := true }
  | .vred f => (f.ty.inF || f.ty.inI8) && (f.ty.inI8 || !(f.fn == 3 || f.fn == 4 || f.fn == 5)) && f.uses { rm := true, sat := true, fnMax := 6 }
  | .vscan f => (f.ty.inF || f.ty.inI8) && decide ((f.fn.extractLsb' 0 3).toNat ≤ 5) && (f.ty.inI8 || decide ((f.fn.extractLsb' 0 3).toNat ≤ 2)) && f.uses { rm := true, sat := true, fnMax := 15 }
  | .vext f => f.index
  | .vins f => f.index
  | .vpack f => (f.ty.inI && decide (f.ty.width ≤ 16)) && f.uses { c := true, sat := true }
  | .vunpack f => (f.ty.inI8 && decide (f.ty.width ≤ 32)) && decide (f.imm.toNat ≤ 1) && f.uses { imm := true }
  | .vdot4 f => (f.ty == .i32 || f.ty == .n32) && f.uses { b := true, bOpen := true, c := true, sat := true, fnMax := 3 }
  | .vdot8 f => (f.ty == .i32 || f.ty == .n32) && f.uses { b := true, bOpen := true, c := true, sat := true, fnMax := 3 }
  | .vquant f => f.ty.inF3 && f.quantFn && f.uses { b := true, rm := true, fnMax := 6 }
  | .vdequant f => f.ty.inF3 && f.quantFn && f.uses { b := true, rm := true, sat := true, fnMax := 6 }
  | .vpopc f => f.ty.inI && f.uses {}
  | .mand f => maskDest f.d && maskSrc f.a && maskSrc f.b && f.maskOp 1 true false false
  | .mor f => maskDest f.d && maskSrc f.a && maskSrc f.b && f.maskOp 1 true false false
  | .mxor f => maskDest f.d && maskSrc f.a && maskSrc f.b && f.maskOp 1 true false false
  | .mnot f => maskDest f.d && maskSrc f.a && f.maskOp 0 false false false
  | .mpop f => maskSrc f.a && f.maskOp 0 false false false
  | .mfirst f => maskSrc f.a && f.maskOp 0 false false false
  | .mfroms f => maskDest f.d && decide (f.imm.toNat < 8) && decide (64 * f.imm.toNat < f.ty.maskLanes) && f.maskOp 0 false true false
  | .mtos f => maskSrc f.a && decide (f.imm.toNat < 8) && decide (64 * f.imm.toNat < f.ty.maskLanes) && f.maskOp 0 false true false
  | .mlen f => maskDest f.d && (if f.bi then f.a == 0 else f.imm == 0) && f.maskOp 0 false true true
  | .ld f => f.plain { szMax := 4, ords := loadOrds, fe := true, ch := none, x := false } && f.pairOk
  | .st f => f.plain { szMax := 4, ords := storeOrds, fe := true, ch := none, x := false } && f.pairOk
  | .vld f => f.uses { szMax := 3, ords := loadOrds, fe := true, ch := none, x := false }
  | .vst f => f.uses { szMax := 3, ords := storeOrds, fe := true, ch := none, x := false }
  | .vlds f => f.uses { szMax := 3, ords := loadOrds, ch := none }
  | .vsts f => f.uses { szMax := 3, ords := storeOrds, ch := none }
  | .vldx f => f.uses { szMax := 3, ords := loadOrds, ch := none }
  | .vstx f => f.uses { szMax := 3, ords := storeOrds, ch := none }
  | .pf f => f.plain { szMax := 0, ords := [0], spMax := 0, ch := some 3, d := false, x := false }
  | .cln f => f.plain { szMax := 0, ords := [0], spMax := 0, ch := some 3, d := false, x := false }
  | .feclr f => f.plain { szMin := 4, szMax := 6, ords := [0], spMin := 1, d := false, x := false }
  | .feset f => f.plain { szMin := 4, szMax := 6, ords := [0], spMin := 1, d := false, x := false }
  | .fetst f => f.plain { szMin := 4, szMax := 6, ords := [0], spMin := 1, x := false }
  | .mld f => f.plain { szMax := 0, ords := loadOrds, ch := none, x := false } && maskDest f.d
  | .mst f => f.plain { szMax := 0, ords := storeOrds, ch := none, x := false } && maskSrc f.d
  | .aadd f => f.plain { szMin := 2, szMax := 3, ords := atomicOrds }
  | .aand f => f.plain { szMin := 2, szMax := 3, ords := atomicOrds }
  | .aor f => f.plain { szMin := 2, szMax := 3, ords := atomicOrds }
  | .axor f => f.plain { szMin := 2, szMax := 3, ords := atomicOrds }
  | .amin f => f.plain { szMin := 2, szMax := 3, ords := atomicOrds, ch := some 1 }
  | .amax f => f.plain { szMin := 2, szMax := 3, ords := atomicOrds, ch := some 1 }
  | .aswp f => f.plain { szMin := 2, szMax := 3, ords := atomicOrds }
  | .acas f => f.plain { szMin := 2, szMax := 3, ords := atomicOrds }
  | .acas2 f => f.plain { szMax := 0, ords := atomicOrds } && f.d != 0 && f.d.toNat % 2 == 0 && f.x.toNat % 2 == 0
  | .red f => f.plain { szMin := 2, szMax := 3, ords := [0, 2], ch := some 5, x := false }
  | .vatom f => f.uses { szMin := 2, szMax := 3, ords := atomicOrds, ch := some 6 }
  | .fence f => f.plain { szMax := 0, ords := [1, 2, 3, 4], spMax := 0, d := false, x := false } && f.a == 0 && f.off == 0
  | .acq f => f.plain { szMax := 0, ords := [1, 4], spMax := 0, ch := some 3 } && (f.ch == 3 || f.x == 0)
  | .rel f => f.plain { szMax := 0, ords := [2, 4], spMax := 0, d := false, x := false }
  | .arv f => f.plain { szMax := 0, ords := [2, 4], spMax := 0, x := false }
  | .sgen f => f.plain { szMax := 0, ords := loadOrds, spMax := 0, x := false }
  | .sini f => f.plain { szMax := 0, ords := [0, 2], spMax := 0, ch := some 2 } && f.ch != 0
  | .waita f => f.plain { szMin := 2, szMax := 3, ords := [1, 4], spMax := 0, ch := some 3 }
  | .mxj f => f.job
  | .cpj f => f.job
  | .jpoll f => f.plain 1 true false && f.imm == 0
  | .jwait f => f.plain 1 true false && f.imm == 0
  | .jcan f => f.plain 0 true false && f.imm == 0
  | .send f => f.common && f.fn == 0 && !f.aq && !f.st && decide (f.imm.toNat ≤ 48)
  | .recv f => f.common && decide (f.fn.toNat ≤ 1) && !f.rl && !f.st && f.imm == 0 && !(decide (f.f.toNat ≤ f.d.toNat) && decide (f.d.toNat ≤ f.f.toNat + 7))
  | .launch f => f.plain 0 true true && f.imm == 0
  | .ccnt f => f.plain 1 true true && f.imm == 0
  | .cancel f => f.plain 0 true true && f.imm == 0
  | .graph f => f.plain 1 false true && f.imm == 0
  | .hnote f => f.plain 0 false false && decide (f.imm.toNat < 256)
  | .gcall f => f.window
  | .gret f => f.bare && f.h == 0 && f.st == 0 && f.imm == 0
  | .gdone f => f.bare && f.h == 0 && f.st == 0 && f.imm == 0
  | .dinfo f => f.bare && decide (f.imm.toNat ≤ 9) && (f.imm == 5 || f.h == 0)
  | .rtake f => f.service 0 true false
  | .rcmpl f => f.service 1 true true
  | .rfail f => f.service 0 true true
  | .tret f => f.service 0 false false
  | .resetRelease => true
  | .hostWrite _ => true
  | .ualinkCompleterRequest _ => true
  | .flitCrcError link => decide (link < 8)

end Sys2Proof
end

