-- ==== Sys2Proof/Decode.lean ====
section
/-!
DEFINITION. Decoding and encoding (R223, R228 to R233). `decodeSlot` is total on the 96 bits of a slot and rejects by
name; `encode` is the slot of a well-formed instruction, written from the same tables. The layouts of R230 are stated
once per format, as the concatenation of the fields from bit 95 down.
-/

namespace Sys2Proof

/-- Why a slot is no instruction; every one raises ILLEGAL_INSTR (R232). -/
inductive DecodeError where
  /-- An opcode with no entry in R233. -/
  | unassignedOpcode
  /-- `nop` with any of bits 87:0 set. -/
  | nopBits
  /-- A non-zero mask field where R228 admits none, or the negated m0. -/
  | maskField
  /-- A reserved field of the format is not zero (R230). -/
  | reservedBits
  /-- A field value the instruction does not define (R229, R231, R232). -/
  | fieldValue
  deriving DecidableEq, Repr

/-! ### The formats of R230 -/

/-- Format S. -/
def FmtS.toBits (op : BitVec 8) (f : FmtS) : Slot96 :=
  op ++ (0 : BitVec 4) ++ f.d ++ f.a ++ f.b ++ f.fn ++ BitVec.ofBool f.bi ++ f.w ++ BitVec.ofBool f.sx
    ++ (0 : BitVec 24) ++ f.imm
/-- Format S. -/
def FmtS.ofBits (b : Slot96) : FmtS :=
  { d := b.extractLsb' 78 6, a := b.extractLsb' 72 6, b := b.extractLsb' 66 6, fn := b.extractLsb' 60 6,
    bi := b.getLsbD 59, w := b.extractLsb' 57 2, sx := b.getLsbD 56, imm := b.extractLsb' 0 32 }

/-- Format V. -/
def FmtV.toBits (op : BitVec 8) (f : FmtV) : Slot96 :=
  op ++ f.mq ++ f.d ++ f.a ++ f.b ++ f.c ++ f.fn ++ f.ty.toBits ++ f.rm ++ BitVec.ofBool f.sat
    ++ BitVec.ofBool f.bs ++ BitVec.ofBool f.bi ++ f.neg ++ (0 : BitVec 10) ++ f.imm
/-- Format V. -/
def FmtV.ofBits (b : Slot96) : FmtV :=
  { mq := b.extractLsb' 84 4, d := b.extractLsb' 78 6, a := b.extractLsb' 72 6, b := b.extractLsb' 66 6,
    c := b.extractLsb' 60 6, fn := b.extractLsb' 55 5, ty := ElemTy.ofBits (b.extractLsb' 51 4),
    rm := b.extractLsb' 48 3, sat := b.getLsbD 47, bs := b.getLsbD 46, bi := b.getLsbD 45,
    neg := b.extractLsb' 42 3, imm := b.extractLsb' 0 32 }

/-- Format M. -/
def FmtM.toBits (op : BitVec 8) (f : FmtM) : Slot96 :=
  op ++ f.mq ++ f.d ++ f.a ++ f.x ++ f.sz ++ f.ord ++ f.sc ++ f.sp.toBits ++ f.fe ++ f.ch ++ f.pc
    ++ (0 : BitVec 7) ++ f.off
/-- Format M. -/
def FmtM.ofBits (b : Slot96) : FmtM :=
  { mq := b.extractLsb' 84 4, d := b.extractLsb' 78 6, a := b.extractLsb' 72 6, x := b.extractLsb' 66 6,
    sz := b.extractLsb' 63 3, ord := b.extractLsb' 60 3, sc := b.extractLsb' 57 3,
    sp := Space.ofBits (b.extractLsb' 55 2), fe := b.extractLsb' 53 2, ch := b.extractLsb' 50 3,
    pc := b.extractLsb' 39 11, off := b.extractLsb' 0 32 }

/-- Format B. -/
def FmtB.toBits (op : BitVec 8) (f : FmtB) : Slot96 :=
  op ++ (0 : BitVec 4) ++ f.a ++ f.cc ++ f.msk ++ (0 : BitVec 24) ++ f.slot ++ f.loff
/-- Format B. -/
def FmtB.ofBits (b : Slot96) : FmtB :=
  { a := b.extractLsb' 78 6, cc := b.extractLsb' 75 3, msk := b.extractLsb' 72 3, slot := b.extractLsb' 45 3,
    loff := b.extractLsb' 0 45 }

/-- Format J. -/
def FmtJ.toBits (op : BitVec 8) (f : FmtJ) : Slot96 :=
  op ++ (0 : BitVec 4) ++ f.d ++ f.f ++ f.fn ++ BitVec.ofBool f.aq ++ BitVec.ofBool f.rl ++ f.aqs ++ f.rls
    ++ BitVec.ofBool f.st ++ (0 : BitVec 27) ++ f.imm
/-- Format J. -/
def FmtJ.ofBits (b : Slot96) : FmtJ :=
  { d := b.extractLsb' 78 6, f := b.extractLsb' 72 6, fn := b.extractLsb' 68 4, aq := b.getLsbD 67,
    rl := b.getLsbD 66, aqs := b.extractLsb' 63 3, rls := b.extractLsb' 60 3, st := b.getLsbD 59,
    imm := b.extractLsb' 0 32 }

/-- Format G. -/
def FmtG.toBits (op : BitVec 8) (f : FmtG) : Slot96 :=
  op ++ (0 : BitVec 4) ++ f.h ++ f.vw ++ f.vn ++ f.sw ++ f.sn ++ f.mw ++ f.st ++ (0 : BitVec 13) ++ f.imm
/-- Format G. -/
def FmtG.ofBits (b : Slot96) : FmtG :=
  { h := b.extractLsb' 78 6, vw := b.extractLsb' 72 6, vn := b.extractLsb' 67 5, sw := b.extractLsb' 61 6,
    sn := b.extractLsb' 57 4, mw := b.extractLsb' 51 6, st := b.extractLsb' 45 6, imm := b.extractLsb' 0 32 }

/-- Format Y. -/
def FmtY.toBits (op : BitVec 8) (f : FmtY) : Slot96 :=
  op ++ (0 : BitVec 4) ++ f.d ++ f.a ++ f.sr ++ f.fn ++ (0 : BitVec 22) ++ f.imm
/-- Format Y. -/
def FmtY.ofBits (b : Slot96) : FmtY :=
  { d := b.extractLsb' 78 6, a := b.extractLsb' 72 6, sr := b.extractLsb' 60 12, fn := b.extractLsb' 54 6,
    imm := b.extractLsb' 0 32 }

/-- The reserved field of an opcode's format, as (lowest bit, width) (R229, R230). -/
def reservedField (op : Nat) : Nat × Nat :=
  if op ≤ 0x01 then (0, 0)
  else if op ≤ 0x1E then (32, 24)
  else if op ≤ 0x29 then (48, 24)
  else if op ≤ 0x34 then (32, 22)
  else if op ≤ 0x78 then (32, 10)
  else if op ≤ 0xB5 then (32, 7)
  else if op ≤ 0xC7 then (32, 27)
  else if op ≤ 0xD3 then (32, 13)
  else (32, 22)

/-- The opcodes under which `mq` may be non-zero (R228). -/
def maskedOpcode (op : Nat) : Bool :=
  (decide (0x40 ≤ op) && decide (op ≤ 0x6F)) || (decide (0x82 ≤ op) && decide (op ≤ 0x87)) || op == 0xAA

/-- The instruction the opcode map of R233 assigns, its fields read by its format (R229), nothing checked. -/
def rawDecode (b : Slot96) : Option Instr :=
  match (b.extractLsb' 88 8).toNat with
  | 0x00 => some (.ill (b.extractLsb' 0 88))
  | 0x01 => some .nop
  | 0x02 => some (.add (.ofBits b))
  | 0x03 => some (.sub (.ofBits b))
  | 0x04 => some (.mul (.ofBits b))
  | 0x05 => some (.mulh (.ofBits b))
  | 0x06 => some (.div (.ofBits b))
  | 0x07 => some (.rem (.ofBits b))
  | 0x08 => some (.and (.ofBits b))
  | 0x09 => some (.or (.ofBits b))
  | 0x0A => some (.xor (.ofBits b))
  | 0x0B => some (.andn (.ofBits b))
  | 0x0C => some (.shl (.ofBits b))
  | 0x0D => some (.shr (.ofBits b))
  | 0x0E => some (.sra (.ofBits b))
  | 0x0F => some (.rot (.ofBits b))
  | 0x10 => some (.min (.ofBits b))
  | 0x11 => some (.max (.ofBits b))
  | 0x12 => some (.cmp (.ofBits b))
  | 0x13 => some (.sel (.ofBits b))
  | 0x14 => some (.mov (.ofBits b))
  | 0x15 => some (.lih (.ofBits b))
  | 0x16 => some (.clz (.ofBits b))
  | 0x17 => some (.ctz (.ofBits b))
  | 0x18 => some (.popc (.ofBits b))
  | 0x19 => some (.bext (.ofBits b))
  | 0x1A => some (.bins (.ofBits b))
  | 0x1B => some (.lea (.ofBits b))
  | 0x1C => some (.abs (.ofBits b))
  | 0x1D => some (.ext (.ofBits b))
  | 0x1E => some (.bswap (.ofBits b))
  | 0x20 => some (.br (.ofBits b))
  | 0x21 => some (.jmp (.ofBits b))
  | 0x22 => some (.call (.ofBits b))
  | 0x23 => some (.calli (.ofBits b))
  | 0x24 => some (.ret (.ofBits b))
  | 0x25 => some (.loop (.ofBits b))
  | 0x26 => some (.endTask (.ofBits b))
  | 0x27 => some (.pfi (.ofBits b))
  | 0x28 => some (.trap (.ofBits b))
  | 0x29 => some (.bpt (.ofBits b))
  | 0x30 => some (.rsys (.ofBits b))
  | 0x31 => some (.wsys (.ofBits b))
  | 0x32 => some (.xsys (.ofBits b))
  | 0x33 => some (.bench (.ofBits b))
  | 0x34 => some (.tmark (.ofBits b))
  | 0x40 => some (.vadd (.ofBits b))
  | 0x41 => some (.vsub (.ofBits b))
  | 0x42 => some (.vmul (.ofBits b))
  | 0x43 => some (.vfma (.ofBits b))
  | 0x44 => some (.vmin (.ofBits b))
  | 0x45 => some (.vmax (.ofBits b))
  | 0x46 => some (.vdiv (.ofBits b))
  | 0x47 => some (.vsqrt (.ofBits b))
  | 0x48 => some (.vrcp (.ofBits b))
  | 0x49 => some (.vrsq (.ofBits b))
  | 0x4A => some (.vexp2 (.ofBits b))
  | 0x4B => some (.vlog2 (.ofBits b))
  | 0x4C => some (.vfcmp (.ofBits b))
  | 0x4D => some (.vfclass (.ofBits b))
  | 0x4E => some (.vcvt (.ofBits b))
  | 0x4F => some (.vabs (.ofBits b))
  | 0x50 => some (.viadd (.ofBits b))
  | 0x51 => some (.visub (.ofBits b))
  | 0x52 => some (.vimul (.ofBits b))
  | 0x53 => some (.vimulh (.ofBits b))
  | 0x54 => some (.vimad (.ofBits b))
  | 0x55 => some (.vand (.ofBits b))
  | 0x56 => some (.vor (.ofBits b))
  | 0x57 => some (.vxor (.ofBits b))
  | 0x58 => some (.vshl (.ofBits b))
  | 0x59 => some (.vshr (.ofBits b))
  | 0x5A => some (.vsra (.ofBits b))
  | 0x5B => some (.vimin (.ofBits b))
  | 0x5C => some (.vimax (.ofBits b))
  | 0x5D => some (.vicmp (.ofBits b))
  | 0x5E => some (.vsel (.ofBits b))
  | 0x5F => some (.vmov (.ofBits b))
  | 0x60 => some (.vbcast (.ofBits b))
  | 0x61 => some (.vid (.ofBits b))
  | 0x62 => some (.vperm (.ofBits b))
  | 0x63 => some (.vrot (.ofBits b))
  | 0x64 => some (.vslide (.ofBits b))
  | 0x65 => some (.vred (.ofBits b))
  | 0x66 => some (.vscan (.ofBits b))
  | 0x67 => some (.vext (.ofBits b))
  | 0x68 => some (.vins (.ofBits b))
  | 0x69 => some (.vpack (.ofBits b))
  | 0x6A => some (.vunpack (.ofBits b))
  | 0x6B => some (.vdot4 (.ofBits b))
  | 0x6C => some (.vdot8 (.ofBits b))
  | 0x6D => some (.vquant (.ofBits b))
  | 0x6E => some (.vdequant (.ofBits b))
  | 0x6F => some (.vpopc (.ofBits b))
  | 0x70 => some (.mand (.ofBits b))
  | 0x71 => some (.mor (.ofBits b))
  | 0x72 => some (.mxor (.ofBits b))
  | 0x73 => some (.mnot (.ofBits b))
  | 0x74 => some (.mpop (.ofBits b))
  | 0x75 => some (.mfirst (.ofBits b))
  | 0x76 => some (.mfroms (.ofBits b))
  | 0x77 => some (.mtos (.ofBits b))
  | 0x78 => some (.mlen (.ofBits b))
  | 0x80 => some (.ld (.ofBits b))
  | 0x81 => some (.st (.ofBits b))
  | 0x82 => some (.vld (.ofBits b))
  | 0x83 => some (.vst (.ofBits b))
  | 0x84 => some (.vlds (.ofBits b))
  | 0x85 => some (.vsts (.ofBits b))
  | 0x86 => some (.vldx (.ofBits b))
  | 0x87 => some (.vstx (.ofBits b))
  | 0x88 => some (.pf (.ofBits b))
  | 0x89 => some (.cln (.ofBits b))
  | 0x8A => some (.feclr (.ofBits b))
  | 0x8B => some (.feset (.ofBits b))
  | 0x8C => some (.fetst (.ofBits b))
  | 0x8D => some (.mld (.ofBits b))
  | 0x8E => some (.mst (.ofBits b))
  | 0xA0 => some (.aadd (.ofBits b))
  | 0xA1 => some (.aand (.ofBits b))
  | 0xA2 => some (.aor (.ofBits b))
  | 0xA3 => some (.axor (.ofBits b))
  | 0xA4 => some (.amin (.ofBits b))
  | 0xA5 => some (.amax (.ofBits b))
  | 0xA6 => some (.aswp (.ofBits b))
  | 0xA7 => some (.acas (.ofBits b))
  | 0xA8 => some (.acas2 (.ofBits b))
  | 0xA9 => some (.red (.ofBits b))
  | 0xAA => some (.vatom (.ofBits b))
  | 0xAB => some (.fence (.ofBits b))
  | 0xB0 => some (.acq (.ofBits b))
  | 0xB1 => some (.rel (.ofBits b))
  | 0xB2 => some (.arv (.ofBits b))
  | 0xB3 => some (.sgen (.ofBits b))
  | 0xB4 => some (.sini (.ofBits b))
  | 0xB5 => some (.waita (.ofBits b))
  | 0xBC => some (.mxj (.ofBits b))
  | 0xBD => some (.cpj (.ofBits b))
  | 0xBE => some (.jpoll (.ofBits b))
  | 0xBF => some (.jwait (.ofBits b))
  | 0xC0 => some (.jcan (.ofBits b))
  | 0xC1 => some (.send (.ofBits b))
  | 0xC2 => some (.recv (.ofBits b))
  | 0xC3 => some (.launch (.ofBits b))
  | 0xC4 => some (.ccnt (.ofBits b))
  | 0xC5 => some (.cancel (.ofBits b))
  | 0xC6 => some (.graph (.ofBits b))
  | 0xC7 => some (.hnote (.ofBits b))
  | 0xD0 => some (.gcall (.ofBits b))
  | 0xD1 => some (.gret (.ofBits b))
  | 0xD2 => some (.gdone (.ofBits b))
  | 0xD3 => some (.dinfo (.ofBits b))
  | 0xD8 => some (.rtake (.ofBits b))
  | 0xD9 => some (.rcmpl (.ofBits b))
  | 0xDA => some (.rfail (.ofBits b))
  | 0xDB => some (.tret (.ofBits b))
  | _ => none

/-- The decoder: total, rejecting by name (R228 to R233). `ill` is an instruction whatever bits 87:0 hold (R259). -/
def decodeSlot (b : Slot96) : Except DecodeError Instr :=
  let op := (b.extractLsb' 88 8).toNat
  match rawDecode b with
  | none => .error .unassignedOpcode
  | some (.ill bits) => .ok (.ill bits)
  | some i =>
    if op == 0x01 && b.extractLsb' 0 88 != 0 then .error .nopBits
    else if b.extractLsb' 84 4 != 0 && (!maskedOpcode op || b.extractLsb' 84 4 == 8) then .error .maskField
    else if (b >>> (reservedField op).1) &&& ((1 <<< (reservedField op).2) - 1) != 0 then .error .reservedBits
    else if i.wf then .ok i else .error .fieldValue

/-- The instruction a slot's bits stand for, when they stand for one (`Sys2Proof.decodeSlot` without the reason). The
opcode table gives no row any bits, so every word is the whole slot: bit 0 is the slot's least significant bit. -/
def decodeTableWord (_nbits w : Nat) : Option Instr :=
  match decodeSlot (BitVec.ofNat 96 w) with
  | .ok i => some i
  | .error _ => none

/-! ### The encoder -/

/-- The slot of an instruction (R230, R233). An event row has no encoding: it is no instruction of a program. -/
def encode : Instr → Slot96
  | .ill bits => (0x00 : BitVec 8) ++ bits
  | .nop => 0x010000000000000000000000
  | .add f => f.toBits 0x02
  | .sub f => f.toBits 0x03
  | .mul f => f.toBits 0x04
  | .mulh f => f.toBits 0x05
  | .div f => f.toBits 0x06
  | .rem f => f.toBits 0x07
  | .and f => f.toBits 0x08
  | .or f => f.toBits 0x09
  | .xor f => f.toBits 0x0A
  | .andn f => f.toBits 0x0B
  | .shl f => f.toBits 0x0C
  | .shr f => f.toBits 0x0D
  | .sra f => f.toBits 0x0E
  | .rot f => f.toBits 0x0F
  | .min f => f.toBits 0x10
  | .max f => f.toBits 0x11
  | .cmp f => f.toBits 0x12
  | .sel f => f.toBits 0x13
  | .mov f => f.toBits 0x14
  | .lih f => f.toBits 0x15
  | .clz f => f.toBits 0x16
  | .ctz f => f.toBits 0x17
  | .popc f => f.toBits 0x18
  | .bext f => f.toBits 0x19
  | .bins f => f.toBits 0x1A
  | .lea f => f.toBits 0x1B
  | .abs f => f.toBits 0x1C
  | .ext f => f.toBits 0x1D
  | .bswap f => f.toBits 0x1E
  | .br f => f.toBits 0x20
  | .jmp f => f.toBits 0x21
  | .call f => f.toBits 0x22
  | .calli f => f.toBits 0x23
  | .ret f => f.toBits 0x24
  | .loop f => f.toBits 0x25
  | .endTask f => f.toBits 0x26
  | .pfi f => f.toBits 0x27
  | .trap f => f.toBits 0x28
  | .bpt f => f.toBits 0x29
  | .rsys f => f.toBits 0x30
  | .wsys f => f.toBits 0x31
  | .xsys f => f.toBits 0x32
  | .bench f => f.toBits 0x33
  | .tmark f => f.toBits 0x34
  | .vadd f => f.toBits 0x40
  | .vsub f => f.toBits 0x41
  | .vmul f => f.toBits 0x42
  | .vfma f => f.toBits 0x43
  | .vmin f => f.toBits 0x44
  | .vmax f => f.toBits 0x45
  | .vdiv f => f.toBits 0x46
  | .vsqrt f => f.toBits 0x47
  | .vrcp f => f.toBits 0x48
  | .vrsq f => f.toBits 0x49
  | .vexp2 f => f.toBits 0x4A
  | .vlog2 f => f.toBits 0x4B
  | .vfcmp f => f.toBits 0x4C
  | .vfclass f => f.toBits 0x4D
  | .vcvt f => f.toBits 0x4E
  | .vabs f => f.toBits 0x4F
  | .viadd f => f.toBits 0x50
  | .visub f => f.toBits 0x51
  | .vimul f => f.toBits 0x52
  | .vimulh f => f.toBits 0x53
  | .vimad f => f.toBits 0x54
  | .vand f => f.toBits 0x55
  | .vor f => f.toBits 0x56
  | .vxor f => f.toBits 0x57
  | .vshl f => f.toBits 0x58
  | .vshr f => f.toBits 0x59
  | .vsra f => f.toBits 0x5A
  | .vimin f => f.toBits 0x5B
  | .vimax f => f.toBits 0x5C
  | .vicmp f => f.toBits 0x5D
  | .vsel f => f.toBits 0x5E
  | .vmov f => f.toBits 0x5F
  | .vbcast f => f.toBits 0x60
  | .vid f => f.toBits 0x61
  | .vperm f => f.toBits 0x62
  | .vrot f => f.toBits 0x63
  | .vslide f => f.toBits 0x64
  | .vred f => f.toBits 0x65
  | .vscan f => f.toBits 0x66
  | .vext f => f.toBits 0x67
  | .vins f => f.toBits 0x68
  | .vpack f => f.toBits 0x69
  | .vunpack f => f.toBits 0x6A
  | .vdot4 f => f.toBits 0x6B
  | .vdot8 f => f.toBits 0x6C
  | .vquant f => f.toBits 0x6D
  | .vdequant f => f.toBits 0x6E
  | .vpopc f => f.toBits 0x6F
  | .mand f => f.toBits 0x70
  | .mor f => f.toBits 0x71
  | .mxor f => f.toBits 0x72
  | .mnot f => f.toBits 0x73
  | .mpop f => f.toBits 0x74
  | .mfirst f => f.toBits 0x75
  | .mfroms f => f.toBits 0x76
  | .mtos f => f.toBits 0x77
  | .mlen f => f.toBits 0x78
  | .ld f => f.toBits 0x80
  | .st f => f.toBits 0x81
  | .vld f => f.toBits 0x82
  | .vst f => f.toBits 0x83
  | .vlds f => f.toBits 0x84
  | .vsts f => f.toBits 0x85
  | .vldx f => f.toBits 0x86
  | .vstx f => f.toBits 0x87
  | .pf f => f.toBits 0x88
  | .cln f => f.toBits 0x89
  | .feclr f => f.toBits 0x8A
  | .feset f => f.toBits 0x8B
  | .fetst f => f.toBits 0x8C
  | .mld f => f.toBits 0x8D
  | .mst f => f.toBits 0x8E
  | .aadd f => f.toBits 0xA0
  | .aand f => f.toBits 0xA1
  | .aor f => f.toBits 0xA2
  | .axor f => f.toBits 0xA3
  | .amin f => f.toBits 0xA4
  | .amax f => f.toBits 0xA5
  | .aswp f => f.toBits 0xA6
  | .acas f => f.toBits 0xA7
  | .acas2 f => f.toBits 0xA8
  | .red f => f.toBits 0xA9
  | .vatom f => f.toBits 0xAA
  | .fence f => f.toBits 0xAB
  | .acq f => f.toBits 0xB0
  | .rel f => f.toBits 0xB1
  | .arv f => f.toBits 0xB2
  | .sgen f => f.toBits 0xB3
  | .sini f => f.toBits 0xB4
  | .waita f => f.toBits 0xB5
  | .mxj f => f.toBits 0xBC
  | .cpj f => f.toBits 0xBD
  | .jpoll f => f.toBits 0xBE
  | .jwait f => f.toBits 0xBF
  | .jcan f => f.toBits 0xC0
  | .send f => f.toBits 0xC1
  | .recv f => f.toBits 0xC2
  | .launch f => f.toBits 0xC3
  | .ccnt f => f.toBits 0xC4
  | .cancel f => f.toBits 0xC5
  | .graph f => f.toBits 0xC6
  | .hnote f => f.toBits 0xC7
  | .gcall f => f.toBits 0xD0
  | .gret f => f.toBits 0xD1
  | .gdone f => f.toBits 0xD2
  | .dinfo f => f.toBits 0xD3
  | .rtake f => f.toBits 0xD8
  | .rcmpl f => f.toBits 0xD9
  | .rfail f => f.toBits 0xDA
  | .tret f => f.toBits 0xDB
  | _ => 0

/-- An ISA instruction, with an encoding: not an event row. -/
def Instr.isIsa (i : Instr) : Bool :=
  match i with
  | .ill _ => true
  | i => encode i != 0

end Sys2Proof
end

