-- ==== Sys2Proof/Config.lean ====
section
/-!
DEFINITION. What one part fixes and what the spec leaves open. Every constant here is opaque, without a body: nothing
can evaluate it or prove a value of it, so whatever is proved holds for every value. The free values drawn from the
counter `State.free` (R40 grant tags, R44 identity, R50 nonces, R48 and R47 key material) are applied to that counter.
-/

namespace Sys2Proof.Config

/-- STEP of DEV_ID: the silicon stepping, fixed per part (R22). -/
opaque step : BitVec 8
/-- A fresh grant tag from the security core's random source (R40). -/
opaque freeTag : Nat → BitVec 32
/-- A fresh 32-byte nonce (R50). -/
opaque freeNonce : Nat → BitVec 256
/-- A fresh Falcon-1024 public key, as the SHAKE256 of it (R44). -/
opaque freeIdentity : Nat → BitVec 256
/-- A fresh ML-KEM-1024 import key pair of a domain, as the 1,568 bytes of its public key (R45, R46). -/
opaque freeKemPublic : Nat → List (BitVec 8)
/-- SHAKE256 with 32 bytes of output (R44, R45, R51). -/
opaque shake256 : List (BitVec 8) → BitVec 256
/-- Measurement of the security core's firmware (R45). -/
opaque measSecurity : BitVec 256
/-- Measurement of the supervisor's firmware (R45). -/
opaque measSupervisor : BitVec 256
/-- The Falcon-1024 padded-format signature of a report under the device identity, 1,280 bytes (R45). -/
opaque sign : BitVec 256 → List (BitVec 8) → List (BitVec 8)
/-- A debug-unlock token's signature verifies under the fused key hash (R50). -/
opaque tokenSigned : List (BitVec 8) → Bool
/-- A fresh AES-256-XTS key pair of a confidential domain (R46). -/
opaque freeXts : Nat → BitVec 512
/-- AES-256-XTS encryption of a 128-byte line under a key pair, with the physical line address (bits 51:7) as the tweak
(R46). -/
opaque xtsLine : BitVec 512 → Nat → List (BitVec 8) → List (BitVec 8)
/-- Its decryption. -/
opaque xtsOpen : BitVec 512 → Nat → List (BitVec 8) → List (BitVec 8)
/-- ML-KEM-1024 decapsulation to the shared secret (R47): of the import key pair that the public key names, and a
ciphertext. -/
opaque decapsulate : List (BitVec 8) → List (BitVec 8) → BitVec 256
/-- AES-256-GCM decryption (R47, R48) under key and 96-bit IV, of additional authenticated data, ciphertext and tag: the
plaintext, or none on a tag failure. -/
opaque gcmOpen : BitVec 256 → BitVec 96 → List (BitVec 8) → List (BitVec 8) → List (BitVec 8) → Option (List (BitVec 8))
/-- The value a write-only or unimplemented choice of the part takes, by a running index (see `State.free`). -/
opaque freeWord : Nat → BitVec 64

end Sys2Proof.Config
end

