-- ==== Sys2Proof/Machine/State.lean ====
section
/-!
DEFINITION. The state of the part, as plain data: everything the spec gives it, in nested records. A `SMap` is a list
of (key, value) pairs with strictly rising keys and no entry equal to what an unlisted key reads as
(`Sys2Proof.Machine.Ops`); physical memory is such a list of `Host.Cell`s.

A task slot is named by its key, core × 16 + slot (R62). Cycles are arithmetic cycles (R11). `agenda` is the schedule
of the world outside the cores: the events that are to happen next, as plain data; the step function takes its head.
-/

namespace Sys2Proof.Machine

/-! ### Names -/

/-- Trap causes (R169), in the order of their values. -/
inductive Cause where
  | illegalInstr | fetchParity | control | fetchFault | dataFault | align | perm | poisonConsumed | raceRw | raceWw
  | raceMode | raceScope | raceEngine | unacquired | atomicOnly | syncLateArrival | acqTableFull | gateState
  | atomicUnsupported | breakpoint | software
  deriving DecidableEq, Repr

/-- The states of a task slot (R62), in the order of their codes. -/
inductive SlotState where
  | free | admitted | ready | blkJob | blkMon | blkFe | blkAcq | blkRecv | inCall | preempting | ended
  deriving DecidableEq, Repr

/-- The lifecycle states (R49). -/
inductive Lifecycle where
  | manufacture | provisioned | deployed | debugUnlocked | retired
  deriving DecidableEq, Repr

/-- The life of a domain (R38, R41): absent, live, revoked, killed. -/
inductive DomState where
  | absent | live | revoked | killed
  deriving DecidableEq, Repr

/-- How the last instruction issued ended: it took effect, it trapped, it was held, or it blocked its slot. -/
inductive Result where
  | retired | trapped | held | blocked
  deriving DecidableEq, Repr

/-- Why a step stops with a fault. There is no such reason: the spec gives every instruction and event of the part an
effect, traps included, so the type is empty. -/
inductive Fault where
  deriving DecidableEq, Repr

/-- Why a step has no meaning. -/
inductive Refusal where
  /-- Raised by an arm of `exec` whose instruction has no meaning in the model yet. Safe. -/
  | notModelled (mnemonic : String)
  deriving DecidableEq, Repr

/-! ### The package and the hub -/

/-- PKG_STATUS and what drives it (R10, R13, R16 to R20), the lifecycle and the device's identity (R44, R49, R50). -/
structure Package where
  ready : Bool := false
  wiping : Bool := true
  fatal : Bool := false
  replReq : Bool := false
  /-- A device reset is asserted and not yet released (R15). -/
  resetHeld : Bool := false
  /-- Ring links 0 to 3 (link d joins die d and die d+1 mod 4) and hub links 4 to 7 out of routing (R7, R10). -/
  linksDown : List Nat := []
  /-- Flits retransmitted by the link layer, per link (R7). -/
  retransmits : SMap Nat := []
  /-- The power limit in watts (R13). -/
  powerLimit : Nat := 2800
  /-- Steps of 53.125 MHz by which the power limiter and the thermal limiter lower the clock, 0 to 8 (R13). -/
  powerSteps : Nat := 0
  thermSteps : Nat := 0
  /-- A sensor reached 110 °C: every core and engine has stopped (R13). -/
  tripped : Bool := false
  /-- The hub's non-volatile store of quarantined units (R18). -/
  quarCores : List Nat := []
  quarClusters : List Nat := []
  quarSlices : List Nat := []
  lifecycle : Lifecycle := .manufacture
  /-- The device identity, once generated (R44). -/
  identity : Option (BitVec 256) := none
  /-- The latest nonce still valid (R50). -/
  nonce : Option (BitVec 256) := none
  /-- The serial of the token that unlocked the device (R45, R50). -/
  unlockSerial : Word := 0
  /-- AtomicOp widths the root port reported at bring-up (R35). -/
  aop32 : Bool := false
  aop64 : Bool := false
  aop128 : Bool := false
  /-- Bound UALink windows (R90): (window, remote endpoint, base, coherent). -/
  uaWindows : List (Nat × Nat × Nat × Bool) := []
  deriving DecidableEq, Repr

/-- One submission queue (R23, R24, R28): its registers, the open job with the items it still awaits, and the counter
a WAIT record waits for. -/
structure Queue where
  base : Word := 0
  log2 : Nat := 0
  tail : Nat := 0
  head : Nat := 0
  en : Bool := false
  stopped : Bool := false
  err : Nat := 0
  errTag : Nat := 0
  openJob : Option (Nat × Nat) := none
  waiting : Option Nat := none
  deriving DecidableEq, Repr

/-- One MSI-X vector (R31). -/
structure MsixVec where
  timer : Nat := 0
  pend : Nat := 0
  thresh : Nat := 1
  running : Bool := false
  sending : Bool := false
  masked : Bool := true
  pendingBit : Bool := false
  /-- The timer expired while a message was being sent: the next one is due when that is issued. -/
  dueNext : Bool := false
  /-- Outstanding SYS accesses that must be issued before the message being sent (R32). -/
  after : List Nat := []
  /-- Messages issued to the link. -/
  sent : Nat := 0
  deriving DecidableEq, Repr

/-- A breakpoint or watchpoint of a session (R217). -/
structure DebugUnit where
  asid : Nat := 0
  gtid : Word := 0
  gmask : Word := 0
  /-- Breakpoint: the PC. Watchpoint: the base. -/
  addr : Word := 0
  len : Word := 0
  /-- Breakpoint: action TRAP. -/
  isTrap : Bool := false
  onRead : Bool := false
  onWrite : Bool := false
  deriving DecidableEq, Repr

/-- A command of a session that has not completed: a HALT of a domain, or of one task of it; a replay; a REWIND or a STEPBACK
that waits for room for its stop list (R201, R216). -/
inductive DebugWait where
  | halting (asid : Nat) (gtid : Option Word)
  | replaying (asid : Nat)
  | rewinding (c : DebugCmd)
  | stepping (c : DebugCmd)
  deriving DecidableEq, Repr

/-- A session on function 1 (R50, R51, R215, R217, R222). -/
structure Session where
  keyHash : BitVec 256 := 0
  authority : Bool := false
  bps : SMap DebugUnit := []
  wps : SMap DebugUnit := []
  status : Nat := 0
  value : Word := 0
  stopGtid : Word := 0
  stopCause : Nat := 0
  slogFilter : Word := 0
  slogRing : Nat := 0
  slogAsid : Nat := 0
  slogSkip : Nat := 0
  /-- The CMD register (R215). -/
  cmd : BitVec 512 := 0
  /-- The command that runs (R215). -/
  busy : Option DebugWait := none
  deriving DecidableEq, Repr

/-! ### Work in the hub -/

/-- A job opened by a JOB record (R28, R52). -/
structure HostJob where
  asid : Nat
  counter : Nat
  usable : Bool
  left : Nat
  faulted : Bool := false
  cancelled : Bool := false
  vector : Option Nat := none
  /-- A cancellation has reached it: an item still to come is cancelled too (R67). -/
  dropped : Bool := false
  deriving DecidableEq, Repr

/-- Where a launch or graph hangs in the hierarchy: under a job's item, under a graph, or at its own level (R335). -/
inductive Parent where
  | none | job (id : Nat) | graph (id : Nat)
  deriving DecidableEq, Repr

/-- A launch the front end accepted (R53 to R59). The record's fields are those read at its start. -/
structure Launch where
  asid : Nat
  serial : Nat
  record : Nat
  parent : Parent := .none
  /-- Started by the host or by another domain (R189 EXT_LAUNCH). -/
  external : Bool := false
  device : Bool := false
  started : Bool := false
  cancelled : Bool := false
  faulted : Bool := false
  entry : Word := 0
  args : Word := 0
  grid : List Nat := []
  text : List Nat := []
  tile : List Nat := []
  tiles : Bool := false
  counter : Nat := 0
  budget : Nat := 0
  priority : Nat := 0
  vregs : Nat := 8
  scratch : Nat := 0
  resident : Bool := false
  /-- The partition: each die's next undispatched index and the end of its share (R58, R59). -/
  next : List Nat := []
  stop : List Nat := []
  /-- Tasks a snapshot found dispatched and not admitted: a restored launch dispatches them first (R195, R199). -/
  redo : List Nat := []
  left : Nat := 0
  /-- A REWIND has restored it from a snapshot (R354). -/
  recorded : Bool := false
  /-- Start order (R59). -/
  order : Nat := 0
  deriving DecidableEq, Repr

/-- What a graph walker does between nodes (R70): not yet armed, about to read a node, waiting for a counter. -/
inductive WalkState where
  | arming | atNode | waiting (va : Nat) | done
  deriving DecidableEq, Repr

/-- A graph walker (R68 to R71). -/
structure Walker where
  asid : Nat
  first : Nat
  block : Nat
  snap : Bool
  parent : Parent := .none
  device : Bool := false
  /-- Submitted by the host or by another domain (R189 EXT_LAUNCH). -/
  external : Bool := false
  state : WalkState := .arming
  pos : Nat := 0
  arms : Nat := 0
  counter : Nat := 0
  len : Nat := 0
  snapAddr : Nat := 0
  usable : Bool := true
  left : Nat := 0
  faulted : Bool := false
  cancelled : Bool := false
  deriving DecidableEq, Repr

/-! ### Domains -/

/-- A sealed-weight key slot and its binding (R47). -/
structure KeySlot where
  key : BitVec 256
  base : Nat
  len : Nat
  tagTab : Nat
  set : BitVec 32
  deriving DecidableEq, Repr

/-- A grant: index, revision and grant tag (R40, R151). -/
structure Grant where
  index : Nat
  rev : Nat
  tag : BitVec 32
  deriving DecidableEq, Repr

/-- The tail of a domain (R218): its ring. -/
structure TailRing where
  ring : Nat
  session : Nat
  deriving DecidableEq, Repr

/-- One delay-accounting entry (R221). -/
structure AcctEntry where
  sender : Nat
  count : Nat := 0
  sumT : Nat := 0
  sumQ : Nat := 0
  sumR : Nat := 0
  maxT : Nat := 0
  maxQ : Nat := 0
  maxR : Nat := 0
  deriving DecidableEq, Repr

/-- The goal of a running replay (R201, R203). -/
structure ReplayGoal where
  gtid : Word
  count : Nat
  force : Bool
  /-- The end of history is the goal: a debugger's RESUME (R201). -/
  toEnd : Bool := false
  /-- The session that is told how it ends. -/
  session : Nat := 0
  deriving DecidableEq, Repr

/-- A task that issues `bench` and waits (R271): the cycle, its slot, its GTID and its PC. -/
structure BenchWait where
  cycle : Nat
  slot : Nat
  gtid : Word
  pc : Word
  deriving DecidableEq, Repr

/-- A live domain (R38 to R51, R152, R170, R176, R186, R207, R213). -/
structure Domain where
  state : DomState := .absent
  flags : Word := 0
  cred : BitVec 256 := 0
  meas : BitVec 256 := 0
  kemPub : List Byte := []
  /-- The AES-256-XTS key pair of a confidential domain (R38, R46). -/
  xts : Option (BitVec 512) := none
  keys : SMap KeySlot := []
  place : DomPlace
  allot : List Nat := []
  timesliced : Bool := false
  sliceUs : Nat := 0
  /-- Clusters the domain has left by a time-slice end; its cores' scratchpads lie in the save pool (R43). -/
  evicted : List Nat := []
  grants : List Grant := []
  endpoints : List Grant := []
  vectors : List Nat := []
  serial : Nat := 0
  /-- Next index of the retry ring (R176). -/
  ringNext : Nat := 0
  raceDrops : Nat := 0
  /-- Seal blocks in use and allocated ranges of the save pool (R152, R183). -/
  sealUsed : List Nat := []
  saveUsed : List (Nat × Nat) := []
  halted : Bool := false
  /-- The log stopped the domain (R191), or a replay did (R201): its tasks issue nothing. -/
  logStopped : Bool := false
  replay : Option ReplayGoal := none
  /-- In REPLAY: the sequence number of the bench restored, and the recorded entries whose operations have been performed
  since (R201). -/
  replayFrom : Nat := 0
  replayDone : List Nat := []
  /-- Tasks that have ended since the oldest retained bench: by GTID, the final instruction count and CURBENCH then
  (R201). -/
  ended : SMap (Nat × Nat) := []
  /-- The launch serial counter at the opening of each retained bench (R57, R201). -/
  benchSerial : SMap Nat := []
  /-- A REWIND has restored a snapshot whose launches have not been re-dispatched yet (R354). -/
  rewound : Bool := false
  tail : Option TailRing := none
  tailDrops : Nat := 0
  acct : List AcctEntry := []
  wipePending : Bool := false
  /-- Tasks that issue `bench` and wait (R271), in the order they are served. -/
  benchQ : List BenchWait := []
  deriving DecidableEq, Repr

/-- An entry of the adit table (R149). -/
structure Adit where
  publisher : Nat := 0
  rev : Nat := 0
  logged : Bool := false
  rewindOk : Bool := false
  reentrant : Bool := false
  valid : Bool := false
  entry : Word := 0
  cleanup : Word := 0
  vmax : Nat := 0
  smax : Nat := 0
  mperm : Nat := 0
  vneed : Nat := 0
  reserve : Nat := 0
  mwmax : Nat := 0
  deriving DecidableEq, Repr

/-- An entry of the device endpoint table (R40). -/
structure Endpoint where
  rev : Nat := 0
  core : Nat := 0
  asid : Nat := 0
  ualink : Option Nat := none
  valid : Bool := false
  deriving DecidableEq, Repr

/-! ### Tasks -/

/-- A three-component extent or coordinate (R57). -/
structure Tri where
  x : Nat := 0
  y : Nat := 0
  z : Nat := 0
  deriving DecidableEq, Repr

/-- The identity registers that never change (R57). -/
structure Ident where
  gtid : Word := 0
  task : Nat := 0
  grid : Tri := {}
  idx : Tri := {}
  org : Tri := {}
  ext : Tri := {}
  args : Word := 0
  deriving DecidableEq, Repr

/-- An acquire-table entry (R316), and its place in the table, 0 to 7. A task's list holds them oldest first. -/
structure AcqEntry where
  obj : Nat
  gen : Nat
  mode : Nat
  scope : Nat
  depth : Nat
  ix : Nat := 0
  deriving DecidableEq, Repr

/-- An armed monitor (R78, R322): the word's virtual and physical address and size, the condition (0 eq, 1 ne, 2 geu,
3 ltu) with its comparand, whether it is tabled or on the core's sweep list, its order of arming, and the first value
seen after arming that satisfied the condition, with its poison. -/
structure Monitor where
  /-- The domain whose tables translate the word's address. -/
  owner : Nat := 0
  va : Nat
  pa : Nat
  size : Nat
  cond : Nat
  comparand : Nat
  tabled : Bool
  order : Nat
  seen : Option Nat := none
  seenPoi : Bool := false
  deriving DecidableEq, Repr

/-- A full-empty access that waits (R75): 0 wait-full, 1 wait-full-and-clear, 2 wait-empty-set-full, and the granules it
covers. -/
structure FeWait where
  kind : Nat
  grans : List Nat
  deriving DecidableEq, Repr

/-- A retry entry the task waits for: the ring's owner, the entry's index, the first line of the access and how many it
covers, the keys of its destination registers (none when nothing is written) and its depth (R177, R178). -/
structure RetryRef where
  owner : Nat
  index : Nat
  line : Nat
  lines : Nat := 1
  dests : List Nat
  depth : Nat
  /-- An acquire-class access, which holds its task (R178). -/
  acquire : Bool
  /-- It reads (R314). -/
  reads : Bool := true
  /-- The address as the instruction used it: an aperture address for a window access (R171). -/
  used : Nat := 0
  /-- Its marks on s1 to s8 have moved into the trap frame (R172). -/
  inFrame : Bool := false
  /-- It is a `waita`'s: its value is for the condition (R322). -/
  wait : Bool := false
  /-- A window access; a plain access as R208 means it; the core, and the instruction count of the access. -/
  win : Bool := false
  plain : Bool := true
  core : Nat := 0
  icount : Nat := 0
  /-- The governing mask is poisoned (R278). -/
  mpoi : Bool := false
  /-- The width of the access, as traps and race records report it (R171, R212). -/
  width : Nat := 0
  deriving DecidableEq, Repr

/-- An access that needs more retry entries than its ring has (R176): its group's PC, and the elements that have theirs. -/
structure Raised where
  pc : Word
  elems : List Nat
  deriving DecidableEq, Repr

/-- The value completed for a `waita` that faulted, with its poison, and the PC and the depth of that `waita`
(R107, R322). -/
structure WaitVal where
  val : Nat
  poi : Bool
  pc : Word
  depth : Nat
  deriving DecidableEq, Repr

/-- The access of an `rcmpl` that performs one on a link has come to its end (R36, R180): its PC and depth, whether the access
completed, the 64-byte blocks whose check value did not match, and those that came poisoned. -/
structure LinkEnd where
  pc : Word
  depth : Nat
  ok : Bool
  bad : List Nat := []
  soiled : List Nat := []
  deriving DecidableEq, Repr

/-- A fault marked for a victim, taken at its next group boundary (R181): its cause, and the ADDR, INFO and RECORD of its
frame. -/
structure LateFault where
  cause : Cause
  addr : Nat
  info : Nat
  record : BitVec 512
  deriving DecidableEq, Repr

/-- The register contents of a task: scalar, vector and mask registers with their poison bits (R72, R107, R278).
Unlisted registers are zero; m0 and s0 are hard-wired (R231). -/
structure Regs where
  s : SMap Word := []
  v : SMap Vec := []
  m : SMap Mask := []
  sPoi : BitVec 64 := 0
  mPoi : BitVec 8 := 0
  vPoi : SMap (BitVec 32) := []
  deriving DecidableEq, Repr

/-- An abort in progress (R163 to R165, R168): the lowest aborted depth, why (1 REVOKED, 2 KILLED, 3 CALLEE_TRAP with
its cause), the domain whose code ran last (R220), and the counts of the activation whose cleanup runs. -/
structure Abort where
  j : Nat
  why : Nat
  cause : Nat := 0
  ran : Nat := 0
  rolled : Nat := 0
  skipped : Nat := 0
  /-- The outcome of the activation at the task's depth, which has been rolled back and has still to be closed: a full log
  may keep it waiting (R191, R321). -/
  closing : Option Nat := none
  /-- The domain in whose log the marker of the memory window stands while the activation's cleanup runs (R192). -/
  markDom : Option Nat := none
  /-- The depth whose domain owns the memory window of that activation: the frame names none any more, and the entries acquired
  through the window have still to act on its memory (R156, R321). -/
  winDepth : Option Nat := none
  deriving DecidableEq, Repr

/-- The second instruction of a group left behind by its first, which has made it wait, or where a replay stops between the
two (R79, R201, log entry 65): its PC, what it reads as it was at the group's issue, and where a branch of the first has
gone. -/
structure PairSrc where
  pc : Word
  regs : Regs
  fs : Word
  fsPoi : Bool
  srs : Word
  srsPoi : Bool
  /-- The first instruction has written S (R83, R269). -/
  wroteSR : Bool
  acq : List AcqEntry
  goes : Option Word
  /-- The flags the first instruction has raised (R139, R140). -/
  raised : Word
  deriving DecidableEq, Repr

/-- A task in a slot. -/
structure Task where
  id : Ident := {}
  launch : Nat := 0
  priority : Nat := 0
  resident : Bool := false
  vregs : Nat := 8
  scratch : Nat := 0
  st : SlotState := .ready
  pc : Word := 0
  regs : Regs := {}
  fs : Word := 0
  fsPoi : Bool := false
  srs : Word := 1
  srsPoi : Bool := false
  /-- The domain the task runs in, its own domain D_0, and the depth (R152). -/
  asid : Nat := 0
  home : Nat := 0
  depth : Nat := 0
  /-- The slot of the domain-stack area that holds its frames (R152). -/
  stackIx : Nat := 0
  /-- The remaining count; 2^64 is no limit (R64). -/
  budget : Nat := 2 ^ 64
  reload : Nat := 0
  cancelled : Bool := false
  icount : Nat := 0
  wtag : BitVec 24 := 0
  sbase : Nat := 0
  /-- First vector register of its run in the quadrant's pool (R73). -/
  vbase : Nat := 0
  acq : List AcqEntry := []
  handler : Bool := false
  /-- Poison of the trap frame's words (R269). -/
  framePoi : BitVec 32 := 0
  /-- The next fetch enters code at an entry, handler or cleanup PC, whose BT bit is checked (R226). -/
  entryCheck : Bool := false
  /-- Cleanup (R164): CLEAN, its reason, the aborted depth and its reserve counter. -/
  clean : Bool := false
  cleanWhy : Nat := 0
  reserve : Nat := 0
  mon : Option Monitor := none
  feWait : Option FeWait := none
  /-- See `WaitVal`. -/
  waitVal : Option WaitVal := none
  /-- See `LinkEnd`. -/
  linkEnd : Option LinkEnd := none
  /-- See `Raised`. -/
  raised : Option Raised := none
  /-- The order of a blocked slot among waiters (R75, R334). -/
  waitSince : Nat := 0
  /-- Scoreboard: result cycles of pending writes by register key (R80). -/
  pend : SMap Nat := []
  /-- Outstanding variable-latency accesses by register key (R80). -/
  arriving : SMap (List Nat) := []
  retry : List RetryRef := []
  /-- See `PairSrc`. -/
  pairSrc : Option PairSrc := none
  /-- Cycle before which no group of the slot issues (R83). -/
  nextIssue : Nat := 0
  /-- A memory-class group waits until this task's earlier accesses are performed (R314). -/
  fenceAll : Bool := false
  fenceReads : Bool := false
  /-- The fetch buffer: address of its line and the line's 64 bytes (R72, R225). -/
  fbuf : Option (Nat × BitVec 512) := none
  /-- The line the slot fetches again, its first copy having failed the check: core, ASID and address (R225). -/
  refetch : Option (Nat × Nat × Nat) := none
  /-- Faults marked by `rfail` or a failed `rcmpl` (R180, R181). -/
  dataFaults : List LateFault := []
  deferredBp : Option Word := none
  /-- The group at this PC issues once without matching a breakpoint (R217). -/
  bpSkip : Option Word := none
  /-- An abort in progress (R163, R168). -/
  abort : Option Abort := none
  /-- Unwindings to be done at resume: the domain revoked or killed, and why (R163). -/
  marks : List (Nat × Nat) := []
  /-- A pre-emption cause that waits for the end of a move, or is being carried out (R62, R169). -/
  preempt : Nat := 0
  withhold : Bool := false
  /-- The domain has been sealed for eviction while the slot was READY, in this step (R184). -/
  sealing : Bool := false
  faulted : Bool := false
  /-- Cycles left of the IN_CALL move (R160), and what follows it. -/
  moveUntil : Nat := 0
  /-- A job submission competes for acceptance, and has been chosen (R84). -/
  wantsJob : Bool := false
  jobGrant : Bool := false
  /-- Engine tags of the jobs submitted, with their depths (R197). -/
  jobTags : List (Nat × Nat) := []
  /-- By depth, how many job tags there were when its activation began (R197). -/
  tagMarks : SMap Nat := []
  /-- Gathered BRANCH bits of the tail (R220). -/
  branchBits : List Bool := []
  /-- The task has crossed into a domain whose tail is off: the depth it left, whose return resumes the tail (R220). -/
  tailMute : Option Nat := none
  /-- The message whose run counts: its sender, the domain, and the cycle it was taken (R221). -/
  run : Option (Nat × Nat × Nat) := none
  deriving DecidableEq, Repr

/-- A task in a save area, awaiting RESUME (R65, R183). `task` holds what the hub keeps beside the area: identity,
launch, frames' place; its registers are in memory. -/
structure Saved where
  task : Task
  /-- Virtual address of the save area, in the domain `area`'s space. -/
  addr : Nat
  area : Nat
  cause : Nat
  withheld : Bool := false
  order : Nat := 0
  sent : Bool := false
  /-- The die whose dispatcher holds its RESUME. -/
  die : Nat := 0
  /-- The area belongs to a snapshot, which a resume leaves in place (R199). -/
  keep : Bool := false
  deriving DecidableEq, Repr

/-! ### Messages, accesses, engines -/

/-- The kinds of R60. -/
inductive MsgKind where
  | taskStart | user | resume
  deriving DecidableEq, Repr

/-- An active message (R60) and where it is bound. -/
structure Msg where
  kind : MsgKind
  sender : Nat
  size : Nat
  stamp : Nat
  handler : Word
  payload : BitVec 384
  core : Nat
  asid : Nat
  /-- The launch of a TASK_START, the saved task's key of a RESUME, the endpoint of a USER message. -/
  ref : Nat
  rev : Nat := 0
  arrived : Nat := 0
  order : Nat := 0
  passed : Nat := 0
  /-- The sending core's network interface still holds it (R333). -/
  fromCore : Option Nat := none
  /-- The sending task, for the order of one task's messages to one endpoint (R333). -/
  source : Word := 0
  deriving DecidableEq, Repr

/-- One element of a deferred access to a SYS page. -/
structure SysPart where
  owner : Nat
  va : Nat
  pa : Nat
  size : Nat
  /-- Store data or operand, and compare value. -/
  data : BitVec 512
  cmp : BitVec 128
  /-- Destination byte offset within the destination register. -/
  roff : Nat
  /-- Its element number, where the access is of a vector. -/
  ix : Nat := 0
  /-- The governing mask is poisoned (R278). -/
  mpoi : Bool := false
  /-- It has failed and waits for a free retry entry (R36, R176). -/
  failed : Bool := false
  /-- The page has LOG set; the element lies in a memory window; poison of the data. -/
  log : Bool := false
  win : Bool := false
  /-- Its address as the instruction used it. -/
  used : Nat := 0
  poi : Bool := false
  deriving DecidableEq, Repr

/-- What a deferred access does (R177 OP): a load, a store, an atomic (opcode − 0xA0, and ch). -/
inductive AccOp where
  | load | store | atomic (aop ch : Nat) | red (ch : Nat)
  deriving DecidableEq, Repr

/-- Whom a deferred access serves; see `Access.use`. -/
inductive AccUse where
  | plain | wait | port
  deriving DecidableEq, Repr

/-- An outstanding access (R80, R36): of a slot, its class, the register it writes, and for a SYS page what is performed
when it completes. -/
structure Access where
  slot : Nat
  gtid : Word
  dests : List Nat
  isStore : Bool
  acquire : Bool
  op : AccOp := .load
  wtag : BitVec 24 := 0
  pc : Word := 0
  depth : Nat := 0
  icount : Nat := 0
  ord : Nat := 0
  sc : Nat := 0
  /-- What a plain (not deferred) access covers, for a late poisoned arrival (R37): physical address, bytes, offset in the
  destination register. -/
  covers : List (Nat × Nat × Nat) := []
  /-- What it covers of whose virtual space: owner, first address, bytes (R98). -/
  spans : List (Nat × Nat × Nat) := []
  /-- A plain access as R208 means it. -/
  plain : Bool := true
  contig : Bool := false
  parts : List SysPart := []
  /-- What it is for: to be performed as it is; the read of a wait, whose value is for the condition; or the access of an
  `rcmpl`, which performs it itself when the link has completed (R36, R180, R322). -/
  use : AccUse := .plain
  deriving DecidableEq, Repr

/-- The life of an engine job (R86, R329). -/
inductive JobPhase where
  | queued | acquiring | running
  deriving DecidableEq, Repr

/-- An engine job (R84 to R88, R324 to R330). -/
structure EngineJob where
  id : Nat
  copy : Bool
  core : Nat
  gtid : Word
  depth : Nat
  asid : Nat
  frame : List Word
  fn : Nat
  aq : Bool
  rl : Bool
  aqs : Nat
  rls : Nat
  st : Bool
  imm : Nat
  pc : Word
  icount : Nat
  sbase : Nat
  scratch : Nat
  key : Option KeySlot := none
  phase : JobPhase := .queued
  held : Option AcqEntry := none
  /-- Lines set ENGINE_PENDING (R210): the domain whose tables hold the page, the virtual and the physical address, and
  whether it is a memory window's. -/
  marked : List (Nat × Nat × Nat × Bool) := []
  code : Nat := 0
  detail : Nat := 0
  /-- Runs of its transfer already written (a full log stops an engine before its next write, R191). -/
  pos : Nat := 0
  /-- The order in which its engine started it. -/
  started : Nat := 0
  /-- Its IRREVOCABLE entry has been appended; its release has been performed (a stall may follow, R191). -/
  sysLogged : Bool := false
  released : Bool := false
  cancel : Bool := false
  /-- Its cluster has been quarantined (R20). -/
  hwerr : Bool := false
  /-- The host accesses of it that have failed, and those whose data is poisoned, as the events name them: bit i the i-th
  64-byte block of its host accesses (R36, R37). -/
  hostFault : Nat := 0
  hostPoison : Nat := 0
  /-- The counts of its transfer, once the transfer has been worked out (R147). -/
  counts : Option (Nat × Nat × Nat) := none
  /-- It has passed Transfer (R332); the runs of its record that are written. -/
  passed : Bool := false
  recPos : Nat := 0
  noRecord : Bool := false
  deriving DecidableEq, Repr

/-- A cluster's job queue (R84 to R86): jobs in acceptance order, the identifier counter, and the rotations. The spec gives
no start for the rotations of acceptance and of the engines' choice of a core; `lastCore`, `lastQuad` and `lastStart` begin
as R63 has the issue rotation begin, with the last core and the last quadrant as the ones served last: DESIGN CHOICE (log
entry 66). -/
structure Cluster where
  jobs : List EngineJob := []
  nextId : Nat := 1
  lastCore : Nat := 7
  lastQuad : SMap Nat := []
  lastStart : List Nat := [7, 7]
  acceptedAt : SMap Nat := []
  /-- Key slots its MXE holds, by ASID × 16 + slot (R43, R47). -/
  keys : SMap KeySlot := []
  deriving DecidableEq, Repr

/-! ### Cores -/

/-- A line of an L1 (R99, R101, R300): its physical line, dirty, its hint, and whether it is pinned there (HOME 1). -/
structure L1Line where
  line : Nat
  dirty : Bool
  hint : Nat
  pinned : Bool := false
  deriving DecidableEq, Repr

/-- A line of an L2 slice (R1, R101): its physical line, and whether it is pinned there (HOME 2). -/
structure L2Line where
  line : Nat
  pinned : Bool := false
  deriving DecidableEq, Repr

/-- A table entry held by a die's walker (R97): ASID, level, first virtual address and bits of its span, and the table it
points to. -/
structure WalkLine where
  asid : Nat
  level : Nat
  va : Nat
  bits : Nat
  table : Nat
  deriving DecidableEq, Repr

/-- A line of an instruction cache (R72, R76): ASID, virtual line and its 64 bytes. -/
structure ICLine where
  asid : Nat
  line : Nat
  data : BitVec 512
  /-- A granule of it was poisoned when it was read (R225). -/
  poisoned : Bool := false
  deriving DecidableEq, Repr

/-- A translation held by a core's translation cache (R97): ASID, first virtual address, page size and the leaf. -/
structure TlbLine where
  asid : Nat
  va : Nat
  size : Nat
  word0 : Word
  word1 : Word
  deriving DecidableEq, Repr

/-- Everything the cores hold outside their task slots. Cores are not separate records: each table is keyed by core,
quadrant, slot or line. -/
structure Cores where
  /-- Scratchpad bytes, by core × 262,144 + offset, and their full-empty and poison bits, by core × 16,384 + granule. -/
  spad : SMap Byte := []
  full : SMap Bool := []
  spadPoi : SMap Bool := []
  /-- Owner of each 4 KiB scratchpad unit, ASID + 1, by core × 64 + unit (R103). -/
  owner : SMap Nat := []
  /-- Admission counts, by slot key (R206). -/
  admissions : SMap Nat := []
  /-- Slot that issued last, by core × 4 + quadrant (R63), and the cycle after that of its group. -/
  lastIssue : SMap Nat := []
  issuedAt : SMap Nat := []
  /-- First cycle the divider, the vdiv/vsqrt unit and the vector pipe accept again, by core × 4 + quadrant
  (R82, R277). -/
  divFree : SMap Nat := []
  vdivFree : SMap Nat := []
  pipeFree : SMap Nat := []
  /-- Instruction cache sets, most recent first, by core × 256 + set (R72). -/
  icache : SMap (List ICLine) := []
  /-- Lines in flight to an instruction cache: (core, ASID, line) (R76, R77). -/
  filling : List (Nat × Nat × Nat) := []
  tlb : SMap (List TlbLine) := []
  /-- Table entries held by each die's walker (R97). -/
  walkers : SMap (List WalkLine) := []
  /-- L1 sets, most recent first, by core × 512 + set (R99). -/
  l1 : SMap (List L1Line) := []
  /-- L2 slices, most recent first (R1, R99). -/
  l2 : SMap (List L2Line) := []
  /-- Messages in each inbox, in arrival order (R60). -/
  inbox : SMap (List Msg) := []
  discarded : SMap Nat := []
  /-- The tail's core buffers; packets dropped, by core × 1,024 + ASID; the cycle of a core's last packet (R218, R219). -/
  tailBuf : SMap (List (Nat × BitVec 128)) := []
  tailLost : SMap Nat := []
  tailLast : SMap Nat := []
  deriving DecidableEq, Repr

/-- Physical memory (R90), its poison bits by granule (R107), and the checked pools of HBM (P, S, X) with the places of
their umbra metadata (R204, R205). -/
structure Memory where
  bytes : List Host.Cell := []
  poison : SMap Bool := []
  pools : List (Nat × Nat × Nat) := []
  /-- Umbra metadata that travels with its line, by line, until the line leaves L2 (R99, R205). -/
  umbra : SMap Word := []
  /-- The key pair under which HBM keeps a line of a confidential domain, by line (R46). -/
  keys : SMap (BitVec 512) := []
  deriving DecidableEq, Repr

/-- What the hub holds. -/
structure Hub where
  pkg : Package := {}
  queues : SMap Queue := []
  vecs : SMap MsixVec := []
  crcErrs : Nat := 0
  /-- Function 1's vector 0: stops counted (R215). -/
  debugEvents : Nat := 0
  doms : SMap Domain := []
  adits : SMap Adit := []
  endpoints : SMap Endpoint := []
  jobs : SMap HostJob := []
  launches : SMap Launch := []
  walkers : SMap Walker := []
  saved : SMap Saved := []
  /-- What the hub keeps of each snapshotted task beside its save area (R195), by ASID × 2^57 + area address. -/
  snaps : SMap Task := []
  /-- The same of each launch and graph walker of a snapshot list, by ASID × 2^57 + the address of its record there
  (R196), with its number. -/
  snapLaunches : SMap (Nat × Launch) := []
  snapWalkers : SMap (Nat × Walker) := []
  msgs : SMap Msg := []
  accesses : SMap Access := []
  clusters : SMap Cluster := []
  sessions : SMap Session := []
  /-- The eight service cores' tightly coupled memories, by core × 131,072 + offset (R1). -/
  tcm : SMap Byte := []
  /-- The supervisor's fault log: notices of 64 bytes, oldest first, and the dropped count (R175). -/
  faultLog : List (BitVec 512) := []
  faultDrops : Nat := 0
  /-- The next number of a job, launch, walker, message, access or saved task, and of the orders kept. -/
  nextId : Nat := 1
  /-- What the part put on a link for a UALink peer, newest first: messages by endpoint number, and answers as completer
  under 65,536 (R14, R60). -/
  linkOut : List (Nat × List Byte) := []
  deriving DecidableEq, Repr

/-- The issue group being executed (R79): whether it is a pair, which slot is executing, the slot's bits, the task as it
was at issue when the first slot has already taken effect, and how the instruction ended. -/
structure Group where
  paired : Bool := false
  second : Bool := false
  bits : Slot96 := 0
  snap : Option Task := none
  /-- The group's PC. -/
  base : Option Word := none
  /-- The group's first instruction has written S (R83, R269). -/
  wroteSR : Bool := false
  /-- The cause of the trap it ended in. -/
  cause : Option Cause := none
  /-- Flags the group's first instruction has raised (R269). -/
  raised : Word := 0
  /-- What monitors have seen between the elements of its access, by slot (R127, R313): the value and its poison. -/
  sensed : SMap (Nat × Bool) := []
  result : Result := .retired
  deriving DecidableEq, Repr

/-- The state of the part. -/
structure State where
  mem : Memory := {}
  cores : Cores := {}
  tasks : SMap Task := []
  hub : Hub := {}
  /-- Arithmetic cycles since the release of the last device reset (R270). -/
  clock : Nat := 0
  /-- The slot whose instruction `exec` executes. -/
  cur : Nat := 0
  /-- The next quadrant, core × 4 + quadrant, to try in this cycle (R63). -/
  scan : Nat := 0
  /-- A slot whose group is to be issued before anything else: what it waited for has come about. -/
  force : Option Nat := none
  grp : Group := {}
  /-- The schedule of the world outside the cores: events to happen next, in order. -/
  agenda : List Instr := []
  /-- The index of the next free value (the model's own field; see `Sys2Proof.Config`). -/
  free : Nat := 0
  deriving DecidableEq, Repr

/-- The machine right after power-on, before any event: every SRAM and all of HBM zero, the wipe in progress, READY 0
(R15 to R17). -/
def State.reset : State := {}

end Sys2Proof.Machine
end

