-- ==== Sys2Proof/Machine/Maps.lean ====
section
/-!
DEFINITION. Tables (`SMap`) and bytes: lookup, update and removal by key in one canonical form, little-endian values
(R2) and the check value CRC-32C (R37). Every table of the state is read and written through these.
-/

namespace Sys2Proof.Machine

/-! ### Tables -/

/-- The value under a key, if the key is listed. -/
def tabFind {α : Type} (k : Nat) : SMap α → Option α
  | [] => none
  | (k', v) :: t => if k = k' then some v else tabFind k t

/-- The table with `v` under `k`. -/
def tabSet {α : Type} (k : Nat) (v : α) : SMap α → SMap α
  | [] => [(k, v)]
  | (k', v') :: t =>
    if k < k' then (k, v) :: (k', v') :: t else if k = k' then (k, v) :: t else (k', v') :: tabSet k v t

/-- The table without `k`. -/
def tabDel {α : Type} (k : Nat) : SMap α → SMap α
  | [] => []
  | (k', v') :: t => if k = k' then tabDel k t else (k', v') :: tabDel k t

/-- The value under a key; an unlisted key reads as `d`. -/
def tabGet {α : Type} (d : α) (k : Nat) (m : SMap α) : α := (tabFind k m).getD d

/-- The table with `v` under `k`, keeping no entry equal to what an unlisted key reads as. -/
def tabPut {α : Type} [DecidableEq α] (d : α) (k : Nat) (v : α) (m : SMap α) : SMap α :=
  if v = d then tabDel k m else tabSet k v m

/-- Keys strictly rising, above `lo`. -/
def tabAbove {α : Type} (lo : Option Nat) : SMap α → Bool
  | [] => true
  | (k, _) :: t => (match lo with | none => true | some l => decide (l < k)) && tabAbove (some k) t

/-- The canonical form: keys strictly rising and no entry equal to the default `d`. -/
def tabWf {α : Type} [DecidableEq α] (d : α) (m : SMap α) : Bool :=
  tabAbove none m && m.all (fun e => decide (e.2 ≠ d))

/-- Apply `f` to the value under `k`, when there is one. -/
def tabMod {α : Type} (k : Nat) (f : α → α) (m : SMap α) : SMap α :=
  match tabFind k m with
  | none => m
  | some v => tabSet k (f v) m

/-- Apply `f` to every value. -/
def tabMap {α : Type} (f : Nat → α → α) (m : SMap α) : SMap α := m.map (fun e => (e.1, f e.1 e.2))

/-- Remove every key from `lo` up to `hi` (excluded). -/
def tabClear {α : Type} (lo hi : Nat) (m : SMap α) : SMap α :=
  m.filter (fun e => !(decide (lo ≤ e.1) && decide (e.1 < hi)))

/-! ### Bytes (R2) -/

/-- The value of bytes, the first the least significant. -/
def leNat : List Byte → Nat
  | [] => 0
  | b :: t => b.toNat + 256 * leNat t

/-- The `n` low bytes of a value, least significant first. -/
def leBytes : Nat → Nat → List Byte
  | 0, _ => []
  | n + 1, v => BitVec.ofNat 8 v :: leBytes n (v / 256)

/-- Bits hi..lo of a natural number, as a natural number: `len` bits from `lo`. -/
def natBits (v lo len : Nat) : Nat := (v >>> lo) % 2 ^ len

/-- Bit `i` of a natural number. -/
def natBit (v i : Nat) : Bool := v.testBit i

/-- The natural number whose bit is the flag. -/
def boolNat (b : Bool) : Nat := if b then 1 else 0

/-- A record's field: `len` bytes from byte `lo`. -/
def recField (r : List Byte) (lo len : Nat) : Nat := leNat ((r.drop lo).take len)

/-- The first `n` natural numbers. -/
def upTo (n : Nat) : List Nat := List.range n

/-- Set intersection with a range test: the two byte ranges share a byte. -/
def overlaps (a n b m : Nat) : Bool := decide (a < b + m) && decide (b < a + n) && decide (0 < n) && decide (0 < m)

/-- The two's-complement value of the low `w` bits. -/
def sval (w v : Nat) : Int :=
  let u := v % 2 ^ w
  if 2 * u < 2 ^ w then u else (u : Int) - 2 ^ w

/-- An integer taken modulo `2 ^ w`. -/
def wrapNat (w : Nat) (z : Int) : Nat := (z % (2 ^ w : Int)).toNat

/-- `z` limited to `[lo, hi]`. -/
def clampInt (lo hi z : Int) : Int := if z < lo then lo else if hi < z then hi else z

/-! ### The check value (R37) -/

/-- One bit of the reflected CRC-32C. -/
def crcStep (c : Nat) : Nat := if c % 2 = 1 then (c / 2) ^^^ 0x82F63B78 else c / 2

/-- One byte of the reflected CRC-32C. -/
def crcByte (c : Nat) (b : Byte) : Nat :=
  crcStep (crcStep (crcStep (crcStep (crcStep (crcStep (crcStep (crcStep (c ^^^ b.toNat))))))))

/-- CRC-32C of a block: polynomial 0x1EDC_6F41 reflected, initial value and final XOR 0xFFFF_FFFF, byte 0 first. -/
def crc32c (bs : List Byte) : Nat := (bs.foldl crcByte 0xFFFFFFFF) ^^^ 0xFFFFFFFF

end Sys2Proof.Machine
end

