-- ==== Sys2Proof/Machine/Float.lean ====
section
/-!
DEFINITION. Floating-point and integer element arithmetic (R129 to R141, R276): formats, decoding, the one rounding
function every result passes through, and the exact value of each operation before it.

An exact result is a magnitude `m × 2^e`, with `sticky` when the true magnitude lies strictly between `m` and `m + 1`
units of `2^e`; whoever makes a sticky result gives `m` at least 60 bits more than the destination's precision.
-/

namespace Sys2Proof.Machine

/-! ### Flags of `fs` (R139) -/

/-- NX, UF, OF, DZ and NV. -/
def fNX : Nat := 1
/-- See `fNX`. -/
def fUF : Nat := 2
/-- See `fNX`. -/
def fOF : Nat := 4
/-- See `fNX`. -/
def fDZ : Nat := 8
/-- See `fNX`. -/
def fNV : Nat := 16

/-! ### Formats (R129) -/

/-- A floating-point format: width, fraction bits, bias, and whether it has infinities (E4M3 has none). -/
structure FloatFmt where
  width : Nat
  frac : Nat
  bias : Nat
  hasInf : Bool
  deriving DecidableEq, Repr

/-- The format of a floating-point type; FP32 for the others, which never use it. -/
def fmtOf : ElemTy → FloatFmt
  | .f16 => ⟨16, 10, 15, true⟩
  | .bf16 => ⟨16, 7, 127, true⟩
  | .f64 => ⟨64, 52, 1023, true⟩
  | .e4m3 => ⟨8, 3, 7, false⟩
  | .e5m2 => ⟨8, 2, 15, true⟩
  | _ => ⟨32, 23, 127, true⟩

/-- FP32 and FP16. -/
def fp32 : FloatFmt := fmtOf .f32
/-- See `fp32`. -/
def fp16 : FloatFmt := fmtOf .f16

/-- Exponent field of all ones. -/
def FloatFmt.expMax (f : FloatFmt) : Nat := 2 ^ (f.width - 1 - f.frac) - 1
/-- Exponent of the smallest normal. -/
def FloatFmt.emin (f : FloatFmt) : Int := 1 - (f.bias : Int)
/-- The canonical NaN (R129, R130). -/
def FloatFmt.nan (f : FloatFmt) : Nat :=
  if f.hasInf then f.expMax * 2 ^ f.frac + 2 ^ (f.frac - 1) else f.expMax * 2 ^ f.frac + (2 ^ f.frac - 1)
/-- The sign bit. -/
def FloatFmt.signBit (f : FloatFmt) : Nat := 2 ^ (f.width - 1)
/-- The largest finite magnitude's encoding (R129). -/
def FloatFmt.maxFin (f : FloatFmt) : Nat :=
  if f.hasInf then f.expMax * 2 ^ f.frac - 1 else f.expMax * 2 ^ f.frac + (2 ^ f.frac - 2)
/-- The encoding of infinity, in a format that has one. -/
def FloatFmt.inf (f : FloatFmt) : Nat := f.expMax * 2 ^ f.frac
/-- An encoding with a sign. -/
def FloatFmt.signed (f : FloatFmt) (neg : Bool) (mag : Nat) : Nat := if neg then f.signBit + mag else mag

/-- A decoded operand. -/
inductive FVal where
  | nan (signalling : Bool)
  | inf (neg : Bool)
  /-- `m × 2^e`; zero has `m = 0`. -/
  | fin (neg : Bool) (m : Nat) (e : Int)
  deriving DecidableEq, Repr

/-- Decode an element (R129, R130). -/
def fdecode (f : FloatFmt) (b : Nat) : FVal :=
  let neg := b.testBit (f.width - 1)
  let ex := natBits b f.frac (f.width - 1 - f.frac)
  let fr := b % 2 ^ f.frac
  if f.hasInf && ex == f.expMax then
    if fr = 0 then .inf neg else .nan (!fr.testBit (f.frac - 1))
  else if !f.hasInf && ex == f.expMax && fr == 2 ^ f.frac - 1 then .nan false
  else if ex = 0 then .fin neg fr (f.emin - f.frac)
  else .fin neg (fr + 2 ^ f.frac) ((ex : Int) - f.bias - f.frac)

/-- The element is subnormal: exponent field zero, fraction not. -/
def fsubnormal (f : FloatFmt) (b : Nat) : Bool :=
  natBits b f.frac (f.width - 1 - f.frac) == 0 && b % 2 ^ f.frac != 0

/-- A zero of the element's sign. -/
def fzeroOf (f : FloatFmt) (b : Nat) : Nat := f.signed (b.testBit (f.width - 1)) 0

/-- An operand under DAZ (R137). -/
def fdaz (daz : Bool) (f : FloatFmt) (b : Nat) : Nat := if daz && fsubnormal f b then fzeroOf f b else b

/-- A signalling NaN. -/
def FVal.isSignalling : FVal → Bool
  | .nan s => s
  | _ => false
/-- A NaN. -/
def FVal.isNan : FVal → Bool
  | .nan _ => true
  | _ => false
/-- Infinite. -/
def FVal.isInf : FVal → Bool
  | .inf _ => true
  | _ => false
/-- Zero. -/
def FVal.isZero : FVal → Bool
  | .fin _ 0 _ => true
  | _ => false
/-- The sign. -/
def FVal.neg : FVal → Bool
  | .nan _ => false
  | .inf n => n
  | .fin n _ _ => n
/-- The operand with its sign inverted. -/
def FVal.negate : FVal → FVal
  | .nan s => .nan s
  | .inf n => .inf !n
  | .fin n m e => .fin (!n) m e

/-! ### Rounding (R134 to R137) -/

/-- How a result is rounded: the mode 0 to 5 of R134, the element's stochastic word R_i, `sat` and FTZ. -/
structure Rounding where
  mode : Nat := 0
  word : Nat := 0
  sat : Bool := false
  ftz : Bool := false
  deriving DecidableEq, Repr

/-- An exact result before rounding. -/
inductive Exact where
  /-- A NaN; whether it is an invalid operation. -/
  | nan (nv : Bool)
  /-- An infinity, with the flags it raises (DZ for a division by zero). -/
  | inf (neg : Bool) (flags : Nat)
  | zero (neg : Bool)
  | val (neg : Bool) (m : Nat) (e : Int) (sticky : Bool)
  deriving DecidableEq, Repr

/-- A magnitude in units of `2^q`: the integer part, whether anything remains, and whether the mode rounds it away from
zero. -/
def roundAt (r : Rounding) (neg : Bool) (m : Nat) (e : Int) (sticky : Bool) (q : Int) : Nat × Bool :=
  if q ≤ e then (m * 2 ^ (e - q).toNat, sticky)
  else if m = 0 && !sticky then (0, false)
  else
    -- A shift far beyond the magnitude's bits leaves a fraction below any threshold.
    let sh0 := (q - e).toNat
    let far := m.log2 + 64 < sh0
    let sh := if far then 64 else sh0
    let m' := if far then 1 else m
    let st := far || sticky
    let i := m' / 2 ^ sh
    let rem := m' % 2 ^ sh
    let half := 2 ^ (sh - 1)
    let inexact := rem != 0 || st
    let up :=
      match r.mode with
      | 0 => decide (half < rem) || (rem == half && (st || i % 2 == 1))
      | 1 => false
      | 2 => inexact && !neg
      | 3 => inexact && neg
      | 4 => decide (half ≤ rem)
      | _ =>
        if !inexact then false
        else if neg then
          -- `d` is measured from the lower, more negative neighbour.
          let d := (2 ^ sh - rem - (if st then 1 else 0)) * 2 ^ 32 / 2 ^ sh
          !decide (r.word < d)
        else decide (r.word < rem * 2 ^ 32 / 2 ^ sh)
    (if up then i + 1 else i, inexact)

/-- The encoding of a magnitude `i × 2^q` with `i < 2^(frac+1)` or equal, not above the largest finite value. -/
def encodeMag (f : FloatFmt) (i : Nat) (q : Int) : Nat :=
  if i = 0 then 0
  else
    let ex := (i.log2 : Int) + q
    if ex < f.emin then i
    else
      let fr := if f.frac ≤ i.log2 then i / 2 ^ (i.log2 - f.frac) else i * 2 ^ (f.frac - i.log2)
      (ex + f.bias).toNat * 2 ^ f.frac + (fr - 2 ^ f.frac)

/-- What an overflow gives (R136). -/
def overflowMag (f : FloatFmt) (r : Rounding) (neg : Bool) : Nat × Nat :=
  let big := (f.signed neg f.maxFin, fOF + fNX)
  if r.sat then big
  else if !f.hasInf then (f.nan, fOF + fNX)
  else
    match r.mode with
    | 1 => big
    | 2 => if neg then big else (f.inf, fOF + fNX)
    | 3 => if neg then (f.signed true f.inf, fOF + fNX) else big
    | _ => (f.signed neg f.inf, fOF + fNX)

/-- Round a non-zero magnitude into a format (R134 to R137). -/
def roundVal (f : FloatFmt) (r : Rounding) (neg : Bool) (m : Nat) (e : Int) (sticky : Bool) : Nat × Nat :=
  let ex := (m.log2 : Int) + e
  let qU := ex - f.frac
  let u := roundAt r neg m e sticky qU
  -- Tiny: rounded with unbounded exponent it lies below the smallest normal (R137).
  let tiny := decide ((u.1.log2 : Int) + qU < f.emin)
  let q := max qU (f.emin - f.frac)
  let b := roundAt r neg m e sticky q
  let ex' := (b.1.log2 : Int) + q
  let emaxField := (ex' + f.bias)
  let tooBig := b.1 != 0 &&
    (decide ((f.expMax : Int) < emaxField) || (f.hasInf && decide ((f.expMax : Int) ≤ emaxField))
      || (!f.hasInf && emaxField == (f.expMax : Int) && decide (f.maxFin < encodeMag f b.1 q)))
  if tooBig then overflowMag f r neg
  else
    let mag := encodeMag f b.1 q
    let flags := (if b.2 then fNX else 0) + (if tiny && b.2 then fUF else 0)
    if r.ftz && fsubnormal f mag then (f.signed neg 0, fUF + fNX) else (f.signed neg mag, flags)

/-- Round an exact result into a format: the encoding and the flags raised (R130, R136, R137, R276). -/
def roundTo (f : FloatFmt) (r : Rounding) : Exact → Nat × Nat
  | .nan nv => (f.nan, if nv then fNV else 0)
  | .zero neg => (f.signed neg 0, 0)
  | .inf neg fl =>
    if f.hasInf then (f.signed neg f.inf, fl)
    else if r.sat then (f.signed neg f.maxFin, fl ||| fNX)
    else (f.nan, fl ||| fNV)
  | .val neg m e st =>
    if m = 0 && !st then (f.signed neg 0, 0) else roundVal f r neg m e st

/-- Round an exact finite magnitude to an integer, and whether it was inexact. -/
def roundInt (r : Rounding) (neg : Bool) (m : Nat) (e : Int) (sticky : Bool) : Int × Bool :=
  let b := roundAt r neg m e sticky 0
  (if neg then -(b.1 : Int) else b.1, b.2)

/-! ### Exact operations -/

/-- A finite operand as a result. -/
def Exact.ofFin (neg : Bool) (m : Nat) (e : Int) : Exact := if m = 0 then .zero neg else .val neg m e false

/-- The exact value of an operand; a signalling NaN is invalid. -/
def Exact.ofVal : FVal → Exact
  | .nan s => .nan s
  | .inf n => .inf n 0
  | .fin n m e => .ofFin n m e

/-- Sum of two finite values; `rdn` decides the sign of an exact zero (R276). -/
def addFin (rdn : Bool) (n1 : Bool) (m1 : Nat) (e1 : Int) (n2 : Bool) (m2 : Nat) (e2 : Int) : Exact :=
  if m1 = 0 && m2 = 0 then .zero (if n1 = n2 then n1 else rdn)
  else
    let e := min e1 e2
    let a : Int := (m1 * 2 ^ (e1 - e).toNat : Nat)
    let b : Int := (m2 * 2 ^ (e2 - e).toNat : Nat)
    let z := (if n1 then -a else a) + (if n2 then -b else b)
    if z = 0 then .zero rdn else .val (decide (z < 0)) z.natAbs e false

/-- `a + b` (R280). -/
def fadd (rdn : Bool) (a b : FVal) : Exact :=
  match a, b with
  | .nan s, y => .nan (s || y.isSignalling)
  | x, .nan s => .nan (s || x.isSignalling)
  | .inf n, .inf n' => if n = n' then .inf n 0 else .nan true
  | .inf n, .fin _ _ _ => .inf n 0
  | .fin _ _ _, .inf n => .inf n 0
  | .fin n m e, .fin n' m' e' => addFin rdn n m e n' m' e'

/-- `a × b` (R280). -/
def fmul (a b : FVal) : Exact :=
  match a, b with
  | .nan s, y => .nan (s || y.isSignalling)
  | x, .nan s => .nan (s || x.isSignalling)
  | .inf n, y => if y.isZero then .nan true else .inf (n != y.neg) 0
  | x, .inf n => if x.isZero then .nan true else .inf (n != x.neg) 0
  | .fin n m e, .fin n' m' e' => .ofFin (n != n') (m * m') (e + e')

/-- `a × b + c`, one rounding; 0 × ∞ is invalid whatever c holds (R280). -/
def ffma (rdn : Bool) (a b c : FVal) : Exact :=
  let invalid := (a.isZero && b.isInf) || (a.isInf && b.isZero)
  if a.isNan || b.isNan || c.isNan || invalid then
    .nan (a.isSignalling || b.isSignalling || c.isSignalling || invalid)
  else
    match a, b, c with
    | .fin n m e, .fin n' m' e', .fin n'' m'' e'' => addFin rdn (n != n') (m * m') (e + e') n'' m'' e''
    | .fin _ _ _, .fin _ _ _, c => .ofVal c
    | a, b, c =>
      let n := a.neg != b.neg
      match c with
      | .inf n' => if n = n' then .inf n 0 else .nan true
      | _ => .inf n 0

/-- Bits kept in a sticky magnitude: beyond every format's precision and the 32 bits of a stochastic word. -/
def stickyBits : Nat := 120

/-- Quotient of two positive magnitudes, with `stickyBits` significant bits at least. -/
def divMag (neg : Bool) (m1 : Nat) (e1 : Int) (m2 : Nat) (e2 : Int) : Exact :=
  let k := stickyBits + m2.log2 + 1 - m1.log2
  let n := m1 * 2 ^ k
  .val neg (n / m2) (e1 - e2 - k) (n % m2 != 0)

/-- `a ÷ b` (R282). -/
def fdiv (a b : FVal) : Exact :=
  match a, b with
  | .nan s, y => .nan (s || y.isSignalling)
  | x, .nan s => .nan (s || x.isSignalling)
  | .inf _, .inf _ => .nan true
  | .inf n, y => .inf (n != y.neg) 0
  | x, .inf n => .zero (n != x.neg)
  | .fin n m e, .fin n' m' e' =>
    if m' = 0 then (if m = 0 then .nan true else .inf (n != n') fDZ)
    else if m = 0 then .zero (n != n')
    else divMag (n != n') m e m' e'

/-- The integer square root below `2^b`, from the bit above down. -/
def isqrtFrom (n : Nat) : Nat → Nat → Nat
  | 0, r => r
  | b + 1, r => isqrtFrom n b (if (r + 2 ^ b) * (r + 2 ^ b) ≤ n then r + 2 ^ b else r)

/-- The integer square root. -/
def isqrt (n : Nat) : Nat := isqrtFrom n (n.log2 / 2 + 1) 0

/-- `√a` (R282). -/
def fsqrt (a : FVal) : Exact :=
  match a with
  | .nan s => .nan s
  | .inf n => if n then .nan true else .inf false 0
  | .fin n m e =>
    if m = 0 then .zero n
    else if n then .nan true
    else
      let k := 2 * stickyBits + (if (e % 2 : Int) = 0 then 0 else 1)
      let v := m * 2 ^ k
      let s := isqrt v
      .val false s ((e - k) / 2) (s * s != v)

/-- `1 ÷ √a` (R282). -/
def frsqrt (a : FVal) : Exact :=
  match a with
  | .nan s => .nan s
  | .inf n => if n then .nan true else .zero false
  | .fin n m e =>
    if m = 0 then .inf n fDZ
    else if n then .nan true
    else
      let odd := decide ((e % 2 : Int) ≠ 0)
      let m' := if odd then 2 * m else m
      let h := if odd then (e - 1) / 2 else e / 2
      let k := stickyBits + m'.log2 / 2 + 1
      let s := isqrt (2 ^ (2 * k) / m')
      .val false s (-h - k) (s * s * m' != 2 ^ (2 * k))

/-! Exponential and logarithm, to far more bits than any format of F3 keeps. -/

/-- Fraction bits of the fixed-point computations. -/
def fixBits : Nat := 256

/-- The sum of `2^fixBits ÷ (k 2^k)` for k from 1 to n: ln 2 in fixed point. -/
def ln2Sum : Nat → Nat
  | 0 => 0
  | k + 1 => ln2Sum k + 2 ^ fixBits / ((k + 1) * 2 ^ (k + 1))

/-- ln 2 in fixed point. -/
def ln2Fix : Nat := ln2Sum 256

/-- The Taylor terms of exp(y) in fixed point: `n` terms left, term number, term, sum. -/
def expSum (y : Nat) : Nat → Nat → Nat → Nat → Nat
  | 0, _, _, s => s
  | n + 1, k, t, s =>
    let t' := t * y / 2 ^ fixBits / k
    expSum y n (k + 1) t' (s + t')

/-- `2^f` for a fraction f of `2^fixBits`, in fixed point. -/
def exp2Fix (f : Nat) : Nat := expSum (f * ln2Fix / 2 ^ fixBits) 64 1 (2 ^ fixBits) (2 ^ fixBits)

/-- `2^a` (R282): exact at integers; otherwise irrational, so always sticky. -/
def fexp2 (a : FVal) : Exact :=
  match a with
  | .nan s => .nan s
  | .inf n => if n then .zero false else .inf false 0
  | .fin n m e =>
    if m = 0 then .val false 1 0 false
    else if 0 ≤ e then
      -- An integer; beyond any format's range it only over- or underflows.
      let z := if 64 < e then 2 ^ 64 else m * 2 ^ e.toNat
      .val false 1 (if n then -(z : Int) else z) false
    else if m % 2 ^ (-e).toNat = 0 then
      let z := m / 2 ^ (-e).toNat
      .val false 1 (if n then -(z : Int) else z) false
    else if (m.log2 : Int) + e < -64 then
      if n then .val false (2 ^ stickyBits - 1) (-(stickyBits : Int)) true
      else .val false (2 ^ stickyBits) (-(stickyBits : Int)) true
    else
      let sh := (-e).toNat
      let ip := m / 2 ^ sh
      let fp := (m % 2 ^ sh) * 2 ^ fixBits / 2 ^ sh
      let whole : Int := if n then -(ip : Int) - 1 else ip
      let frac := if n then 2 ^ fixBits - fp else fp
      .val false (exp2Fix frac / 2 ^ (fixBits - stickyBits)) (whole - stickyBits) true

/-- The fraction bits of log2 g for g in [1, 2) at fixed point, by repeated squaring. -/
def log2Bits : Nat → Nat → Nat → Nat
  | 0, _, acc => acc
  | n + 1, g, acc =>
    let g2 := g * g / 2 ^ fixBits
    if 2 ^ (fixBits + 1) ≤ g2 then log2Bits n (g2 / 2) (2 * acc + 1) else log2Bits n g2 (2 * acc)

/-- `log2 a` (R282): exact at powers of two; otherwise irrational, so always sticky. -/
def flog2 (a : FVal) : Exact :=
  match a with
  | .nan s => .nan s
  | .inf n => if n then .nan true else .inf false 0
  | .fin n m e =>
    if m = 0 then .inf true fDZ
    else if n then .nan true
    else
      let ex := (m.log2 : Int) + e
      if m = 2 ^ m.log2 then (if ex = 0 then .zero false else .val (decide (ex < 0)) ex.natAbs 0 false)
      else
        let l := log2Bits stickyBits (m * 2 ^ fixBits / 2 ^ m.log2) 0
        if 0 ≤ ex then .val false (ex.toNat * 2 ^ stickyBits + l) (-(stickyBits : Int)) true
        else .val true (ex.natAbs * 2 ^ stickyBits - l - 1) (-(stickyBits : Int)) true

/-! ### Comparison, minimum, classes -/

/-- `a < b` of two operands that are not NaN. -/
def fless (a b : FVal) : Bool :=
  match a, b with
  | .nan _, _ => false
  | _, .nan _ => false
  | .inf n, .inf n' => n && !n'
  | .inf n, .fin _ _ _ => n
  | .fin _ _ _, .inf n => !n
  | .fin n m e, .fin n' m' e' =>
    match addFin false n m e (!n') m' e' with
    | .val neg _ _ _ => neg
    | _ => false

/-- `a = b` of two operands that are not NaN; zeros of both signs are equal (R283). -/
def fequal (a b : FVal) : Bool := !a.isNan && !b.isNan && !fless a b && !fless b a

/-- `vmin` or `vmax` of two elements (R281): the encoding chosen and its flags. −0 is ordered below +0. -/
def fminmax (f : FloatFmt) (isMax prop : Bool) (x y : Nat) : Nat × Nat :=
  let a := fdecode f x
  let b := fdecode f y
  let fl := if a.isSignalling || b.isSignalling then fNV else 0
  if a.isNan && b.isNan then (f.nan, fl)
  else if a.isNan then (if prop then f.nan else y, fl)
  else if b.isNan then (if prop then f.nan else x, fl)
  else
    let below := fless a b || (fequal a b && a.neg && !b.neg)
    (if below != isMax then x else y, fl)

/-- FTZ on a result that is not rounded (R137): its encoding and added flags. -/
def fflush (f : FloatFmt) (ftz : Bool) (b : Nat) : Nat × Nat :=
  if ftz && fsubnormal f b then (fzeroOf f b, fUF + fNX) else (b, 0)

/-- The class bit of an element (R284). -/
def fclass (f : FloatFmt) (b : Nat) : Nat :=
  match fdecode f b with
  | .nan true => 2 ^ 8
  | .nan false => 2 ^ 9
  | .inf n => if n then 1 else 2 ^ 7
  | .fin n m _ =>
    if m = 0 then (if n then 2 ^ 3 else 2 ^ 4)
    else if fsubnormal f b then (if n then 2 ^ 2 else 2 ^ 5)
    else (if n then 2 ^ 1 else 2 ^ 6)

/-! ### Integers and conversions (R141, R286) -/

/-- The value of an element of an integer type. -/
def ival (t : ElemTy) (b : Nat) : Int := if t.isSigned then sval t.width b else ((b % 2 ^ t.width : Nat) : Int)
/-- Smallest value of an integer type. -/
def iminOf (t : ElemTy) : Int := if t.isSigned then -(2 ^ (t.width - 1) : Int) else 0
/-- Largest value of an integer type. -/
def imaxOf (t : ElemTy) : Int := if t.isSigned then 2 ^ (t.width - 1) - 1 else 2 ^ t.width - 1
/-- Fit (R286): the low w bits, or the clamped value under sat. -/
def fitInt (t : ElemTy) (sat : Bool) (z : Int) : Nat :=
  wrapNat t.width (if sat then clampInt (iminOf t) (imaxOf t) z else z)

/-- The flags of an integer that narrowing does not keep (R136, R141). -/
def fitFlags (t : ElemTy) (z : Int) : Nat := if z < iminOf t || imaxOf t < z then fOF + fNX else 0

/-- An integer as an exact value. -/
def Exact.ofInt (z : Int) : Exact := if z = 0 then .zero false else .val (decide (z < 0)) z.natAbs 0 false

/-- Convert an element (R141); a floating-point source has had DAZ applied. Between integer types of one width the integer
row of R136 decides, as in narrowing: DEDUCED (log entry 67). -/
def convert (src dst : ElemTy) (r : Rounding) (b : Nat) : Nat × Nat :=
  match src.isFloat, dst.isFloat with
  | true, true => roundTo (fmtOf dst) r (.ofVal (fdecode (fmtOf src) b))
  | true, false =>
    match fdecode (fmtOf src) b with
    | .nan _ => (0, fNV)
    | .inf n => (wrapNat dst.width (if n then iminOf dst else imaxOf dst), fNV)
    | .fin n m e =>
      -- Far beyond every integer type.
      if (72 : Int) < (m.log2 : Int) + e then (wrapNat dst.width (if n then iminOf dst else imaxOf dst), fNV)
      else
        let z := roundInt r n m e false
        if z.1 < iminOf dst || imaxOf dst < z.1 then (wrapNat dst.width (clampInt (iminOf dst) (imaxOf dst) z.1), fNV)
        else (wrapNat dst.width z.1, if z.2 then fNX else 0)
  | false, true => roundTo (fmtOf dst) r (.ofInt (ival src b))
  | false, false =>
    let z := ival src b
    if src.width < dst.width then (wrapNat dst.width z, 0) else (fitInt dst r.sat z, fitFlags dst z)

/-! ### Stochastic rounding (R135) -/

/-- The multiplier of R135. -/
def srMul : Nat := 0x9E3779B97F4A7C15

/-- StepSR. -/
def stepSR (s : Nat) : Nat :=
  let b := (natBits s 63 1) ^^^ (natBits s 62 1) ^^^ (natBits s 60 1) ^^^ (natBits s 59 1)
  (s * 2 + b) % 2 ^ 64

/-- `n` steps. -/
def stepsSR : Nat → Nat → Nat
  | 0, s => s
  | n + 1, s => stepsSR n (stepSR s)

/-- SeedSR. -/
def seedSR (gtid : Nat) : Nat :=
  let s := gtid * srMul % 2 ^ 64
  if s = 0 then 1 else s

/-- R_i from the advanced S. -/
def wordSR (s i : Nat) : Nat := (s ^^^ (i * srMul % 2 ^ 64)) / 2 ^ 32

end Sys2Proof.Machine
end

