-- ==== Sys2Proof/Machine/Physical.lean ====
section
/-!
DEFINITION. Physical memory and scratchpads: bytes, poison bits by 16-byte granule (R107), the physical map (R90) and
the placement functions of R91 and R100. A byte nothing has written reads as zero: HBM and every SRAM are wiped to zero
at reset (R15); host memory reads as zero until the world writes it (log entry 3).
-/

namespace Sys2Proof.Machine

/-- First address beyond HBM (R90). -/
def hbmEnd : Nat := 0xC000000000
/-- First PCIe host address (R90). -/
def pcieBase : Nat := 0x8000000000000
/-- First UALink address (R90). -/
def ualinkBase : Nat := 0xC000000000000
/-- First address beyond the 52-bit physical space (R90). -/
def physEnd : Nat := 0x10000000000000

/-- A physical address in an unbacked range (R90). -/
def unbacked (pa : Nat) : Bool := (decide (hbmEnd ≤ pa) && decide (pa < pcieBase)) || decide (physEnd ≤ pa)
/-- A physical address of PCIe host memory (R90). -/
def isPcie (pa : Nat) : Bool := decide (pcieBase ≤ pa) && decide (pa < ualinkBase)
/-- A physical address of the UALink space (R90). -/
def isUalink (pa : Nat) : Bool := decide (ualinkBase ≤ pa) && decide (pa < physEnd)

/-- The die that holds an HBM address (R90). -/
def dieOfPa (pa : Nat) : Nat := pa / 0x3000000000
/-- The stack that holds an HBM address (R91). -/
def stackOfPa (pa : Nat) : Nat := 3 * dieOfPa pa + (pa / 4096) % 3

/-- Die, cluster of a core (R1). -/
def coreDie (c : Nat) : Nat := c / 320
/-- See `coreDie`. -/
def coreCluster (c : Nat) : Nat := c / 8
/-- A core that exists and is not quarantined (R18). -/
def coreLive (p : Package) (c : Nat) : Bool :=
  decide (c < 1280) && !p.quarCores.contains c && !p.quarClusters.contains (coreCluster c)
/-- A UALink address whose window the supervisor has not bound (R90). -/
def unboundWindow (p : Package) (pa : Nat) : Bool :=
  isUalink pa && !p.uaWindows.any (fun w => w.1 == (pa - ualinkBase) / 2 ^ 40)
/-- A physical address that a host, or no one, answers at: PCIe host memory, a coherent UALink range, or a window that is not
bound (R34, R36, R90). -/
def hostBacked (p : Package) (pa : Nat) : Bool :=
  isPcie pa || unboundWindow p pa
    || (isUalink pa && p.uaWindows.any (fun w => w.1 == (pa - ualinkBase) / 2 ^ 40 && w.2.2.2))
/-- The core and the slot of a slot key. -/
def keyCore (k : Nat) : Nat := k / 16
/-- See `keyCore`. -/
def keySlot (k : Nat) : Nat := k % 16
/-- The quadrant, core × 4 + quadrant, of a slot key (R62). -/
def keyQuad (k : Nat) : Nat := k / 4

/-- The home slice of an HBM line, as its die's k-th live slice in ascending index (R100). -/
def homeSlice (quarSlices : List Nat) (pa : Nat) : Nat :=
  let d := dieOfPa pa
  let live := (upTo 40).map (fun j => 40 * d + j) |>.filter (fun j => !quarSlices.contains j)
  let k := ((pa / 128) % 2 ^ 13 ^^^ (pa / 2 ^ 20) % 2 ^ 13) % max live.length 1
  (live[k]?).getD 0

/-! ### Bytes with poison -/

/-- Write a set of bytes, each with the poison of its data, into a byte table and its granules' poison table: a granule
wholly overwritten takes its bit from the data stored; one written in part stays poisoned, and becomes poisoned by
poisoned data (R107). -/
def storeBytes (bytes : SMap Byte) (poi : SMap Bool) (ws : SMap (Byte × Bool)) : SMap Byte × SMap Bool :=
  let bytes' := ws.foldl (fun b w => tabPut 0 w.1 w.2.1 b) bytes
  let grans : SMap (Nat × Bool) := ws.foldl (fun g w =>
    let old := tabGet (0, false) (w.1 / 16) g
    tabSet (w.1 / 16) (old.1 + 1, old.2 || w.2.2) g) []
  let poi' := grans.foldl (fun p g =>
    let was := tabGet false g.1 p
    tabPut false g.1 (if g.2.1 = 16 then g.2.2 else was || g.2.2) p) poi
  (bytes', poi')

/-- A run of bytes as a write set. -/
def runOf (a : Nat) (poi : Bool) : List Byte → SMap (Byte × Bool)
  | [] => []
  | b :: t => (a, (b, poi)) :: runOf (a + 1) poi t

/-- `n` bytes of a byte table. -/
def bytesAt (m : SMap Byte) (a : Nat) : Nat → List Byte
  | 0 => []
  | n + 1 => tabGet 0 a m :: bytesAt m (a + 1) n

/-- Whether a granule of `n` bytes from `a` is poisoned. -/
def poisonAt (p : SMap Bool) (a n : Nat) : Bool :=
  (upTo ((a + n - 1) / 16 - a / 16 + 1)).any (fun j => tabGet false (a / 16 + j) p)

/-- `n` bytes of physical memory. -/
def physRead (m : Memory) (pa n : Nat) : List Byte := bytesAt m.bytes pa n
/-- The little-endian value of `n` bytes of physical memory. -/
def physNat (m : Memory) (pa n : Nat) : Nat := leNat (physRead m pa n)
/-- Physical memory with a run of bytes written, of poison `poi`. -/
def physWrite (m : Memory) (pa : Nat) (bs : List Byte) (poi : Bool) : Memory :=
  let r := storeBytes m.bytes m.poison (runOf pa poi bs)
  { m with bytes := r.1, poison := r.2 }
/-- Physical memory with a write set applied. -/
def physStore (m : Memory) (ws : SMap (Byte × Bool)) : Memory :=
  let r := storeBytes m.bytes m.poison ws
  { m with bytes := r.1, poison := r.2 }

/-- Physical memory with `n` bytes of whole granules from `pa` zero and clean. -/
def zeroRun (m : Memory) (pa n : Nat) : Memory :=
  { m with bytes := tabClear pa (pa + n) m.bytes, poison := tabClear (pa / 16) ((pa + n) / 16) m.poison }

/-! ### What the caches hold (R99), and the memory controller's encryption (R46) -/

/-- The cores whose L1 holds a line: its home slice's directory (R99). -/
def directory (s : State) (line : Nat) : List Nat :=
  (s.cores.l1.filter (fun e => e.1 % 512 == line % 512 && e.2.any (fun x => x.line == line))).map (fun e => e.1 / 512)

/-- A slice holds a line. -/
def onL2 (s : State) (line : Nat) : Bool := s.cores.l2.any (fun e => e.2.any (fun x => x.line == line))

/-- Some cache of the part holds a line: on chip a domain's data is plaintext. -/
def onChip (s : State) (line : Nat) : Bool := !(directory s line).isEmpty || onL2 s line

/-- What HBM holds of a line: its plaintext, or the ciphertext of it (R46). `Memory.bytes` is the plaintext (log entry 82). -/
def hbmStored (s : State) (line : Nat) : List Byte :=
  let plain := physRead s.mem (128 * line) 128
  match tabFind line s.mem.keys with
  | some k => Config.xtsLine k line plain
  | none => plain

/-- What HBM holds of a line, decrypted under a pair, or not at all: 128 bytes. -/
def openedUnder (s : State) (k : Option (BitVec 512)) (line : Nat) : List Byte :=
  let b := hbmStored s line
  let plain := match k with | some x => Config.xtsOpen x line b | none => b
  (plain ++ b).take 128

/-- A line comes from HBM to an access under a pair that it is not kept under: the check of its two blocks, which is over the
plaintext, fails (R37, R46; log entry 82). -/
def foreign (s : State) (k : Option (BitVec 512)) (line : Nat) : Bool :=
  decide (tabFind line s.mem.keys ≠ k) && decide (128 * line < hbmEnd) && !onChip s line

/-- The lines of HBM that `n` bytes from `pa` lie in. -/
def memLines (pa n : Nat) : List Nat := (upTo ((pa + n - 1) / 128 - pa / 128 + 1)).map (fun i => pa / 128 + i)

/-- `n` bytes of physical memory as a read under a pair finds them, and whether any is poisoned (R37, R46). -/
def seenRead (s : State) (k : Option (BitVec 512)) (pa n : Nat) : List Byte × Bool :=
  if !(memLines pa n).any (foreign s k) then (physRead s.mem pa n, poisonAt s.mem.poison pa n)
  else
    let bs := (memLines pa n).foldr (fun line a =>
      (if foreign s k line then openedUnder s k line else physRead s.mem (128 * line) 128) ++ a) []
    ((bs.drop (pa % 128)).take n, true)

/-- Physical memory as the walkers find it, which read under no pair (R46). -/
def plainView (s : State) : Memory :=
  s.mem.keys.foldl (fun m e =>
    if foreign s none e.1 then physWrite m (128 * e.1) (openedUnder s none e.1) true else m) s.mem

/-! ### Scratchpads (R72, R74) -/

/-- Key of a scratchpad byte. -/
def spadKey (core off : Nat) : Nat := core * 262144 + off
/-- Key of a scratchpad granule's full-empty bit. -/
def granKey (core off : Nat) : Nat := core * 16384 + off / 16
/-- Keys of the granules `n` bytes from `off` cover. -/
def granKeys (core off n : Nat) : List Nat :=
  (upTo ((off + n - 1) / 16 - off / 16 + 1)).map (fun j => granKey core off + j)

/-- The cores with a write set applied to the scratchpads (keys of `spadKey`). -/
def spadStore (c : Cores) (ws : SMap (Byte × Bool)) : Cores :=
  let r := storeBytes c.spad c.spadPoi ws
  { c with spad := r.1, spadPoi := r.2 }

/-- The cores with the full-empty bits of granules set to `b`. -/
def setFull (c : Cores) (ks : List Nat) (b : Bool) : Cores :=
  { c with full := ks.foldl (fun f k => tabPut false k b f) c.full }

/-- Zero a scratchpad window and empty its granules (R61, R43). -/
def wipeWindow (c : Cores) (core base len : Nat) : Cores :=
  { c with
    spad := tabClear (spadKey core base) (spadKey core base + len) c.spad
    full := tabClear (granKey core base) (granKey core base + len / 16) c.full
    spadPoi := tabClear (granKey core base) (granKey core base + len / 16) c.spadPoi }

end Sys2Proof.Machine
end

