-- ==== Sys2Proof/Machine/Translate.lean ====
section
/-!
DEFINITION. Translation (R89 to R98): the five-level walk, leaf and malformed entries, the outcomes of R96 in their
order, the translation cache of a core (R97), and the hub's own accesses to a domain's memory.
-/

namespace Sys2Proof.Machine

/-- Page classes (R94 CLASS). -/
inductive PageClass where
  | loose | bound | atomic
  deriving DecidableEq, Repr

/-- A leaf as the machine uses it (R94), with the physical address of the page and its size. -/
structure Leaf where
  base : Nat
  size : Nat
  r : Bool
  w : Bool
  x : Bool
  home : Nat
  cls : PageClass
  log : Bool
  pin : Bool
  sys : Bool
  aok : Bool
  sealed : Bool
  homeIdx : Nat
  region : Nat
  deriving DecidableEq, Repr

/-- The outcome of a walk: a leaf, an invalid entry, or a malformed one at a level. -/
inductive Walk where
  | leaf (l : Leaf) (word0 word1 : Nat)
  | invalid
  | malformed (level : Nat)
  deriving DecidableEq, Repr

/-- The levels of R92: level, lowest VA bit indexed, bits indexed, and whether a leaf may stand there. -/
def walkLevels : List (Nat × Nat × Nat × Bool) :=
  [(5, 45, 12, false), (4, 36, 9, true), (3, 30, 6, true), (2, 21, 9, true), (1, 16, 5, true)]

/-- The page lies wholly in a checked pool (R205). -/
def inPool (pools : List (Nat × Nat × Nat)) (pa size : Nat) : Bool :=
  pools.any (fun p => decide (p.1 ≤ pa) && decide (pa + size ≤ p.1 + p.2.1))

/-- A leaf entry breaks R95 (or R205) for a page of `size` bytes. -/
def leafMalformed (pools : List (Nat × Nat × Nat)) (size w0 w1 : Nat) : Bool :=
  let pa := natBits w0 16 36 * 65536
  let cls := natBits w0 7 2
  let home := natBits w0 5 2
  let idx := natBits w1 16 11
  let sys := natBit w0 11
  natBits w0 52 12 != 0 || natBits w0 14 2 != 0 || natBits w1 27 37 != 0 || natBits w1 12 4 != 0
    || pa % size != 0 || unbacked pa || sys != natBit pa 51 || cls == 3 || (natBit w0 12 && !sys)
    || (natBit w0 13 && (natBit w0 3 || natBit w0 4 || sys || cls != 0)) || (sys && cls != 0)
    || ((home == 0 || home == 3) && idx != 0) || (home == 1 && decide (1279 < idx)) || (home == 2 && decide (159 < idx))
    || (cls != 0 && !inPool pools pa size)

/-- The leaf two words describe, for a page of `size` bytes (R94). -/
def leafOf (size w0 w1 : Nat) : Leaf :=
  { base := natBits w0 16 36 * 65536, size := size, r := natBit w0 2, w := natBit w0 3, x := natBit w0 4,
    home := natBits w0 5 2,
    cls := match natBits w0 7 2 with | 0 => .loose | 1 => .bound | _ => .atomic
    log := natBit w0 9, pin := natBit w0 10, sys := natBit w0 11, aok := natBit w0 12, sealed := natBit w0 13,
    homeIdx := natBits w1 16 11, region := natBits w1 0 12 }

/-- Walk the tables from `table` for `va` (R92, R93). -/
def walkFrom (m : Memory) (pools : List (Nat × Nat × Nat)) (va : Nat) : List (Nat × Nat × Nat × Bool) → Nat → Walk
  | [], _ => .invalid
  | (lvl, lo, n, leafOk) :: rest, table =>
    let e := table + 16 * natBits va lo n
    let w0 := physNat m e 8
    let w1 := physNat m (e + 8) 8
    if !natBit w0 0 then .invalid
    else if natBit w0 1 then
      if !leafOk || leafMalformed pools (2 ^ lo) w0 w1 then .malformed lvl else .leaf (leafOf (2 ^ lo) w0 w1) w0 w1
    else if lvl == 1 || natBits w0 52 12 != 0 || natBits w0 2 7 != 0 || w1 != 0 then .malformed lvl
    else walkFrom m pools va rest (natBits w0 9 43 * 512)

/-- The domain of an ASID, when it is not absent. -/
def domOf (s : State) (asid : Nat) : Option Domain :=
  match tabFind asid s.hub.doms with
  | some d => if d.state = .absent then none else some d
  | none => none

/-- Start of the window aperture (R89). -/
def apertureBase : Nat := 0x01FF000000000000

/-- The walk of `va` in a domain's tables: the root entries covering the aperture are never read (R89). -/
def walk (s : State) (asid va : Nat) : Walk :=
  match domOf s asid with
  | none => .invalid
  | some d => if apertureBase ≤ va then .invalid else walkFrom (plainView s) s.mem.pools va walkLevels d.place.root

/-- A line of core `core`'s translation cache that covers `va` (R97). -/
def tlbHit (s : State) (core asid va : Nat) : Option TlbLine :=
  (tabGet [] core s.cores.tlb).find? (fun l => l.asid == asid && decide (l.va ≤ va) && decide (va < l.va + l.size))

/-- The table entry of the lowest level that a die's walker holds for `va` (R97). -/
def walkHit (s : State) (die asid va : Nat) : Option WalkLine :=
  ((tabGet [] die s.cores.walkers).filter (fun l => l.asid == asid && va / 2 ^ l.bits * 2 ^ l.bits == l.va)).foldl
    (fun acc l => match acc with
      | none => some l
      | some b => if l.level < b.level then some l else some b) none

/-- The levels below one. -/
def levelsBelow (lvl : Nat) : List (Nat × Nat × Nat × Bool) := walkLevels.filter (fun x => decide (x.1 < lvl))

/-- A walk made for a die's cores: from the entry its walker holds, else from the root (R97). -/
def dieWalk (s : State) (die asid va : Nat) : Walk :=
  match walkHit s die asid va with
  | some l => if apertureBase ≤ va then .invalid else walkFrom (plainView s) s.mem.pools va (levelsBelow l.level) l.table
  | none => walk s asid va

/-- The addresses of the entries a walk from a table reads, highest level first. -/
def walkReads (m : Memory) (va : Nat) : List (Nat × Nat × Nat × Bool) → Nat → List Nat
  | [], _ => []
  | (lvl, lo, n, _) :: rest, table =>
    let e := table + 16 * natBits va lo n
    let w0 := physNat m e 8
    e :: (if !natBit w0 0 || natBit w0 1 || lvl == 1 then [] else walkReads m va rest (natBits w0 9 43 * 512))

/-- Those of a walk made for a die's cores. -/
def dieWalkReads (s : State) (die asid va : Nat) : List Nat :=
  if apertureBase ≤ va then []
  else match walkHit s die asid va, domOf s asid with
    | some l, _ => walkReads (plainView s) va (levelsBelow l.level) l.table
    | none, some d => walkReads (plainView s) va walkLevels d.place.root
    | none, none => []

/-- The table entries a walk from a table passes, highest level first. -/
def walkPath (m : Memory) (asid va : Nat) : List (Nat × Nat × Nat × Bool) → Nat → List WalkLine
  | [], _ => []
  | (lvl, lo, n, _) :: rest, table =>
    let w0 := physNat m (table + 16 * natBits va lo n) 8
    if !natBit w0 0 || natBit w0 1 || lvl == 1 then []
    else
      let next := natBits w0 9 43 * 512
      { asid := asid, level := lvl, va := va / 2 ^ lo * 2 ^ lo, bits := lo, table := next } :: walkPath m asid va rest next

/-- A die's walker holds the table entries of a walk that has found a leaf. -/
def walkFill (s : State) (die asid va : Nat) : State :=
  match walkHit s die asid va, domOf s asid with
  | none, some d => add s (walkPath (plainView s) asid va walkLevels d.place.root)
  | some l, _ => add s (walkPath (plainView s) asid va (levelsBelow l.level) l.table)
  | none, none => s
where
  /-- Add entries. -/
  add (s : State) (ls : List WalkLine) : State :=
    { s with cores := { s.cores with walkers := tabPut [] die (ls ++ tabGet [] die s.cores.walkers) s.cores.walkers } }

/-- The walk a core's access makes: through its translation cache first, then through its die's walker (R97). Until an
invalidation completes a held entry is used; an entry with V = 0 is never held (R98). -/
def coreWalk (s : State) (core asid va : Nat) : Walk :=
  match tlbHit s core asid va with
  | some l => .leaf (leafOf l.size l.word0.toNat l.word1.toNat) l.word0.toNat l.word1.toNat
  | none => dieWalk s (coreDie core) asid va

/-- Hold the translation of `va` in core `core`'s translation cache, most recent first, 256 entries, and the table
entries it came by in the die's walker (R97). -/
def tlbFill (s : State) (core asid va : Nat) : State :=
  match tlbHit s core asid va, dieWalk s (coreDie core) asid va with
  | none, .leaf l w0 w1 =>
    let line : TlbLine :=
      { asid := asid, va := va / l.size * l.size, size := l.size, word0 := BitVec.ofNat 64 w0, word1 := BitVec.ofNat 64 w1 }
    let lines := (line :: tabGet [] core s.cores.tlb).take 256
    let s1 := walkFill s (coreDie core) asid va
    { s1 with cores := { s1.cores with tlb := tabPut [] core lines s1.cores.tlb } }
  | _, _ => s

/-- No translation cache and no walker holds an entry that `hit` names by ASID, first address and length (R98). -/
def dropTranslations (s : State) (hit : Nat → Nat → Nat → Bool) : State :=
  { s with cores := { s.cores with
      tlb := (s.cores.tlb.map (fun e => (e.1, e.2.filter (fun l => !hit l.asid l.va l.size)))).filter (fun e => !e.2.isEmpty)
      walkers := (s.cores.walkers.map (fun e => (e.1, e.2.filter (fun l => !hit l.asid l.va (2 ^ l.bits))))).filter
        (fun e => !e.2.isEmpty) } }

/-- What an access wants of its page. -/
inductive Need where
  | load | store | rmw
  deriving DecidableEq, Repr

/-- The outcome of translating one address of a data access (R96). -/
inductive Xlat where
  | ok (pa : Nat) (l : Leaf)
  | perm
  | malformed (level : Nat)
  | replay
  deriving DecidableEq, Repr

/-- The tests of R96 on the outcome of a walk, first match wins; `sealOk` for the stationary port alone (R48). -/
def xlatOf (w : Walk) (va : Nat) (need : Need) (sealOk : Bool) : Xlat :=
  match w with
  | .malformed lvl => .malformed lvl
  | .invalid => .replay
  | .leaf l _ _ =>
    if l.sealed && !sealOk then .perm
    else if (need = .load || need = .rmw) && !l.r then .perm
    else if (need = .store || need = .rmw) && !l.w then (if l.pin then .perm else .replay)
    else .ok (l.base + va % l.size) l

/-- Translate an address of a core's data access in a domain's own tables (R89, R96). -/
def xlat (s : State) (core asid va : Nat) (need : Need) : Xlat :=
  if 2 ^ 57 ≤ va then .perm
  else if apertureBase ≤ va then .perm
  else xlatOf (coreWalk s core asid va) va need false

/-- Translate without a core's cache: the hub, an engine or a retry completion. -/
def xlatHub (s : State) (asid va : Nat) (need : Need) (sealOk : Bool) : Xlat :=
  if 2 ^ 57 ≤ va then .perm
  else if apertureBase ≤ va then .perm
  else xlatOf (walk s asid va) va need sealOk

/-- The outcome of translating a fetch (R77, R96). No memory window gives leave to execute, so that the aperture is never
fetched from (R156). -/
inductive FetchXlat where
  | ok (pa : Nat) (l : Leaf)
  | perm
  | fault
  deriving DecidableEq, Repr

/-- Translate a fetch by `core` (R77, R96). A fetch through an unbound window has no completion, and ends as one that does not
translate (R36, R90; log entry 68). -/
def xlatFetch (s : State) (core asid va : Nat) : FetchXlat :=
  if apertureBase ≤ va then .perm
  else match coreWalk s core asid va with
    | .leaf l _ _ => if l.x && !unboundWindow s.hub.pkg (l.base + va % l.size) then .ok (l.base + va % l.size) l else .fault
    | _ => .fault

/-- An address translates as executable for the hub (R60, R150). -/
def executable (s : State) (asid va : Nat) : Bool :=
  match walk s asid va with
  | .leaf l _ _ => l.x
  | _ => false

/-- Split `n` bytes from `va` at 64 KiB boundaries, the smallest page (R92). -/
def pageChunks : Nat → Nat → Nat → List (Nat × Nat)
  | 0, _, _ => []
  | fuel + 1, va, n =>
    if n = 0 then []
    else
      let k := min n (65536 - va % 65536)
      (va, k) :: pageChunks fuel (va + k) (n - k)

/-- The chunks of a range. -/
def chunksOf (va n : Nat) : List (Nat × Nat) := pageChunks (n / 65536 + 2) va n

/-- The key pair of a confidential domain (R46). -/
def pairOf (s : State) (asid : Nat) : Option (BitVec 512) := (domOf s asid).bind (·.xts)

/-- Read `n` bytes of a domain's memory for the hub: the bytes and whether any is poisoned; none where a page does not
translate readable, or lies in an unbound window, where no access completes (R36, R90; log entry 95). A pinned context area is
valid, writable and PIN, and is read whatever its R (R182). -/
def vread (s : State) (asid va n : Nat) : Option (List Byte × Bool) :=
  (chunksOf va n).foldr (fun c acc =>
    match acc, walk s asid c.1 with
    | some (bs, p), .leaf l _ _ =>
      let pa := l.base + c.1 % l.size
      if !l.sealed && (l.r || (l.w && l.pin)) && !unboundWindow s.hub.pkg pa then
        let r := seenRead s (pairOf s asid) pa c.2
        some (r.1 ++ bs, p || r.2)
      else none
    | _, _ => none) (some ([], false))

/-- The little-endian value of `n` bytes of a domain's memory; zero where it does not read. -/
def vreadNat (s : State) (asid va n : Nat) : Nat :=
  match vread s asid va n with
  | some (bs, _) => leNat bs
  | none => 0

/-- A write set for bytes at a virtual address; none where a page does not translate writable, or lies in an unbound window. `pinned` asks for a
valid, writable PIN page (R182). -/
def vwriteSet (s : State) (asid va : Nat) (bs : List Byte) (pinned : Bool) : Option (List (Nat × List Byte)) :=
  (chunksOf va bs.length).foldr (fun c acc =>
    match acc, walk s asid c.1 with
    | some rest, .leaf l _ _ =>
      if l.w && (!pinned || l.pin) && !l.sealed && !unboundWindow s.hub.pkg (l.base + c.1 % l.size) then
        some ((l.base + c.1 % l.size, (bs.drop (c.1 - va)).take c.2) :: rest)
      else none
    | _, _ => none) (some [])

/-- Every byte of the range lies on a valid, writable PIN page (R182): the first address that does not. -/
def pinnedFault (s : State) (asid va n : Nat) : Option Nat :=
  ((chunksOf va n).find? (fun c =>
    match walk s asid c.1 with
    | .leaf l _ _ => !(l.w && l.pin)
    | _ => true)).map (·.1)

/-- Write physical runs. -/
def physRuns (m : Memory) (runs : List (Nat × List Byte)) : Memory :=
  runs.foldl (fun m r => physWrite m r.1 r.2 false) m

/-- HBM keeps a line under a key pair from now on, or as it is (R46). -/
def keepLine (m : Memory) (k : Option (BitVec 512)) (line : Nat) : Memory :=
  if tabFind line m.keys = k || hbmEnd ≤ 128 * line then m
  else { m with keys := match k with | some x => tabSet line x m.keys | none => tabDel line m.keys }

/-- An access under a pair takes a line (R46): one that comes from HBM, where it is kept under another pair, is what its
decryption gives, with its blocks poisoned (R37); from then on it is kept under the pair (log entry 82). -/
def takeLine (s : State) (k : Option (BitVec 512)) (line : Nat) : State :=
  let m := if foreign s k line then physWrite s.mem (128 * line) (openedUnder s k line) true else s.mem
  { s with mem := keepLine m k line }

/-- The lines that the hub writes for a domain are taken under the domain's pair. -/
def claimRuns (s : State) (asid : Nat) (runs : List (Nat × List Byte)) : State :=
  if s.mem.keys.isEmpty && (pairOf s asid).isNone then s
  else (runs.flatMap (fun r => memLines r.1 r.2.length)).foldl (fun a line => takeLine a (pairOf s asid) line) s

/-- Write bytes at a domain's virtual address for the hub; unchanged where a page does not translate writable. -/
def vwrite (s : State) (asid va : Nat) (bs : List Byte) : State :=
  match vwriteSet s asid va bs false with
  | some runs =>
    let s1 := claimRuns s asid runs
    { s1 with mem := physRuns s1.mem runs }
  | none => s

/-- Whole granules of a domain's virtual memory zeroed by the hub; unchanged where a page does not translate writable. -/
def vzero (s : State) (asid va n : Nat) : State :=
  (chunksOf va n).foldl (fun a c => match walk s asid c.1 with
    | .leaf l _ _ =>
      let pa := l.base + c.1 % l.size
      if l.w && !l.sealed && !unboundWindow s.hub.pkg pa then
        let b := claimRuns a asid [(pa, List.replicate c.2 0)]
        { b with mem := zeroRun b.mem pa c.2 }
      else a
    | _ => a) s

/-- A counter's page is LOOSE or ATOMIC, readable and writable, and the address is 16-byte aligned (R52). An access through an
unbound window never completes, and serves no counter (R90; log entry 95). -/
def counterUsable (s : State) (asid va : Nat) : Bool :=
  va % 16 == 0 &&
  match xlatHub s asid va .rmw false with
  | .ok pa l => l.cls != .bound && !unboundWindow s.hub.pkg pa
  | _ => false

end Sys2Proof.Machine
end

