-- ==== Sys2Proof/Machine/Regs.lean ====
section
/-!
DEFINITION. Tasks and registers: the one place where scalar, vector and mask registers and their poison bits are read
and written (R72, R107, R231, R278), the scoreboard's marks (R80, R81), and the acting task of a step.
-/

namespace Sys2Proof.Machine

/-! ### Tasks -/

/-- The task in a slot. -/
def taskAt (s : State) (k : Nat) : Option Task := tabFind k s.tasks
/-- The task whose instruction is being executed. -/
def curTask (s : State) : Option Task := tabFind s.cur s.tasks
/-- The state with a task in a slot. -/
def setTask (s : State) (k : Nat) (t : Task) : State := { s with tasks := tabSet k t s.tasks }
/-- The state with the task of slot `k` changed by `f`. -/
def modTask (s : State) (k : Nat) (f : Task → Task) : State := { s with tasks := tabMod k f s.tasks }
/-- The state with the acting task changed by `f`. -/
def modCur (s : State) (f : Task → Task) : State := modTask s s.cur f
/-- The state with the hub changed by `f`. -/
def modHub (s : State) (f : Hub → Hub) : State := { s with hub := f s.hub }
/-- The state with a domain changed by `f`. -/
def modDom (s : State) (asid : Nat) (f : Domain → Domain) : State :=
  modHub s (fun h => { h with doms := tabMod asid f h.doms })
/-- A fresh identifier of the hub, and the state that has used it. -/
def freshId (s : State) : Nat × State := (s.hub.nextId, modHub s (fun h => { h with nextId := h.nextId + 1 }))

/-! ### Budgets (R64) -/

/-- The count of a task with no limit: one above the largest count a register holds. -/
def noLimit : Nat := 2 ^ 64
/-- A remaining count as it is read and saved: all ones for no limit (R64). -/
def countWord (n : Nat) : Nat := min n (2 ^ 64 - 1)
/-- A count read back from a save area: all ones is no limit for a task that the hub keeps as having none, and the
largest count otherwise. -/
def countOf (n old : Nat) : Nat := if n = 2 ^ 64 - 1 && old == noLimit then noLimit else n

/-! ### The acquire table (R316) -/

/-- The lowest free place of the table. -/
def acqPlace (l : List AcqEntry) : Nat := ((upTo 8).find? (fun i => !l.any (·.ix == i))).getD 0
/-- One bit for each place of the table whose entry `p` admits. -/
def acqMap (l : List AcqEntry) (p : AcqEntry → Bool) : Nat :=
  (upTo 8).foldl (fun a i => a + if l.any (fun e => e.ix == i && p e) then 2 ^ i else 0) 0

/-! ### Register contents -/

/-- The all-ones mask: m0 (R231). -/
def maskOnes : Mask := BitVec.allOnes 512

/-- Scalar register n; s0 reads zero (R231). -/
def getS (r : Regs) (n : Nat) : Word := if n = 0 then 0 else tabGet 0 n r.s
/-- Vector register n. -/
def getV (r : Regs) (n : Nat) : Vec := tabGet 0 n r.v
/-- Mask register n; m0 reads all ones (R231). -/
def getM (r : Regs) (n : Nat) : Mask := if n = 0 then maskOnes else tabGet 0 n r.m
/-- Poison of scalar register n; s0 is never poisoned (R255). -/
def poiS (r : Regs) (n : Nat) : Bool := if n = 0 then false else r.sPoi.getLsbD n
/-- Poison of mask register n (R278). -/
def poiM (r : Regs) (n : Nat) : Bool := if n = 0 then false else r.mPoi.getLsbD n
/-- Poison of vector register n, one bit per 16-byte granule (R107). -/
def poiV (r : Regs) (n : Nat) : BitVec 32 := tabGet 0 n r.vPoi

/-- A bit vector with bit `n` set to `b`. -/
def putBit {w : Nat} (x : BitVec w) (n : Nat) (b : Bool) : BitVec w :=
  if b then x ||| (1#w <<< n) else x &&& ~~~(1#w <<< n)

/-- Write a scalar register; s0 discards the write (R231). -/
def putS (r : Regs) (n : Nat) (v : Word) (poi : Bool) : Regs :=
  if n = 0 then r else { r with s := tabPut 0 n v r.s, sPoi := putBit r.sPoi n poi }
/-- Write a vector register with its poison bits. -/
def putV (r : Regs) (n : Nat) (v : Vec) (poi : BitVec 32) : Regs :=
  { r with v := tabPut 0 n v r.v, vPoi := tabPut 0 n poi r.vPoi }
/-- Write a mask register; no instruction writes m0 (R231). -/
def putM (r : Regs) (n : Nat) (v : Mask) (poi : Bool) : Regs :=
  if n = 0 then r else { r with m := tabPut 0 n v r.m, mPoi := putBit r.mPoi n poi }

/-! ### Register keys: scalars 0 to 63, vectors 64 to 127, masks 128 to 135, `fs` 136, S 137 -/

/-- Key of a vector register. -/
def vKey (n : Nat) : Nat := 64 + n
/-- Key of a mask register. -/
def mKey (n : Nat) : Nat := 128 + n
/-- Key of `fs`. -/
def fsKey : Nat := 136
/-- Key of the stochastic rounding state. -/
def srsKey : Nat := 137

/-- Latencies of R81. -/
def latSalu : Nat := 1
/-- See `latSalu`. -/
def latSmul : Nat := 3
/-- See `latSalu`. -/
def latSdiv : Nat := 24
/-- See `latSalu`. -/
def latVint : Nat := 2
/-- See `latSalu`. -/
def latVfp : Nat := 4
/-- See `latSalu`. -/
def latVcvt : Nat := 4
/-- See `latSalu`. -/
def latVcmp : Nat := 4
/-- See `latSalu`. -/
def latVperm : Nat := 3
/-- See `latSalu`. -/
def latVtrn : Nat := 8
/-- See `latSalu`. -/
def latVdiv : Nat := 16
/-- See `latSalu`. -/
def latSpad : Nat := 6
/-- See `latSalu`. -/
def latJob : Nat := 4

/-! ### Reading and writing for the acting task -/

/-- The task as it was at the group's issue, from which an instruction reads its sources (R79). -/
def srcTask (s : State) (t : Task) : Task := s.grp.snap.getD t
/-- The registers an instruction reads its sources from (R79). -/
def srcRegs (s : State) (t : Task) : Regs := (srcTask s t).regs

/-- Mark a register as written at latency `lat` (R80). -/
def mark (s : State) (t : Task) (key lat : Nat) : Task :=
  if key = 0 then t else { t with pend := tabPut 0 key (s.clock + lat) t.pend }

/-- Write scalar register n of the acting task at a latency. -/
def writeS (s : State) (n : Nat) (v : Word) (poi : Bool) (lat : Nat) : State :=
  modCur s (fun t => mark s { t with regs := putS t.regs n v poi } n lat)
/-- Write vector register n of the acting task at a latency. -/
def writeV (s : State) (n : Nat) (v : Vec) (poi : BitVec 32) (lat : Nat) : State :=
  modCur s (fun t => mark s { t with regs := putV t.regs n v poi } (vKey n) lat)
/-- Write mask register n of the acting task at a latency. -/
def writeM (s : State) (n : Nat) (v : Mask) (poi : Bool) (lat : Nat) : State :=
  modCur s (fun t => mark s { t with regs := putM t.regs n v poi } (mKey n) lat)

/-- The register of a key is pending on the retry ring (R178). -/
def retryPending (t : Task) (key : Nat) : Bool :=
  t.retry.any (fun r => r.dests.contains key && !(r.inFrame && decide (1 ≤ key) && decide (key ≤ 8)))

/-- The scoreboard lets a register be read or written at cycle `clock` (R80). -/
def regReady (clock : Nat) (t : Task) (key : Nat) : Bool :=
  decide (tabGet 0 key t.pend ≤ clock) && (tabGet [] key t.arriving).isEmpty && !retryPending t key

/-! ### Program counters (R54, R223) -/

/-- Line address of a PC. -/
def pcLine (pc : Word) : Nat := pc.toNat / 64 * 64
/-- Slot of a PC. -/
def pcSlot (pc : Word) : Nat := pc.toNat % 8
/-- The PC `n` slots on within a group: past slot 4 it is slot 0 of the next line (R223). -/
def pcAfter (pc : Word) (n : Nat) : Word :=
  if pcSlot pc + n ≤ 4 then pc + BitVec.ofNat 64 n else BitVec.ofNat 64 (pcLine pc + 64)
/-- Slots in the group being executed. -/
def groupSize (s : State) : Nat := if s.grp.paired then 2 else 1
/-- PC of the group being executed. -/
def groupPc (s : State) (t : Task) : Word := s.grp.base.getD t.pc
/-- NextPC: the PC of the first slot after the group (R261). -/
def nextPc (s : State) (t : Task) : Word := pcAfter (groupPc s t) (groupSize s)
/-- PC of the instruction being executed. -/
def ownPc (s : State) (t : Task) : Word := groupPc s t + (if s.grp.second then 1 else 0)

/-- The form of R54: bits 63:57 and 5:3 zero. -/
def pcForm (v : Word) : Bool := decide (v.toNat < 2 ^ 57) && v.toNat / 8 % 8 == 0

end Sys2Proof.Machine
end

