-- ==== Sys2Proof/Machine/Operands.lean ====
section
/-!
DEFINITION. Operand forms: the scalar operands and results of R255, and the elements, masks, broadcast and immediate
operands of a vector instruction (R133, R228, R273, R274), with the poison of each (R107, R278).
-/

namespace Sys2Proof.Machine

/-! ### Scalar operands (R255) -/

/-- Wd: 64, 32, 16 or 8. -/
def sWidth (w : BitVec 2) : Nat := 64 / 2 ^ w.toNat

/-- B64: the second source, or the sign-extended immediate. -/
def opB64 (r : Regs) (f : FmtS) : Word := if f.bi then f.imm.signExtend 64 else getS r f.b.toNat

/-- Unsigned value of A. -/
def uA (r : Regs) (f : FmtS) : Nat := (getS r f.a.toNat).toNat % 2 ^ sWidth f.w
/-- Unsigned value of B. -/
def uB (r : Regs) (f : FmtS) : Nat := (opB64 r f).toNat % 2 ^ sWidth f.w
/-- Signed value of A. -/
def sA (r : Regs) (f : FmtS) : Int := sval (sWidth f.w) (uA r f)
/-- Signed value of B. -/
def sB (r : Regs) (f : FmtS) : Int := sval (sWidth f.w) (uB r f)

/-- WriteS: a value taken modulo 2^Wd, zero- or sign-extended to 64 bits. -/
def sResult (f : FmtS) (z : Int) : Word :=
  let v := wrapNat (sWidth f.w) z
  if f.sx then BitVec.ofInt 64 (sval (sWidth f.w) v) else BitVec.ofNat 64 v

/-- ClampS and ClampU of R256. -/
def clampS (wd : Nat) (z : Int) : Int := clampInt (-(2 ^ (wd - 1) : Int)) (2 ^ (wd - 1) - 1) z
/-- See `clampS`. -/
def clampU (wd : Nat) (z : Int) : Int := clampInt 0 (2 ^ wd - 1) z

/-- Poison of A, and of B when it is a register. -/
def poiA (r : Regs) (f : FmtS) : Bool := poiS r f.a.toNat
/-- See `poiA`. -/
def poiB (r : Regs) (f : FmtS) : Bool := !f.bi && poiS r f.b.toNat

/-- Set bits of the `n` low bits. -/
def popCount : Nat → Nat → Nat
  | 0, _ => 0
  | n + 1, v => v % 2 + popCount n (v / 2)
/-! ### Elements (R133) -/

/-- Element i of a register, for elements `w` bits wide. -/
def elt (w : Nat) (v : Vec) (i : Nat) : Nat := natBits v.toNat (w * i) w
/-- Pack lanes, the first lowest. -/
def packLanes (w : Nat) (l : List Nat) : Vec := BitVec.ofNat 4096 (l.foldr (fun x acc => acc * 2 ^ w + x % 2 ^ w) 0)
/-- Poison of the granule that holds element i. -/
def poiElt (w : Nat) (p : BitVec 32) (i : Nat) : Bool := p.getLsbD (w * i / 128)

/-- Active(i) under `mq` for elements `w` bits wide (R228, R274): mask bit i, and byte i div 2 for 4-bit types. -/
def active (r : Regs) (mq : BitVec 4) (w i : Nat) : Bool :=
  if mq = 0 then true
  else
    let j := if w = 4 then i / 2 else i
    (getM r (mq.toNat % 8)).getLsbD j != mq.getLsbD 3

/-- Poison of the governing mask. -/
def poiMq (r : Regs) (mq : BitVec 4) : Bool := poiM r (mq.toNat % 8)

/-- Lanes of a vector result with their flags: inactive lanes keep the old element and raise nothing (R133, R275). -/
def vecLanes (w : Nat) (act : Nat → Bool) (old : Vec) (f : Nat → Nat × Nat) : Vec × Nat :=
  let rs := (upTo (4096 / w)).map (fun i => if act i then f i else (elt w old i, 0))
  (packLanes w (rs.map (·.1)), rs.foldl (fun a r => a ||| r.2) 0)

/-- Poison bits of a vector result (R107): a granule is poisoned when an active element in it is, or stays poisoned when
some element of it is not written. -/
def vecPoison (w : Nat) (act : Nat → Bool) (old : BitVec 32) (src : Nat → Bool) : BitVec 32 :=
  let per := 128 / w
  (upTo 32).foldl (fun p g =>
    let ix := (upTo per).map (fun j => g * per + j)
    putBit p g (ix.any (fun i => act i && src i) || (old.getLsbD g && ix.any (fun i => !act i)))) 0

/-! ### Vector operands (R274) -/

/-- ImmElem: the element an immediate supplies; an f64 immediate is an FP32 converted exactly, a NaN with its sign and
its fraction, so that a signalling one stays signalling (R130, R274). -/
def immElem (f : FmtV) : Nat :=
  match f.ty with
  | .f64 =>
    let b := f.imm.toNat
    match fdecode (fmtOf .f32) b with
    | .nan _ => b / 2 ^ 31 * 2 ^ 63 + 0x7FF * 2 ^ 52 + b % 2 ^ 23 * 2 ^ 29
    | _ => (convert .f32 .f64 {} b).1
  | t => wrapNat t.width (f.imm.signExtend 64).toInt

/-- An element that an instruction hands on: a NaN of a floating-point type becomes the canonical one (R130). -/
def canonNan (t : ElemTy) (b : Nat) : Nat :=
  if t.isFloat && (fdecode (fmtOf t) (b % 2 ^ t.width)).isNan then (fmtOf t).nan else b

/-- Element i of source b before negation: an immediate, a broadcast scalar, or v[b]. -/
def rawB (r : Regs) (f : FmtV) (i : Nat) : Nat :=
  if f.bi then immElem f
  else if f.bs then (getS r f.b.toNat).toNat % 2 ^ f.ty.width
  else elt f.ty.width (getV r f.b.toNat) i
/-- Element i of source a before negation. -/
def rawA (r : Regs) (f : FmtV) (i : Nat) : Nat := elt f.ty.width (getV r f.a.toNat) i
/-- Element i of source c before negation. -/
def rawC (r : Regs) (f : FmtV) (i : Nat) : Nat := elt f.ty.width (getV r f.c.toNat) i

/-- Poison of element i of each source. -/
def poiVA (r : Regs) (f : FmtV) (i : Nat) : Bool := poiElt f.ty.width (poiV r f.a.toNat) i
/-- See `poiVA`. -/
def poiVB (r : Regs) (f : FmtV) (i : Nat) : Bool :=
  if f.bi then false else if f.bs then poiS r f.b.toNat else poiElt f.ty.width (poiV r f.b.toNat) i
/-- See `poiVA`. -/
def poiVC (r : Regs) (f : FmtV) (i : Nat) : Bool := poiElt f.ty.width (poiV r f.c.toNat) i

/-- A floating-point operand: DAZ, then the neg bit (R137, R274). -/
def fOperand (f : FmtV) (daz neg : Bool) (raw : Nat) : FVal :=
  let v := fdecode (fmtOf f.ty) (fdaz daz (fmtOf f.ty) raw)
  if neg then v.negate else v
/-- OpA, OpB and OpC of a floating-point type. -/
def fA (r : Regs) (f : FmtV) (daz : Bool) (i : Nat) : FVal := fOperand f daz (f.neg.getLsbD 0) (rawA r f i)
/-- See `fA`. -/
def fB (r : Regs) (f : FmtV) (daz : Bool) (i : Nat) : FVal := fOperand f daz (f.neg.getLsbD 1) (rawB r f i)
/-- See `fA`. -/
def fC (r : Regs) (f : FmtV) (daz : Bool) (i : Nat) : FVal := fOperand f daz (f.neg.getLsbD 2) (rawC r f i)

/-- The encoding of a floating-point operand with its neg bit applied, DAZ included. -/
def fBits (f : FmtV) (daz neg : Bool) (raw : Nat) : Nat :=
  let b := fdaz daz (fmtOf f.ty) raw
  if neg then b ^^^ (fmtOf f.ty).signBit else b

/-- An integer operand: Val, negated exactly under its neg bit (R274). -/
def iOperand (t : ElemTy) (neg : Bool) (raw : Nat) : Int := if neg then -(ival t raw) else ival t raw
/-- OpA, OpB and OpC of an integer type. -/
def iA (r : Regs) (f : FmtV) (i : Nat) : Int := iOperand f.ty (f.neg.getLsbD 0) (rawA r f i)
/-- See `iA`. -/
def iB (r : Regs) (f : FmtV) (i : Nat) : Int := iOperand f.ty (f.neg.getLsbD 1) (rawB r f i)
/-- See `iA`. -/
def iC (r : Regs) (f : FmtV) (i : Nat) : Int := iOperand f.ty (f.neg.getLsbD 2) (rawC r f i)

end Sys2Proof.Machine
end

