-- ==== Sys2Proof/Machine/Flags.lean ====
section
/-!
DEFINITION. The `fs` register (R139, R140): its fields and legality, the flags an instruction raises, the effective
rounding mode (R134), and the stochastic rounding state S (R135).
-/

namespace Sys2Proof.Machine

/-- RM of `fs`. -/
def fsRm (fs : Word) : Nat := natBits fs.toNat 12 3
/-- DAZ of `fs`. -/
def fsDaz (fs : Word) : Bool := fs.getLsbD 9
/-- FTZ of `fs`. -/
def fsFtz (fs : Word) : Bool := fs.getLsbD 8
/-- A value `fs` may be given (R139): reserved bits zero, RM at most 5. -/
def fsLegal (v : Word) : Bool :=
  natBits v.toNat 15 49 == 0 && natBits v.toNat 10 2 == 0 && natBits v.toNat 5 3 == 0 && decide (fsRm v ≤ 5)

/-- The effective rounding of an `rm` field (R134). No legal write leaves RM at 6 or 7; what a trap frame's FS word with
such an RM rounds by is left open (log entry 24). -/
def effRm (rm : BitVec 3) (fs : Word) : Nat :=
  if rm = 6 then (if fsRm fs ≤ 5 then fsRm fs else (Config.freeWord (fsRm fs)).toNat % 6) else rm.toNat

/-- The rounding of destination element i, with S already advanced. -/
def rounding (mode : Nat) (sat : Bool) (fs : Word) (srs i : Nat) : Rounding :=
  { mode := mode, word := if mode = 5 then wordSR srs i else 0, sat := sat, ftz := fsFtz fs }

/-- OR flags into `fs` (R140); the register counts as in flight until the latency has passed. -/
def raiseFlags (s : State) (flags lat : Nat) : State :=
  modCur s (fun t => { t with
    fs := t.fs ||| BitVec.ofNat 64 flags
    pend := tabPut 0 fsKey (max (tabGet 0 fsKey t.pend) (s.clock + lat)) t.pend })

/-- S after an instruction that rounds stochastically (R135). A `wsys` of the same group to S stands (R83). -/
def advanceSR (s : State) (t : Task) (mode : Nat) : State :=
  if mode = 5 && !s.grp.wroteSR then
    modCur s (fun u => { u with srs := BitVec.ofNat 64 (stepsSR 64 t.srs.toNat) })
  else s

/-- S as the elements of this instruction see it. -/
def srFor (s : State) (t : Task) (mode : Nat) : Nat :=
  if mode = 5 then stepsSR 64 (srcTask s t).srs.toNat else 0

/-- A poisoned `fs` or S poisons what it governs (R269). -/
def fsPoison (s : State) (t : Task) (mode : Nat) : Bool :=
  (srcTask s t).fsPoi || (decide (mode = 5) && (srcTask s t).srsPoi)

end Sys2Proof.Machine
end

