-- ==== Sys2Proof/Machine/Notify.lean ====
section
/-!
DEFINITION. What the hub tells the outside: PKG_STATUS (R17), MSI-X events and messages (R31, R32), notices of the
supervisor's fault log (R175), completion counters (R52, R53), and the packets of the tail (R218 to R220).
-/

namespace Sys2Proof.Machine

/-! ### PKG_STATUS -/

/-- Cores not quarantined (R17). -/
def liveCores (p : Package) : Nat :=
  ((upTo 1280).filter (fun c => !p.quarCores.contains c && !p.quarClusters.contains (coreCluster c))).length
/-- Clusters, or L2 slices, of the 160 not quarantined. -/
def liveOf (quar : List Nat) : Nat := ((upTo 160).filter (fun c => !quar.contains c)).length
/-- THERM: 2 tripped, 1 throttled (R13). -/
def therm (p : Package) : Nat := if p.tripped then 2 else if p.thermSteps = 0 then 0 else 1

/-- PKG_STATUS (R17). -/
def pkgStatus (p : Package) : Word :=
  BitVec.ofNat 64 (
    boolNat p.fatal + 2 * boolNat p.ready + 4 * boolNat p.wiping + 8 * boolNat p.replReq
    + 16 * boolNat (!p.linksDown.isEmpty) + 32 * boolNat (decide (0 < p.powerSteps)) + 64 * therm p
    + 2 ^ 16 * (if p.ready then liveOf p.quarSlices else 0)
    + 2 ^ 24 * (if p.ready then liveOf p.quarClusters else 0)
    + 2 ^ 32 * (if p.ready then liveCores p else 0))

/-- The cores run: bring-up is done, and nothing has stopped the part (R13, R16, R17, R20). -/
def running (s : State) : Bool := s.hub.pkg.ready && !s.hub.pkg.tripped && !s.hub.pkg.fatal

/-! ### MSI-X (R31) -/

/-- Identifiers of the outstanding accesses to SYS pages (R32). -/
def sysOutstanding (s : State) : List Nat :=
  (s.hub.accesses.filter (fun e => !e.2.parts.isEmpty && e.2.isStore)).map (·.1)

/-- A message of the vector is due: it is sent, or waits for the one being sent, or sets the pending bit. -/
def msixDue (after : List Nat) (v : MsixVec) : MsixVec :=
  if v.masked then { v with pendingBit := true }
  else if v.sending then { v with dueNext := true }
  else { v with pend := 0, running := false, sending := true, dueNext := false, after := after }

/-- One event on a vector: PEND rises, the timer starts from 0, a message is due at THRESH. -/
def msixEvent (after : List Nat) (v : MsixVec) : MsixVec :=
  let p := min (v.pend + 1) 65535
  let v1 := { v with pend := p, running := v.running || (v.pend == 0 && v.timer != 0) }
  if max v.thresh 1 ≤ p then msixDue after v1 else v1

/-- Count one event on vector n. -/
def countEvent (s : State) (n : Nat) : State :=
  modHub s (fun h => { h with vecs := tabPut {} n (msixEvent (sysOutstanding s) (tabGet {} n h.vecs)) h.vecs })

/-- Change the package; a change of PKG_STATUS counts one event on vector 0 (R30). -/
def modPkg (s : State) (f : Package → Package) : State :=
  let s' := modHub s (fun h => { h with pkg := f h.pkg })
  if pkgStatus s'.hub.pkg = pkgStatus s.hub.pkg then s' else countEvent s' 0

/-- A check value did not match: CRC_ERRS rises, saturating, and vector 0 counts one event (R37). -/
def crcMismatch (s : State) : State :=
  countEvent (modHub s (fun h => { h with crcErrs := min (h.crcErrs + 1) 0xFFFFFFFF })) 0

/-! ### Stops that the debug function reports (R215) -/

/-- A session reaches a domain (R50, R51). -/
def reaches (p : Package) (x : Session) (d : Domain) : Bool :=
  match p.lifecycle with
  | .deployed => natBit d.flags.toNat 1 && d.cred == x.keyHash
  | .debugUnlocked => x.authority
  | _ => false

/-- One stop: function 1's vector 0, which is number 256 of `Hub.vecs` (log entry 74), counts an event. -/
def countStop (s : State) : State := countEvent (modHub s (fun h => { h with debugEvents := h.debugEvents + 1 })) 256

/-- A domain's log or its replay has stopped it: one stop, which STOPEVT of every session that reaches the domain reports.
No cause is stated for it, so that the cause byte is a free value (log entry 76). -/
def domainStop (s : State) (asid : Nat) (gtid : Word) : State :=
  let c := (Config.freeWord s.free).toNat % 256
  match domOf s asid with
  | none => s
  | some d => countStop { modHub s (fun h => { h with
      sessions := tabMap (fun _ x => if reaches h.pkg x d then { x with stopGtid := gtid, stopCause := c } else x) h.sessions })
      with free := s.free + 1 }

/-! ### The supervisor's fault log (R175) -/

/-- The fields of a notice (R175). -/
structure Notice where
  kind : Nat
  code : Nat
  asid : Nat := 0
  gtid : Word := 0
  addr : Nat := 0
  pc : Word := 0
  cause1 : Nat := 0
  cause2 : Nat := 0
  depth : Nat := 0
  outcome : Nat := 0
  rolled : Nat := 0
  adit : Nat := 0
  skipped : Nat := 0
  deriving DecidableEq, Repr

/-- The 64 bytes of a notice, little-endian (R175). -/
def Notice.bits (n : Notice) : BitVec 512 :=
  BitVec.ofNat 512 (n.kind % 256 + 2 ^ 8 * (n.code % 256) + 2 ^ 16 * (n.asid % 1024) + 2 ^ 64 * n.gtid.toNat
    + 2 ^ 128 * (n.addr % 2 ^ 64) + 2 ^ 192 * n.pc.toNat + 2 ^ 256 * (n.cause1 % 256) + 2 ^ 264 * (n.cause2 % 256)
    + 2 ^ 272 * (n.depth % 256) + 2 ^ 280 * (n.outcome % 256) + 2 ^ 288 * (n.rolled % 2 ^ 32)
    + 2 ^ 320 * (n.adit % 2 ^ 16) + 2 ^ 352 * (n.skipped % 2 ^ 32))

/-- Append a notice; when the ring of 4,096 is full it is dropped and counted. -/
def notify (s : State) (n : Notice) : State :=
  modHub s (fun h =>
    if h.faultLog.length < 4096 then { h with faultLog := h.faultLog ++ [n.bits] }
    else { h with faultDrops := h.faultDrops + 1 })

/-- A MALFORMED_PTE notice (R96). -/
def notifyMalformed (s : State) (asid va lvl : Nat) : State :=
  notify s { kind := 3, code := lvl, asid := asid, addr := va }

/-- A LAUNCH_FAULT notice (R56). -/
def notifyLaunch (s : State) (asid code addr : Nat) : State :=
  notify s { kind := 2, code := code, asid := asid, addr := addr }

/-! ### Completion counters (R52, R53) -/

/-- Write a counter whole: REMAINING, STATUS and the reserved bytes zero. -/
def counterWrite (s : State) (asid va remaining status : Nat) : State :=
  vwrite s asid va (leBytes 4 remaining ++ leBytes 4 status ++ leBytes 8 0)

/-- STATUS of the counter at an address; 0 where it does not read. -/
def counterStatus (s : State) (asid va : Nat) : Nat := vreadNat s asid (va + 4) 4

/-- The final status of work (R53): 3 faulted, 2 cancelled, 1 done. -/
def finalStatus (faulted cancelled : Bool) : Nat := if faulted then 3 else if cancelled then 2 else 1

/-! ### The tail (R218 to R220) -/

/-- A packet of a slot (0 to 15) of a core now: a gap above 31 cycles since the core's previous one puts a TIME packet before
it (R219). `body` is the packet without its first 24 bits. -/
def tailWords (s : State) (core slot type body : Nat) : List (BitVec 128) :=
  let gap := s.clock - tabGet 0 core s.cores.tailLast
  let head := fun (ty dt : Nat) => ty + 16 * slot + 256 * core + 2 ^ 19 * dt
  if 31 < gap then
    [BitVec.ofNat 128 (head 6 0 + 2 ^ 24 * s.clock), BitVec.ofNat 128 (head type 0 + 2 ^ 24 * body)]
  else [BitVec.ofNat 128 (head type gap + 2 ^ 24 * body)]

/-- Put a packet of a slot into its core's buffer of 64, or count it lost (R218). -/
def tailPacket (s : State) (asid slot : Nat) (type : Nat) (body : Nat) : State :=
  let core := keyCore slot
  let pkts := tailWords s core (keySlot slot) type body
  let buf := tabGet [] core s.cores.tailBuf
  if buf.length + pkts.length ≤ 64 then
    { s with cores := { s.cores with
        tailBuf := tabPut [] core (buf ++ pkts.map (fun p => (asid, p))) s.cores.tailBuf
        tailLast := tabPut 0 core s.clock s.cores.tailLast } }
  else
    { s with cores := { s.cores with
        tailLost := tabPut 0 (core * 1024 + asid) (tabGet 0 (core * 1024 + asid) s.cores.tailLost + pkts.length)
          s.cores.tailLost } }

/-- The tail of a domain is enabled. -/
def tailEnabled (s : State) (asid : Nat) : Bool :=
  match domOf s asid with | some d => d.tail.isSome | none => false

/-- The tail of the domain a task runs in follows the task (R220). -/
def tailFollows (s : State) (t : Task) : Bool := tailEnabled s t.asid && t.tailMute.isNone

/-- A BRANCH packet of the gathered outcomes of a slot (R219, R220). -/
def flushBranch (s : State) (k : Nat) (t : Task) : State :=
  if t.branchBits.isEmpty then s
  else
    let n := t.branchBits.length
    let v := (t.branchBits.zip (upTo n)).foldl (fun a b => a + (if b.1 then 2 ^ b.2 else 0)) 0
    modTask (tailPacket s t.asid k 3 (n + 2 ^ 7 * v)) k (fun t => { t with branchBits := [] })

/-- Line address and slot of a PC as SYNC_B lays them out, from bit 24. -/
def tailPc (pc : Word) : Nat := natBits pc.toNat 6 51 + 2 ^ 51 * pcSlot pc

/-- SYNC_A and SYNC_B for a slot at a PC (R219, R220). -/
def tailSync (s : State) (k : Nat) (pc : Word) : State :=
  match taskAt s k with
  | none => s
  | some t =>
    if !tailFollows s t then s
    else
      let s1 := flushBranch s k t
      let s2 := tailPacket s1 t.asid k 1 (t.id.gtid.toNat + 2 ^ 64 * (t.icount % 2 ^ 40))
      tailPacket s2 t.asid k 2 (tailPc pc + 2 ^ 54 * t.asid + 2 ^ 64 * t.depth + 2 ^ 68 * (s.clock % 2 ^ 36))

/-- INDIRECT with a reason at a transfer, after which the task is `t` (R220). A crossing between domains stands in the tail of
the domain left and in that of the domain entered (log entry 85); one into a domain whose tail is off writes target 0 in the
former, and the task's packets end until it is back. -/
def tailIndirect (s : State) (k fromAsid : Nat) (target : Word) (reason : Nat) : State :=
  match taskAt s k with
  | none => s
  | some t =>
    let back := (reason == 2 || reason == 5) && match t.tailMute with | some d => decide (t.depth ≤ d) | none => false
    let muted := t.tailMute.isSome && !back
    let here := tailEnabled s t.asid
    let left := tailEnabled s fromAsid && fromAsid != t.asid && t.tailMute.isNone
    let body := fun (pc : Nat) => pc + 2 ^ 54 * t.asid + 2 ^ 64 * t.depth + 2 ^ 68 * reason
    if muted then s
    else
      let s1 := if left then
          tailPacket (flushBranch s k { t with asid := fromAsid }) fromAsid k 4 (if here then body (tailPc target) else 2 ^ 68 * reason)
        else s
      let entering := reason == 1 && fromAsid != t.asid && !tailEnabled s fromAsid
      if entering || (left && !here && reason == 1) then modTask s1 k (fun t => { t with tailMute := some (t.depth - 1) })
      else
        let s2 := if t.tailMute.isSome then modTask s1 k (fun t => { t with tailMute := none }) else s1
        if here then tailPacket (flushBranch s2 k { t with branchBits := if left then [] else t.branchBits }) t.asid k 4 (body (tailPc target))
        else s2

/-- END with a reason (R219). -/
def tailEnd (s : State) (k : Nat) (reason : Nat) : State :=
  match taskAt s k with
  | none => s
  | some t =>
    if tailFollows s t then tailPacket (flushBranch s k t) t.asid k 5 (reason + 2 ^ 4 * t.icount) else s

/-- One outcome bit of a conditional branch (R220): BRANCH is written when 96 have gathered. -/
def tailOutcome (s : State) (taken : Bool) : State :=
  match curTask s with
  | none => s
  | some t =>
    if tailFollows s t then
      let t' := { t with branchBits := t.branchBits ++ [taken] }
      let s' := setTask s s.cur t'
      if 96 ≤ t'.branchBits.length then flushBranch s' s.cur t' else s'
    else s

end Sys2Proof.Machine
end

