-- ==== Sys2Proof/Machine/SpoilLog.lean ====
section
/-!
DEFINITION. The domain stack's frames as records in memory (R152, R153), save-pool and seal-block allocation (R152,
R183), and the spoil log (R186 to R193, R197, R203): its control block and entries in the domain's memory, appending
under the full policies, releasing, and rolling back.
-/

namespace Sys2Proof.Machine

/-! ### Frames (R153) -/

/-- A domain-stack frame (R153). -/
structure Frame where
  caller : Nat := 0
  depth : Nat := 0
  logged : Bool := false
  rewindOk : Bool := false
  reentrant : Bool := false
  clean : Bool := false
  adit : Nat := 0
  rev : Nat := 0
  retPc : Word := 0
  fs : Word := 0
  srs : Word := 0
  budget : Word := 0
  vw : Nat := 0
  vn : Nat := 0
  sw : Nat := 0
  sn : Nat := 0
  st : Nat := 0
  mw : Nat := 0
  mwBase : Nat := 0
  mwLen : Nat := 0
  mwPerm : Nat := 0
  sealVa : Nat := 0
  markC : Nat := 0
  markW : Nat := 0
  acqBits : Nat := 0
  wdep : Nat := 0
  wv : Bool := false
  deriving DecidableEq, Repr

/-- The 256 bytes of a frame (R153). -/
def Frame.bytes (f : Frame) : List Byte :=
  leBytes 2 f.caller ++ leBytes 1 f.depth
    ++ leBytes 1 (boolNat f.logged + 2 * boolNat f.rewindOk + 4 * boolNat f.reentrant + 128 * boolNat f.clean)
    ++ leBytes 2 f.adit ++ leBytes 2 f.rev ++ leBytes 8 f.retPc.toNat ++ leBytes 8 f.fs.toNat
    ++ leBytes 8 f.srs.toNat ++ leBytes 8 f.budget.toNat
    ++ leBytes 8 (f.vw + 2 ^ 8 * f.vn + 2 ^ 16 * f.sw + 2 ^ 24 * f.sn + 2 ^ 32 * f.st + 2 ^ 40 * f.mw)
    ++ leBytes 8 f.mwBase ++ leBytes 8 (f.mwLen + 2 ^ 48 * f.mwPerm) ++ leBytes 8 f.sealVa ++ leBytes 8 f.markC
    ++ leBytes 8 f.markW ++ leBytes 1 f.acqBits ++ leBytes 1 (f.wdep + 128 * boolNat f.wv) ++ leBytes 166 0

/-- The frame 256 bytes hold. -/
def Frame.ofBytes (b : List Byte) : Frame :=
  let win := recField b 40 8
  { caller := recField b 0 2 % 1024, depth := recField b 2 1, logged := natBit (recField b 3 1) 0,
    rewindOk := natBit (recField b 3 1) 1, reentrant := natBit (recField b 3 1) 2, clean := natBit (recField b 3 1) 7,
    adit := recField b 4 2, rev := recField b 6 2, retPc := BitVec.ofNat 64 (recField b 8 8),
    fs := BitVec.ofNat 64 (recField b 16 8), srs := BitVec.ofNat 64 (recField b 24 8),
    budget := BitVec.ofNat 64 (recField b 32 8),
    vw := natBits win 0 6, vn := natBits win 8 5, sw := natBits win 16 6, sn := natBits win 24 4,
    st := natBits win 32 6, mw := natBits win 40 6,
    mwBase := recField b 48 8 % 2 ^ 57, mwLen := recField b 56 8 % 2 ^ 48, mwPerm := natBits (recField b 56 8) 48 2,
    sealVa := recField b 64 8, markC := recField b 72 8 % 2 ^ 34, markW := recField b 80 8 % 2 ^ 34,
    acqBits := recField b 88 1, wdep := recField b 89 1 % 16, wv := natBit (recField b 89 1) 7 }

/-- Virtual address, in the task's own domain, of the frame for depth k (R152). -/
def frameVa (s : State) (t : Task) (k : Nat) : Nat :=
  match domOf s t.home with
  | some d => d.place.stackVa + 2048 * t.stackIx + 256 * (k - 1)
  | none => 0

/-- The frame for depth k of a task. -/
def readFrame (s : State) (t : Task) (k : Nat) : Frame :=
  match vread s t.home (frameVa s t k) 256 with
  | some (b, _) => Frame.ofBytes b
  | none => {}

/-- Write the frame for depth k. -/
def writeFrame (s : State) (t : Task) (k : Nat) (f : Frame) : State := vwrite s t.home (frameVa s t k) f.bytes

/-- D_w: the domain that runs at depth w of a task's stack (R152). -/
def domAtDepth (s : State) (t : Task) (w : Nat) : Nat :=
  if w = t.depth then t.asid else if w = 0 then t.home else (readFrame s t (w + 1)).caller

/-- The frames of a task's stack, which say whose window and whose depth an address or a handle goes through: the first address
that is not valid, writable and PIN (R182). -/
def stackPinned (s : State) (t : Task) : Option Nat :=
  if t.depth = 0 then none else pinnedFault s t.home (frameVa s t 1) (256 * t.depth)

/-- The same for an access to an address, which reads the frames when it lies in the window aperture (R156). -/
def windowPinned (s : State) (t : Task) (va : Nat) : Option Nat :=
  if apertureBase ≤ va && va < 2 ^ 57 then stackPinned s t else none

/-- The domains on a task's stack, from depth 0 up. -/
def stackDoms (s : State) (t : Task) : List Nat := (upTo (t.depth + 1)).map (domAtDepth s t)

/-! ### Save pool and seal pool (R152, R183, R196) -/

/-- The lowest gap of `len` bytes in `[base, base + total)` around allocated ranges in rising order. -/
def poolGap (len limit : Nat) : List (Nat × Nat) → Nat → Option Nat
  | [], at_ => if at_ + len ≤ limit then some at_ else none
  | (a, n) :: t, at_ => if at_ + len ≤ a then some at_ else poolGap len limit t (max at_ (a + n))

/-- Take `len` bytes (rounded up to 64) from a domain's save pool. -/
def savePoolTake (s : State) (asid len : Nat) : Option (Nat × State) :=
  match domOf s asid with
  | none => none
  | some d =>
    let n := (len + 63) / 64 * 64
    match poolGap n (d.place.saveVa + d.place.saveLen) d.saveUsed d.place.saveVa with
    | none => none
    | some va => some (va, modDom s asid (fun d => { d with saveUsed := tabSet va n d.saveUsed }))

/-- Give back the range of a domain's save pool that begins at an address. -/
def savePoolFree (s : State) (asid va : Nat) : State :=
  modDom s asid (fun d => { d with saveUsed := tabDel va d.saveUsed })

/-- Length of a seal block (R154). -/
def sealLen : Nat := 34112

/-- The lowest free seal block of a domain: its address, and the state that has taken it. -/
def sealTake (s : State) (asid : Nat) : Option (Nat × State) :=
  match domOf s asid with
  | none => none
  | some d =>
    match (upTo d.place.sealCount).find? (fun i => !d.sealUsed.contains (d.place.sealVa + sealLen * i)) with
    | none => none
    | some i =>
      let va := d.place.sealVa + sealLen * i
      some (va, modDom s asid (fun d => { d with sealUsed := va :: d.sealUsed }))

/-- Return a seal block to its domain's pool. -/
def sealFree (s : State) (asid va : Nat) : State :=
  modDom s asid (fun d => { d with sealUsed := d.sealUsed.filter (· != va) })

/-! ### The log -/

/-- The control block of a domain's spoil log (R186). -/
structure LogCtl where
  nextSeq : Nat
  headSeq : Nat
  curBench : Nat
  oldBench : Nat
  policy : Nat
  state : Nat
  log2 : Nat
  histEnd : Nat
  stopList : Nat
  nextSlot : Nat
  headSlot : Nat
  deriving DecidableEq, Repr

/-- Sequence numbers are 34 bits wide and wrap (R186). -/
def seqMod : Nat := 2 ^ 34

/-- Virtual address of a domain's log (R186). -/
def logVa (s : State) (asid : Nat) : Nat := match domOf s asid with | some d => d.place.logVa | none => 0

/-- Read the control block. -/
def readLog (s : State) (asid : Nat) : LogCtl :=
  let b := match vread s asid (logVa s asid) 64 with | some (b, _) => b | none => []
  { nextSeq := recField b 0 8 % seqMod, headSeq := recField b 8 8 % seqMod, curBench := recField b 16 4,
    oldBench := recField b 20 4, policy := recField b 24 1, state := recField b 25 1, log2 := recField b 26 1,
    histEnd := recField b 32 8 % seqMod, stopList := recField b 40 8, nextSlot := recField b 48 8,
    headSlot := recField b 56 8 }

/-- Write the control block; bytes 27 to 31 are zero. -/
def writeLog (s : State) (asid : Nat) (c : LogCtl) : State :=
  vwrite s asid (logVa s asid)
    (leBytes 8 c.nextSeq ++ leBytes 8 c.headSeq ++ leBytes 4 c.curBench ++ leBytes 4 c.oldBench ++ leBytes 1 c.policy
      ++ leBytes 1 c.state ++ leBytes 1 c.log2 ++ leBytes 5 0 ++ leBytes 8 c.histEnd ++ leBytes 8 c.stopList
      ++ leBytes 8 c.nextSlot ++ leBytes 8 c.headSlot)

/-- Entry slots of a log (R186). -/
def logCap (c : LogCtl) : Nat := max (2 ^ (c.log2 - 6) - 64) 1
/-- Entries retained. -/
def logUsed (c : LogCtl) : Nat := (c.nextSeq + seqMod - c.headSeq) % seqMod
/-- SlotOf (R186). -/
def slotOf (c : LogCtl) (q : Nat) : Nat := (c.headSlot + (q + seqMod - c.headSeq) % seqMod) % logCap c
/-- Virtual address of the entry slot i. -/
def entryVa (s : State) (asid i : Nat) : Nat := logVa s asid + 4096 + 64 * i

/-- Kinds of a spoil entry (R187). -/
def kStore : Nat := 1
/-- See `kStore`. -/
def kAtomic : Nat := 2
/-- See `kStore`. -/
def kEngine : Nat := 3
/-- See `kStore`. -/
def kBench : Nat := 4
/-- See `kStore`. -/
def kAdit : Nat := 5
/-- See `kStore`. -/
def kAcq : Nat := 6
/-- See `kStore`. -/
def kIrrevocable : Nat := 7

/-- A spoil entry (R187). -/
structure Entry where
  va : Nat
  kind : Nat
  tag : Nat
  len : Nat
  seq : Nat
  body : List Byte
  /-- Poison of the body's bytes, by the entry's granules. -/
  poi : List Bool := []
  deriving DecidableEq, Repr

/-- The poison of each of `n` bytes of a domain's memory. -/
def poiFlags (s : State) (asid va n : Nat) : List Bool :=
  (chunksOf va n).flatMap (fun c => match walk s asid c.1 with
    | .leaf l _ _ => (upTo c.2).map (fun i => tabGet false ((l.base + c.1 % l.size + i) / 16) s.mem.poison)
    | _ => List.replicate c.2 false)

/-- The entry with sequence number q. -/
def readEntry (s : State) (asid : Nat) (c : LogCtl) (q : Nat) : Entry :=
  let va := entryVa s asid (slotOf c q)
  let b := match vread s asid va 64 with | some (b, _) => b | none => []
  let w0 := recField b 0 8
  let w1 := recField b 8 8
  { va := w0 % 2 ^ 57, kind := natBits w0 57 7, tag := natBits w1 0 24, len := natBits w1 24 6, seq := natBits w1 30 34,
    body := b.drop 16, poi := (poiFlags s asid va 64).drop 16 }

/-- An entry to append, its sequence number not yet given. `poi` says which of its 48 body bytes are poisoned. -/
structure NewEntry where
  kind : Nat
  va : Nat
  tag : Nat
  len : Nat
  body : List Byte
  poi : List Bool := []
  deriving DecidableEq, Repr

/-- The 64 bytes of a new entry, the body padded with zeros. -/
def entryBytes (e : NewEntry) (q : Nat) : List Byte :=
  leBytes 8 (e.va % 2 ^ 57 + 2 ^ 57 * e.kind) ++ leBytes 8 (e.tag % 2 ^ 24 + 2 ^ 24 * e.len + 2 ^ 30 * q)
    ++ (e.body ++ List.replicate (48 - e.body.length) 0)

/-- A write set for bytes at a virtual address with their poison, through the log owner's tables. -/
def vwritePoi (s : State) (asid va : Nat) (bs : List Byte) (poi : List Bool) : State :=
  match vwriteSet s asid va bs false with
  | none => s
  | some runs =>
    let ws := (runs.foldl (fun acc r =>
      (r.2.zip (upTo r.2.length)).foldl (fun a b =>
        let ix := acc.2 + b.2
        tabSet (r.1 + b.2) (b.1, (poi[ix]?).getD false) a) acc.1 |> fun a => (a, acc.2 + r.2.length))
      (([] : SMap (Byte × Bool)), 0)).1
    let s1 := claimRuns s asid runs
    { s1 with mem := physStore s1.mem ws }

/-- Append one entry to a log with room (R190): the state and the entry's sequence number. -/
def appendEntry (s : State) (asid : Nat) (e : NewEntry) : State × Nat :=
  let c := readLog s asid
  let va := entryVa s asid c.nextSlot
  let s1 := vwritePoi s asid va (entryBytes e c.nextSeq) (List.replicate 16 false ++ e.poi)
  let c' := { c with nextSeq := (c.nextSeq + 1) % seqMod, nextSlot := (c.nextSlot + 1) % logCap c }
  (writeLog s1 asid c', c.nextSeq)

/-- Every task of the part, resident or saved (a saved task's frames stay where they are, R162). -/
def allTasks (s : State) : List Task := s.tasks.map (·.2) ++ s.hub.saved.map (fun e => e.2.task)

/-- The ADIT markers of LOGGED activations on any stack that lie in a domain's log (R192); that of a memory window stays while
the activation's cleanup runs. -/
def logMarkers (s : State) (asid : Nat) : List Nat :=
  (allTasks s).foldl (fun acc t =>
    (upTo t.depth).foldl (fun acc i =>
      let k := i + 1
      let f := readFrame s t k
      if f.logged then
        let a1 := if domAtDepth s t k = asid then f.markC :: acc else acc
        let open_ := f.wv && natBit f.mwPerm 1 && domAtDepth s t f.wdep = asid
        if open_ || (k = t.depth && t.abort.bind (·.markDom) = some asid) then f.markW :: a1 else a1
      else acc) acc) []

/-- The first BENCH entry at or after distance `i` from the head, within `n` entries: its distance and number. -/
def findBench (s : State) (asid : Nat) (c : LogCtl) : Nat → Nat → Option (Nat × Nat)
  | 0, _ => none
  | n + 1, i =>
    let e := readEntry s asid c ((c.headSeq + i) % seqMod)
    if e.kind = kBench then some (i, recField e.body 0 4) else findBench s asid c n (i + 1)

/-- Distance from the head of the BENCH entry of bench n, when it is retained. -/
def benchDist (s : State) (asid : Nat) (c : LogCtl) (n : Nat) : Nat → Nat → Option Nat
  | 0, _ => none
  | fuel + 1, i =>
    match findBench s asid c (logUsed c - i) i with
    | none => none
    | some (j, b) => if b = n then some j else benchDist s asid c n fuel (j + 1)

/-- Free the snapshot lists, and the save areas they name, of the BENCH entries within `n` entries from distance `i`
(R196, R203). -/
def freeSnapshots (s : State) (asid : Nat) (c : LogCtl) : Nat → Nat → State
  | 0, _ => s
  | n + 1, i =>
    let e := readEntry s asid c ((c.headSeq + i) % seqMod)
    let s1 :=
      if e.kind = kBench then
        let list := recField e.body 8 8
        if list = 0 then s
        else
          let nt := vreadNat s asid (list + 4) 4
          let s2 := (upTo nt).foldl (fun a j => savePoolFree a asid (vreadNat s asid (list + 24 + 16 * j) 8)) s
          savePoolFree s2 asid list
      else s
    freeSnapshots s1 asid c n (i + 1)

/-- RELEASE n (R203), as far as R192 lets it: entries before the BENCH entry of bench n, or before the oldest ADIT
marker on a stack, are discarded. None where n is not among the retained benches above OLDBENCH. -/
def releaseBench (s : State) (asid n : Nat) : Option State :=
  let c := readLog s asid
  if n ≤ c.oldBench || c.curBench < n then none
  else
    match benchDist s asid c n (logUsed c + 1) 0 with
    | none => none
    | some d =>
      let dist := (logMarkers s asid).foldl (fun a m => min a ((m + seqMod - c.headSeq) % seqMod)) d
      let s1 := freeSnapshots s asid c dist 0
      let c1 := { c with headSeq := (c.headSeq + dist) % seqMod, headSlot := (c.headSlot + dist) % logCap c }
      let old := match findBench s1 asid c1 (logUsed c1) 0 with | some (_, b) => b | none => c.curBench
      some (modDom (writeLog s1 asid { c1 with oldBench := old }) asid (fun dm => { dm with
        -- Released entries are never read again, by a replay neither.
        replayFrom := if c.state = 2 && (dm.replayFrom + seqMod - c.headSeq) % seqMod < dist then c1.headSeq else dm.replayFrom }))

/-- Room for `n` more entries. -/
def logRoom (s : State) (asid n : Nat) : Bool :=
  let c := readLog s asid
  decide (logUsed c + n ≤ logCap c)

/-- RECYCLE the oldest benches until there is room, as long as a release frees entries (R191). -/
def recycle (s : State) (asid n : Nat) : Nat → State
  | 0 => s
  | fuel + 1 =>
    if logRoom s asid n then s
    else
      let c := readLog s asid
      if c.oldBench = c.curBench then s
      else match releaseBench s asid (c.oldBench + 1) with
        | none => s
        | some s1 => if (readLog s1 asid).headSeq = c.headSeq then s1 else recycle s1 asid n fuel

/-- What an append of `n` entries meets (R190, R191, R182). -/
inductive LogRoom where
  /-- There is room (RECYCLE may have made it), or the domain replays and nothing is appended. -/
  | ok (s : State)
  /-- STALL: the writer is held. -/
  | stall
  /-- TRAP, or a RECYCLE that could release nothing: the domain stops. The notice's code. -/
  | stop (s : State) (code : Nat)
  /-- The page holding the next write position is not a valid, writable PIN page (R182). -/
  | pinned (va : Nat)

/-- In STATE REPLAY nothing is appended (R201). -/
def replaying (s : State) (asid : Nat) : Bool := (readLog s asid).state == 2

/-- Find room for `n` entries in a domain's log before a write (R190, R191). A log that has stopped its domain takes nothing
until a debugger resumes the domain. -/
def logReserve (s : State) (asid n : Nat) : LogRoom :=
  if n = 0 || replaying s asid then .ok s
  else if (readLog s asid).state = 1 then .stall
  else
    let c := readLog s asid
    match pinnedFault s asid (entryVa s asid c.nextSlot) 64 with
    | some va => .pinned va
    | none =>
      if logRoom s asid n then .ok s
      else if c.policy = 2 then .stall
      else
        let s1 := if c.policy = 1 then recycle s asid n (c.curBench - c.oldBench + 1) else s
        if logRoom s1 asid n then .ok s1
        else .stop (writeLog s1 asid { readLog s1 asid with state := 1 }) (if c.policy = 1 then 2 else 1)

/-- A domain stops because its log is full: its tasks stop issuing, a LOG_FULL notice is written and the debug
function reports the stop (R191, R215). -/
def logStop (s : State) (asid code : Nat) (gtid : Word) (va : Nat) (pc : Word) : State :=
  let c := readLog s asid
  let s1 := notify s { kind := 5, code := code, asid := asid, gtid := gtid, addr := va, pc := pc, rolled := c.curBench }
  domainStop (modDom s1 asid (fun d => { d with logStopped := true })) asid gtid

/-- Append entries for which there is room; nothing in REPLAY. The sequence number of the last. -/
def logAppend (s : State) (asid : Nat) (es : List NewEntry) : State × Nat :=
  if replaying s asid then (s, 0)
  else es.foldl (fun a e => appendEntry a.1 asid e) (s, 0)

/-- Split a run of `n` written bytes from `va` into runs that cross no 128-byte line and hold at most 48 bytes
(R189). -/
def splitRuns : Nat → Nat → Nat → List (Nat × Nat)
  | 0, _, _ => []
  | fuel + 1, va, n =>
    if n = 0 then []
    else
      let k := min n (min 48 (128 - va % 128))
      (va, k) :: splitRuns fuel (va + k) (n - k)

/-- Maximal runs of contiguous addresses in a rising list. -/
def contigRuns : List Nat → List (Nat × Nat)
  | [] => []
  | a :: t =>
    match contigRuns t with
    | (b, n) :: rest => if b = a + 1 then (a, n + 1) :: rest else (a, 1) :: (b, n) :: rest
    | [] => [(a, 1)]

/-- The runs of a logged write to a rising list of virtual byte addresses (R189). -/
def logRuns (vas : List Nat) : List (Nat × Nat) :=
  (contigRuns vas).foldr (fun r acc => splitRuns (r.2 + 1) r.1 r.2 ++ acc) []

/-- A STORE or ENGINE entry for a run: the old bytes at its physical place (R188). -/
def runEntry (s : State) (kind tag : Nat) (va pa n : Nat) : NewEntry :=
  { kind := kind, va := va, tag := tag, len := n, body := physRead s.mem pa n,
    poi := (upTo n).map (fun i => tabGet false ((pa + i) / 16) s.mem.poison) }

/-- An ATOMIC entry (R188). -/
def atomicEntry (s : State) (tag : Nat) (va pa n : Nat) (gtid : Word) (icount : Nat) : NewEntry :=
  { kind := kAtomic, va := va, tag := tag, len := n,
    body := physRead s.mem pa n ++ List.replicate (16 - n) 0 ++ leBytes 8 gtid.toNat ++ leBytes 8 icount,
    poi := (upTo n).map (fun i => tabGet false ((pa + i) / 16) s.mem.poison) }

/-- An ACQ entry (R188). -/
def acqEntry (tag : Nat) (obj : Nat) (gtid : Word) (icount op gen : Nat) : NewEntry :=
  { kind := kAcq, va := obj, tag := tag, len := 0,
    body := leBytes 8 gtid.toNat ++ leBytes 8 icount ++ leBytes 4 op ++ leBytes 4 gen }

/-- An IRREVOCABLE entry (R188). -/
def irrevocableEntry (tag : Nat) (va : Nat) (gtid : Word) (icount sub detail : Nat) : NewEntry :=
  { kind := kIrrevocable, va := va, tag := tag, len := 0,
    body := leBytes 8 gtid.toNat ++ leBytes 8 icount ++ leBytes 8 sub ++ leBytes 8 detail }

/-- An ADIT marker (R188). -/
def aditEntry (tag : Nat) (entry : Nat) (gtid : Word) (depth adit : Nat) : NewEntry :=
  { kind := kAdit, va := entry, tag := tag, len := 0,
    body := leBytes 8 gtid.toNat ++ leBytes 1 depth ++ leBytes 1 0 ++ leBytes 2 adit }

/-- A BENCH entry (R188). -/
def benchEntry (tag : Nat) (n ntask list : Nat) (gtid : Word) (icount : Nat) : NewEntry :=
  { kind := kBench, va := 0, tag := tag, len := 0,
    body := leBytes 4 n ++ leBytes 4 ntask ++ leBytes 8 list ++ leBytes 8 gtid.toNat ++ leBytes 8 icount }

/-- Whether an entry restores bytes: STORE, ATOMIC and ENGINE do. -/
def restores (e : Entry) : Bool := e.kind == kStore || e.kind == kAtomic || e.kind == kEngine

/-- An address range translates writable and is no SYS page, in the log owner's tables as they stand (R163, R199). -/
def restorable (s : State) (asid va n : Nat) : Bool :=
  (chunksOf va n).all (fun c => match walk s asid c.1 with
    | .leaf l _ _ => l.w && !l.sys
    | _ => false)

/-- Write an entry's old bytes back, unlogged, those of a poisoned granule poisoned (R188). -/
def restoreEntry (s : State) (asid : Nat) (e : Entry) : State :=
  vwritePoi s asid e.va (e.body.take e.len) (e.poi.take e.len)

/-- RollBack (R163, R197): newest first from distance `n`, entries at or above the marker whose tag is selected; the
numbers applied and passed over. -/
def rollFrom (asid : Nat) (tags : List Nat) (c : LogCtl) (lo : Nat) : Nat → State × Nat × Nat → State × Nat × Nat
  | 0, a => a
  | n + 1, (s, done, skipped) =>
    if n < lo then (s, done, skipped)
    else
      let e := readEntry s asid c ((c.headSeq + n) % seqMod)
      let r :=
        if restores e && tags.contains e.tag then
          if restorable s asid e.va e.len then (restoreEntry s asid e, done + 1, skipped) else (s, done, skipped + 1)
        else (s, done, skipped)
      rollFrom asid tags c lo n r

/-- RollBack of a domain's log down to a marker, for the given writer tags. -/
def rollBack (s : State) (asid marker : Nat) (tags : List Nat) : State × Nat × Nat :=
  let c := readLog s asid
  rollFrom asid tags c ((marker + seqMod - c.headSeq) % seqMod) (logUsed c) (s, 0, 0)

/-- The control block, its reserved bytes zero, and bench 0 of a new domain (R186, R193). -/
def initLog (s : State) (asid log2 policy : Nat) : State :=
  let c : LogCtl :=
    { nextSeq := 0, headSeq := 0, curBench := 0, oldBench := 0, policy := policy, state := 0, log2 := log2,
      histEnd := 0, stopList := 0, nextSlot := 0, headSlot := 0 }
  let s1 := vzero (writeLog s asid c) asid (logVa s asid + 64) 4032
  (appendEntry s1 asid (benchEntry 0 0 0 0 0 0)).1

end Sys2Proof.Machine
end

