-- ==== Sys2Proof/Machine/Umbra.lean ====
section
/-!
DEFINITION. Umbra (R204 to R214): a line's metadata, the check of an access, race records and the race ring; and the
sync objects it depends on (R315 to R321): an object's fields in memory, its releases, and the region table (R207).
-/

namespace Sys2Proof.Machine

/-- The value of a trap cause (R169). -/
def Cause.value : Cause → Nat
  | .illegalInstr => 0x01 | .fetchParity => 0x02 | .control => 0x03 | .fetchFault => 0x04 | .dataFault => 0x05
  | .align => 0x06 | .perm => 0x07 | .poisonConsumed => 0x08 | .raceRw => 0x09 | .raceWw => 0x0A | .raceMode => 0x0B
  | .raceScope => 0x0C | .raceEngine => 0x0D | .unacquired => 0x0E | .atomicOnly => 0x0F | .syncLateArrival => 0x10
  | .acqTableFull => 0x11 | .gateState => 0x12 | .atomicUnsupported => 0x13 | .breakpoint => 0x14 | .software => 0x15

/-- The rank of a trap cause (R169); DATA_FAULT is never ranked. -/
def Cause.rank : Cause → Nat
  | .fetchFault => 0 | .fetchParity => 1 | .control => 2 | .illegalInstr => 3 | .poisonConsumed => 4 | .align => 5
  | .perm | .atomicUnsupported => 6 | .unacquired | .atomicOnly => 7
  | .raceRw | .raceWw | .raceMode | .raceScope | .raceEngine => 8
  | .syncLateArrival | .acqTableFull | .gateState => 9 | .breakpoint | .software => 10 | .dataFault => 11

/-! ### Metadata (R204) -/

/-- A line's metadata: STATE (0 CLEAN, 1 WRITTEN, 2 ENGINE_PENDING), SCOPE, GEN, TAG. -/
structure Meta where
  state : Nat
  scope : Nat
  gen : Nat
  tag : Nat
  deriving DecidableEq, Repr

/-- Where the carve-out holds the metadata of the physical line holding `pa` (R205); none outside every checked pool. -/
def metaAddr (m : Memory) (pa : Nat) : Option Nat :=
  (m.pools.find? (fun p => decide (p.1 ≤ pa) && decide (pa < p.1 + p.2.1))).map
    (fun p => p.2.2 + (pa / 128 * 128 - p.1) / 16)

/-- The metadata of the physical line holding `pa`: what travels with the line, or else what the carve-out holds (R99,
R205). -/
def readMeta (m : Memory) (pa : Nat) : Meta :=
  let v := match tabFind (pa / 128) m.umbra, metaAddr m pa with
    | some w, _ => w.toNat
    | none, some a => physNat m a 8
    | none, none => 0
  { state := natBits v 59 3, scope := natBits v 56 3, gen := natBits v 24 32, tag := natBits v 0 24 }

/-- Write a line's metadata; the reserved bits are zero (R204). It travels with the line, and reaches the carve-out when the
line leaves L2 (`metaHome`). -/
def writeMeta (m : Memory) (pa : Nat) (x : Meta) : Memory :=
  let v := x.tag % 2 ^ 24 + 2 ^ 24 * (x.gen % 2 ^ 32) + 2 ^ 56 * (x.scope % 8) + 2 ^ 59 * (x.state % 8)
  if (metaAddr m pa).isSome then { m with umbra := tabSet (pa / 128) (BitVec.ofNat 64 v) m.umbra } else m

/-- A line leaves L2: its metadata is written to the carve-out (R99, R205). -/
def metaHome (m : Memory) (line : Nat) : Memory :=
  match tabFind line m.umbra, metaAddr m (128 * line) with
  | some w, some a => physWrite { m with umbra := tabDel line m.umbra } a (leBytes 8 w.toNat) false
  | _, _ => { m with umbra := tabDel line m.umbra }

/-- A line with metadata zero: CLEAN. -/
def cleanMeta : Meta := { state := 0, scope := 0, gen := 0, tag := 0 }

/-! ### Writer tags (R206) -/

/-- A task's tag from its first admission. -/
def taskTag (core slot adm : Nat) : BitVec 24 := BitVec.ofNat 24 (adm % 256 + 256 * slot + 4096 * core)
/-- An engine job's tag. -/
def engineTag (cluster : Nat) (copy : Bool) (id : Nat) : Nat :=
  id % 2 ^ 14 + 2 ^ 14 * boolNat copy + 2 ^ 15 * cluster + 2 ^ 23
/-- The debug function's tag. -/
def debugTag : Nat := 0x7FFFFF

/-- NarrowestScope (R208): of an accessor on a core and a writer's tag; 1 same core, 2 same cluster, 3 same die. -/
def narrowestScope (core tag : Nat) : Nat :=
  let wcluster := if natBit tag 23 then natBits tag 15 8 else natBits tag 12 11 / 8
  if !natBit tag 23 && natBits tag 12 11 == core then 1
  else if wcluster == coreCluster core then 2
  else if wcluster / 40 == coreDie core then 3
  else 4

/-! ### The region table (R207) -/

/-- A VALID region entry: its object and its scope. -/
def region (s : State) (asid id : Nat) : Option (Nat × Nat) :=
  match domOf s asid with
  | none => none
  | some d =>
    let e := d.place.regionPa + 16 * id
    let b := physNat s.mem (e + 8) 1
    if natBit b 7 then some (physNat s.mem e 8 / 32 * 32 % 2 ^ 57, b % 8) else none

/-- The narrowest scope of a domain's VALID entries that name an object (R317). -/
def regionLimit (s : State) (asid obj : Nat) : Nat :=
  (upTo 4096).foldl (fun a i => match region s asid i with
    | some (o, sc) => if o = obj then min a sc else a
    | none => a) 5

/-! ### The check (R208) -/

/-- UmbraMode of a domain: 0 FAULT, 1 REPORT, 2 OFF (R211). -/
def umbraMode (s : State) (asid : Nat) : Nat :=
  match domOf s asid with | some d => natBits d.flags.toNat 3 2 | none => 2

/-- What the check knows of an access to one line. -/
structure UmbraAcc where
  reads : Bool
  writes : Bool
  /-- A load, store, `mld` or `mst`: ATOMIC_ONLY on an ATOMIC page. -/
  plain : Bool
  tag : Nat
  core : Nat
  entry : Option AcqEntry
  /-- The accessor is an engine job: OwnJob holds for its own tag. -/
  engine : Bool
  deriving DecidableEq, Repr

/-- UmbraCheck of one line, mode aside: the cause and whether the failing check was the write, or a pass. -/
def umbraCause (a : UmbraAcc) (cls : PageClass) (m : Meta) : Option (Cause × Bool) :=
  let pending := m.state == 2 && !(a.engine && m.tag == a.tag)
  match cls with
  | .loose => none
  | .atomic =>
    if a.plain then some (.atomicOnly, a.writes)
    else if pending then some (.raceEngine, !a.reads)
    else none
  | .bound =>
    match a.entry with
    | none => some (.unacquired, !a.reads)
    | some e =>
      if pending then some (.raceEngine, !a.reads)
      else
        let other := m.state == 1 && m.tag != a.tag
        let n := if a.engine then max 2 (narrowestScope a.core m.tag) else narrowestScope a.core m.tag
        if other && (decide (e.scope < n) || decide (m.scope < n)) then some (.raceScope, !a.reads)
        else if a.reads && other && decide (e.gen ≤ m.gen) then some (.raceRw, false)
        else if a.writes && (e.mode == 2 || e.mode == 4) then some (.raceMode, true)
        else if a.writes && other && decide (e.gen ≤ m.gen) then some (.raceWw, true)
        else none

/-- The metadata a write leaves on a BOUND line (R208). -/
def umbraAfter (a : UmbraAcc) : Meta :=
  match a.entry with
  | some e => { state := 1, scope := e.scope, gen := e.gen, tag := a.tag }
  | none => { state := 1, scope := 0, gen := 0, tag := a.tag }

/-- Update the line's metadata for a write, on a BOUND page, unless the mode is OFF (R208, R211). -/
def umbraWrite (s : State) (asid : Nat) (a : UmbraAcc) (cls : PageClass) (pa : Nat) : State :=
  if cls = .bound && a.writes && umbraMode s asid != 2 then
    { s with mem := writeMeta s.mem pa (umbraAfter a) }
  else s

/-! ### Race records (R212, R213) -/

/-- What a race record says beside the line and the entry (R212). -/
structure RaceInfo where
  gtid : Word
  pc : Word
  engine : Bool
  window : Bool
  depth : Nat
  width : Nat
  addr : Nat
  sync : Nat
  icount : Nat
  deriving DecidableEq, Repr

/-- The 64 bytes of a race record, as one value; zero for a cause that is not a race (R212). -/
def raceRecord (r : RaceInfo) (a : UmbraAcc) (m : Meta) (c : Cause) (write : Bool) : BitVec 512 :=
  if c.value < 0x09 || 0x0E < c.value then 0
  else
    let g := match a.entry with | some e => e.gen | none => 0
    let sc := match a.entry with | some e => e.scope | none => 0
    let mo := match a.entry with | some e => e.mode | none => 0
    BitVec.ofNat 512 (r.gtid.toNat + 2 ^ 64 * r.pc.toNat + 2 ^ 128 * c.value
      + 2 ^ 136 * (boolNat write + 2 * boolNat r.engine + 4 * boolNat r.window + 16 * r.depth)
      + 2 ^ 144 * (r.width % 2 ^ 16) + 2 ^ 192 * (r.addr % 2 ^ 57) + 2 ^ 256 * m.tag
      + 2 ^ 280 * (m.state + 16 * m.scope) + 2 ^ 288 * m.gen + 2 ^ 320 * (g % 2 ^ 32)
      + 2 ^ 352 * (sc + 16 * mo) + 2 ^ 360 * (a.tag % 2 ^ 24) + 2 ^ 384 * (r.sync % 2 ^ 64)
      + 2 ^ 448 * (r.icount % 2 ^ 64))

/-- Append a record of `n` bytes to a ring with the header of R213 at `ring`, when there is room and its pages are
mapped PIN; none where it is dropped. -/
def ringAppend (s : State) (asid ring n : Nat) (rec_ : Nat) : Option State :=
  match vread s asid ring 64 with
  | none => none
  | some (h, _) =>
    let cap := 2 ^ recField h 0 4
    let prod := recField h 8 8
    let cons := recField h 16 8
    let va := ring + 64 + n * (prod % cap)
    if (prod + 2 ^ 64 - cons) % 2 ^ 64 < cap && (pinnedFault s asid va n).isNone
        && (pinnedFault s asid ring 64).isNone then
      let s1 := vwrite s asid va (leBytes n rec_)
      some (vwrite s1 asid (ring + 8) (leBytes 8 (prod + 1)))
    else none

/-- Write a race record to a domain's race ring, or count it dropped (R213). -/
def raceReport (s : State) (asid : Nat) (rec_ : BitVec 512) : State :=
  if rec_ = 0 then s
  else match domOf s asid with
    | none => s
    | some d =>
      match ringAppend s asid d.place.raceVa 64 rec_.toNat with
      | some s' => s'
      | none => modDom s asid (fun d => { d with raceDrops := d.raceDrops + 1 })

/-! ### Sync objects (R315) -/

/-- The fields of a sync object. -/
structure SyncObj where
  gen : Nat
  kind : Nat
  excl : Bool
  xwait : Bool
  holders : Nat
  expect : Nat
  arrived : Nat
  xtag : Nat
  deriving DecidableEq, Repr

/-- The object at a physical address. -/
def readObj (m : Memory) (pa : Nat) : SyncObj :=
  let k := physNat m (pa + 4) 4
  { gen := physNat m pa 4, kind := k % 4, excl := natBit k 2, xwait := natBit k 3, holders := natBits k 8 24,
    expect := physNat m (pa + 8) 4, arrived := physNat m (pa + 12) 4, xtag := physNat m (pa + 16) 3 }

/-- Write the object: 32 bytes in one step, each granule's poison as it was (R107). -/
def writeObj (m : Memory) (pa : Nat) (o : SyncObj) : Memory :=
  let low := leBytes 4 o.gen
    ++ leBytes 4 (o.kind + 4 * boolNat o.excl + 8 * boolNat o.xwait + 256 * (o.holders % 2 ^ 24))
    ++ leBytes 4 o.expect ++ leBytes 4 o.arrived
  physWrite (physWrite m pa low (poisonAt m.poison pa 16)) (pa + 16) (leBytes 8 o.xtag ++ leBytes 8 0)
    (poisonAt m.poison (pa + 16) 16)

/-- The page rules of a sync object (R315): LOOSE or ATOMIC, not SYS. -/
def objPage (l : Leaf) : Bool := l.cls != .bound && !l.sys && !l.sealed

/-- One pass of an acquire (R317): the object after the pass and whether it is granted. `mode` 1 ex, 2 sh, 3 pr, 4 wt. -/
def acquirePass (o : SyncObj) (mode k tag : Nat) : SyncObj × Bool :=
  if mode = 1 then
    if o.holders = 0 then ({ o with excl := true, holders := 1, xtag := tag, xwait := false }, true)
    else ({ o with xwait := true }, false)
  else if mode = 2 then
    if !o.excl && (!o.xwait || o.holders == 0) then ({ o with holders := o.holders + 1 }, true) else (o, false)
  else if mode = 3 then (o, true)
  else (o, decide ((o.gen + 2 ^ 32 - k % 2 ^ 32) % 2 ^ 32 < 2 ^ 31))

/-- The kind an acquire mode needs (R315): LOCK for ex and sh, PHASE for pr and wt. -/
def modeKind (mode : Nat) : Nat := if mode ≤ 2 then 1 else 2

/-- An arrival (R319): none when the object is past the entry's generation. -/
def arrive (o : SyncObj) (gen : Nat) : Option SyncObj :=
  if o.gen ≠ gen then none
  else if o.expect ≤ o.arrived + 1 then some { o with gen := (o.gen + 1) % 2 ^ 32, arrived := 0 }
  else some { o with arrived := o.arrived + 1 }

/-- What a release of an entry does to the object (R318); a late arrival is none. -/
def releaseObj (o : SyncObj) (mode gen tag : Nat) : Option SyncObj :=
  if mode = 1 then
    some (if o.excl && o.xtag == tag then
      { o with gen := (o.gen + 1) % 2 ^ 32, excl := false, holders := 0, xtag := 0 } else o)
  else if mode = 2 then some (if !o.excl && decide (0 < o.holders) then { o with holders := o.holders - 1 } else o)
  else if mode = 3 then arrive o gen
  else some o

/-- Where an entry's object lies: in the domain of the depth at which it was made, or, at an aperture address, in the
memory window of that depth (R155, R156). After a cleanup, whose frame names no window, the abort knows the window's depth. -/
def entryPlace (s : State) (t : Task) (e : AcqEntry) : Nat × Nat :=
  if apertureBase ≤ e.obj then
    let f := readFrame s t e.depth
    let w := if e.depth = t.depth then (t.abort.bind (·.winDepth)).getD f.wdep else f.wdep
    (domAtDepth s t w, f.mwBase + (e.obj - apertureBase))
  else (domAtDepth s t e.depth, e.obj)

/-! ### Replay (R201) -/

/-- The recorded entries of a replaying domain's history that are still to be performed, with their sequence numbers. -/
def historyLeft (s : State) (asid : Nat) : List (Nat × Entry) :=
  match domOf s asid with
  | none => []
  | some d =>
    let c := readLog s asid
    let n := (c.histEnd + seqMod - d.replayFrom) % seqMod
    ((upTo n).map (fun i => (d.replayFrom + i) % seqMod)).filterMap (fun q =>
      if d.replayDone.contains q then none else some (q, readEntry s asid c q))

/-- The GTID and instruction count an ATOMIC or ACQ entry records. -/
def entryIssuer (e : Entry) : Nat × Nat :=
  if e.kind = kAtomic then (recField e.body 16 8, recField e.body 24 8) else (recField e.body 0 8, recField e.body 8 8)

/-- Whether an operation's turn has come in a replay, among the recorded operations `same` picks: the entries it
performs, or none when it must wait. Outside a replay every turn has come. -/
def turnOf (s : State) (asid : Nat) (gtid : Word) (icount : Nat) (same : Entry → Bool) : Option (List Nat) :=
  if !replaying s asid then some []
  else
    let left := (historyLeft s asid).filter (fun e => same e.2)
    let mine := left.filter (fun e => entryIssuer e.2 == (gtid.toNat, icount))
    match left.head? with
    | none => some []
    | some e => if mine.contains e then some (mine.map (·.1)) else none

/-- Note recorded entries as performed. -/
def doneEntries (s : State) (asid : Nat) (qs : List Nat) : State :=
  if qs.isEmpty then s else modDom s asid (fun d => { d with replayDone := d.replayDone ++ qs })

/-! ### Entries that are dropped (R321) -/

/-- The release of an entry by the hub as the umbra check sees it (R208, R299). -/
def dropAcc (t : Task) : UmbraAcc :=
  { reads := true, writes := true, plain := false, tag := t.wtag.toNat, core := 0, entry := none, engine := false }

/-- What an entry removed by Unwind or by an abandonment does to its object, as `rel` would (R321): where it lies, its leaf, and
the object after it. Where `rel` would raise a cause the object is unchanged: that of its page, of its KIND, of a late arrival,
or, in mode FAULT, of the umbra check. -/
def dropEffect (s : State) (t : Task) (e : AcqEntry) : Option (Nat × Leaf × SyncObj) :=
  let w := entryPlace s t e
  match xlatHub s w.1 w.2 .rmw false with
  | .ok pa l =>
    let o := readObj s.mem pa
    if objPage l && o.kind == modeKind e.mode && !(umbraMode s w.1 == 0 && (umbraCause (dropAcc t) l.cls (readMeta s.mem pa)).isSome)
    then (releaseObj o e.mode e.gen t.wtag.toNat).map (fun o => (pa, l, o))
    else none
  | _ => none

/-- The record a release writes in mode REPORT, like that of `rel` (R211, R212). -/
def dropReport (s : State) (t : Task) (e : AcqEntry) (pa : Nat) (l : Leaf) : State :=
  let w := entryPlace s t e
  let m := readMeta s.mem pa
  match umbraMode s w.1, umbraCause (dropAcc t) l.cls m with
  | 1, some (c, wr) =>
    let info : RaceInfo :=
      { gtid := t.id.gtid, pc := t.pc, engine := false, window := decide (apertureBase ≤ e.obj), depth := e.depth, width := 32
        addr := e.obj, sync := (match region s w.1 l.region with | some (o, _) => o | none => 0), icount := t.icount }
    raceReport s w.1 (raceRecord info (dropAcc t) m c wr)
  | _, _ => s

/-- An entry's change of its object, and its ACQ entry where the page is logged and `append` says so. -/
def dropEntry (t : Task) (append : Bool) (s : State) (e : AcqEntry) : State :=
  match dropEffect s t e with
  | none => s
  | some (pa, l, o) =>
    let w := entryPlace s t e
    let s := dropReport s t e pa l
    let s1 := if o = readObj s.mem pa then s else { s with mem := writeObj s.mem pa o }
    if l.log && append then (logAppend s1 w.1 [acqEntry t.wtag.toNat w.2 t.id.gtid t.icount 5 o.gen]).1 else s1

/-- Drop some entries of the task in slot `key` one after another, and whether that is done: one whose turn has not come in a
replay (R201), or that finds a full log (R191), keeps the rest waiting. Where the log's page is not pinned the object changes
and no entry is written (R182). -/
def dropList (key : Nat) : List AcqEntry → State → State × Bool
  | [], s => (s, true)
  | e :: rest, s =>
    match taskAt s key with
    | none => (s, true)
    | some t =>
      let gone := fun (s : State) => modTask s key (fun u => { u with acq := u.acq.erase e })
      match dropEffect s t e with
      | none => dropList key rest (gone s)
      | some (_, l, _) =>
        let w := entryPlace s t e
        let turn := if l.log then (turnOf s w.1 t.id.gtid t.icount (fun x => x.kind == kAcq && x.va == w.2)).map (·.take 1)
          else some []
        match turn, logReserve s w.1 (if l.log then 1 else 0) with
        | none, _ => (s, false)
        | some qs, .ok s1 => dropList key rest (gone (doneEntries (dropEntry t true s1 e) w.1 qs))
        | some _, .stall => (s, false)
        | some _, .stop s1 code => (logStop s1 w.1 code t.id.gtid 0 t.pc, false)
        | some qs, .pinned va =>
          dropList key rest (gone (doneEntries (dropEntry t false
            (notify s { kind := 1, code := 2, asid := t.asid, gtid := t.id.gtid, addr := va, pc := t.pc, depth := t.depth }) e)
            w.1 qs))

/-- Drop a task's acquire-table entries made at depth k or above (R163, R168, R321), and whether that is done: nothing
waits for earlier accesses. -/
def dropEntries (s : State) (key k : Nat) : State × Bool :=
  match taskAt s key with
  | none => (s, true)
  | some t => dropList key (t.acq.filter (fun e => decide (k ≤ e.depth))) s

end Sys2Proof.Machine
end

