-- ==== Sys2Proof/Machine/SliceLog.lean ====
section
/-!
DEFINITION. The caches (R1, R99 to R101, R300) and slice logging (R222): where a line is placed, the lines the L1s and the
L2 slices hold, the filter a session has written, as the slices apply it, and the records they make. Placement changes no
value. How a slice chooses what to evict, which of its accesses hit, and their latencies, nothing in the spec fixes (log
entries 32 and 69).
-/

namespace Sys2Proof.Machine

/-! ### Placement (R100, R101) -/

/-- A cluster, and with it its slice, is in a domain's allotment. -/
def allotted (s : State) (asid c : Nat) : Bool :=
  match domOf s asid with | some d => d.allot.contains c | none => false

/-- Ways of a set that HOME 1 lines may take, and lines of a slice that HOME 2 lines may: 6, and 1 MiB (R101). -/
def pinWays : Nat := 6
/-- See `pinWays`. -/
def pinLines : Nat := 8192
/-- Lines of a slice. R1 gives a slice 2.4 MiB, which is no whole number of 128-byte lines (19,660.8): DESIGN CHOICE, the whole
lines that fit (log entry 69). -/
def sliceLines : Nat := 19660

/-- The L1 set of core `core` that a line falls in. -/
def l1Set (core line : Nat) : Nat := core * 512 + line % 512

/-- HOME as it takes effect for a page of domain `owner` (R101): as 0 for a line beyond a pinned capacity, or naming a unit
that is quarantined or outside the domain's allotment; as 3 on a PCIe mapping, which is never cached (R34). -/
def placedHome (s : State) (owner pa : Nat) (l : Leaf) : Nat :=
  let line := pa / 128
  if isPcie pa then 3
  else if l.home = 1 then
    let room := decide (((tabGet [] (l1Set l.homeIdx line) s.cores.l1).filter
      (fun x => x.pinned && x.line != line)).length < pinWays)
    if coreLive s.hub.pkg l.homeIdx && allotted s owner (coreCluster l.homeIdx) && room then 1 else 0
  else if l.home = 2 then
    let room := decide (((tabGet [] l.homeIdx s.cores.l2).filter (fun x => x.pinned && x.line != line)).length < pinLines)
    if !s.hub.pkg.quarSlices.contains l.homeIdx && allotted s owner l.homeIdx && room then 2 else 0
  else l.home

/-- The slice that serves a line: the home slice of a line of HBM, or the one a HOME 2 page names, a UALink page too (R34,
R100, R101); none where no slice does. -/
def servingSlice (s : State) (owner pa : Nat) (l : Leaf) : Option Nat :=
  match placedHome s owner pa l with
  | 0 => if pa < hbmEnd then some (homeSlice s.hub.pkg.quarSlices pa) else none
  | 2 => some l.homeIdx
  | _ => none

/-- The core in whose L1 an access of core `core` to a line is served: its own, or the one the line is pinned to. -/
def l1Core (s : State) (core owner pa : Nat) (l : Leaf) : Option Nat :=
  match placedHome s owner pa l with
  | 1 => some l.homeIdx
  | 3 => none
  | _ => some core

/-! ### L1 (R99, R300) -/

/-- Every L1 copy of a line outside set `k`: gone, or clean and shared. -/
def l1Others (l1 : SMap (List L1Line)) (k line : Nat) (drop : Bool) : SMap (List L1Line) :=
  let one := fun (ls : List L1Line) =>
    if drop then ls.filter (fun x => x.line != line) else ls.map (fun x => if x.line = line then { x with dirty := false } else x)
  (l1.map (fun e => if e.1 % 512 = line % 512 && e.1 != k then (e.1, one e.2) else e)).filter (fun e => !e.2.isEmpty)

/-- Lines of a set once room is made for one more: the last line that is neither kept nor pinned goes, else the last that
is not pinned. -/
def l1Evict (ls : List L1Line) : List L1Line :=
  if ls.length < 12 then ls
  else match ((ls.reverse.find? (fun x => x.hint != 2 && !x.pinned)).or (ls.reverse.find? (fun x => !x.pinned))).or
      ls.getLast? with
    | some v => ls.filter (· != v)
    | none => ls

/-- Bring a line into a core's L1 with a hint of R300. A write has the one exclusive copy; a read shares it, and another
core's copy is clean from then on (R99). -/
def l1Touch (s : State) (core pa : Nat) (write : Bool) (hint : Nat) (pinned : Bool) : State :=
  let line := pa / 128
  let k := l1Set core line
  let ls := tabGet [] k s.cores.l1
  let was := ls.any (fun x => x.line == line && x.dirty)
  let new : L1Line := { line := line, dirty := was || write, hint := hint, pinned := pinned }
  let rest := l1Evict (ls.filter (fun x => x.line != line))
  { s with cores := { s.cores with
      l1 := tabPut [] k (if hint = 1 then rest ++ [new] else new :: rest) (l1Others s.cores.l1 k line write) } }

/-- An access served at the home slice or the memory controller: a write leaves no L1 a copy, a read leaves clean ones. -/
def l1Bypass (s : State) (pa : Nat) (write : Bool) : State :=
  { s with cores := { s.cores with l1 := l1Others s.cores.l1 (1280 * 512) (pa / 128) write } }

/-- A core's L1 holds the line. -/
def l1Holds (s : State) (core pa : Nat) : Bool :=
  (tabGet [] (l1Set core (pa / 128)) s.cores.l1).any (fun x => x.line == pa / 128)

/-! ### L2 (R1, R99) -/

/-- A slice brings in a line; the least recently used line that is not pinned makes room. -/
def l2Touch (s : State) (slice pa : Nat) (pinned : Bool) : State :=
  let line := pa / 128
  let rest := (tabGet [] slice s.cores.l2).filter (fun x => x.line != line)
  let room := if rest.length < sliceLines then rest
    else match rest.reverse.find? (fun x => !x.pinned) with
      | some v => rest.filter (· != v)
      | none => rest.dropLast
  { s with cores := { s.cores with l2 := tabPut [] slice ({ line := line, pinned := pinned } :: room) s.cores.l2 } }

/-- A slice of a die leaves the address hash: the supervisor has migrated the lines to where the new hash has them, those that
were pinned in it among them; a line that no slice serves any more leaves L2 (R18, R100, R101). -/
def migrateLines (s : State) (gone : Nat) : State :=
  let home := fun (x : L2Line) => homeSlice s.hub.pkg.quarSlices (128 * x.line)
  let stays := fun (k : Nat) (x : L2Line) => k != gone && (x.pinned || home x == k)
  let moved := s.cores.l2.flatMap (fun e => e.2.filter (fun x => !stays e.1 x && decide (128 * x.line < hbmEnd)))
  let kept := (s.cores.l2.map (fun e => (e.1, e.2.filter (stays e.1)))).filter (fun e => !e.2.isEmpty)
  moved.foldr (fun x a => l2Touch a (home x) (128 * x.line) false) { s with cores := { s.cores with l2 := kept } }

/-- The metadata of the lines that no cache holds any more is written to the carve-out (R99, R205): done after every step. -/
def metaSettles (s : State) : State :=
  match s.mem.umbra.filter (fun e => !onChip s e.1) with
  | [] => s
  | gone => { s with mem := gone.foldl (fun m e => metaHome m e.1) s.mem }

/-! ### The memory controller's encryption (R46) -/

/-- An access through the tables of domain `owner` reaches a line (R46). One that HBM keeps under another pair, or under none
for a confidential domain, and that no cache holds, is decrypted under the domain's pair, or not at all: its two blocks fail
their check and are poisoned (R37). From then on it is kept as the domain's (log entry 82). -/
def lineIn (s : State) (owner pa : Nat) : State :=
  let line := pa / 128
  let k := pairOf s owner
  if hbmEnd ≤ pa || tabFind line s.mem.keys = k then s
  else
    takeLine (if foreign s k line then crcMismatch (crcMismatch s) else s) k line

/-- The blocks of a hub's read of `n` bytes of a domain's memory whose check fails are counted (R37, R46). -/
def hubCounts (s : State) (asid va n : Nat) : State :=
  (chunksOf va n).foldl (fun a c => match walk s asid c.1 with
    | .leaf l _ _ => ((memLines (l.base + c.1 % l.size) c.2).filter (foreign s (pairOf s asid))).foldl
        (fun a _ => crcMismatch (crcMismatch a)) a
    | _ => a) s

/-! ### Slice logs (R222) -/

/-- Operation bits of a record and of OPS, counted from bit 53. -/
inductive SliceOp where
  | read | write | atomic | red | engine | walk
  deriving DecidableEq, Repr

/-- See `SliceOp`. -/
def SliceOp.index : SliceOp → Nat
  | .read => 0 | .write => 1 | .atomic => 2 | .red => 3 | .engine => 4 | .walk => 5

/-- The 32 bytes of a record. -/
def sliceRecord (s : State) (slice : Nat) (op : SliceOp) (hit : Bool) (tag pa latency : Nat) : Nat :=
  s.clock % 2 ^ 64 + 2 ^ 64 * slice + 2 ^ 80 * op.index + 2 ^ 88 * boolNat hit + 2 ^ 96 * (tag % 2 ^ 24)
    + 2 ^ 128 * (natBits pa 7 9) + 2 ^ 144 * latency
    + (if s.hub.pkg.lifecycle = .debugUnlocked then 2 ^ 192 * (natBits pa 7 45) else 0)

/-- A session's filter is on, and names the domain and the operation of an access. -/
def sliceMeets (x : Session) (asid : Nat) (op : SliceOp) : Bool :=
  let f := x.slogFilter.toNat
  natBit f 63 && natBit f (53 + op.index) && natBits f 43 10 == asid

/-- One session whose filter an access meets makes its record. `v` says whether the access hits, and its latency. -/
def sliceOne (s : State) (key : Nat) (x : Session) (v : Word) (slice : Nat) (op : SliceOp) (tag pa : Nat) : State :=
  let f := x.slogFilter.toNat
  let hit := v.getLsbD 0
  if natBit f 42 && hit then s
  else
    let s1 := modHub s (fun h => { h with
      sessions := tabMod key (fun x => { x with slogSkip := x.slogSkip + 1 }) h.sessions })
    if x.slogSkip % 2 ^ natBits f 59 4 ≠ 0 then s1
    else match ringAppend s1 x.slogAsid x.slogRing 32 (sliceRecord s slice op hit tag pa (natBits v.toNat 16 16)) with
      | some s2 => s2
      | none => modDom s1 x.slogAsid (fun d => { d with raceDrops := d.raceDrops + 1 })

/-- An access of domain `asid`, under a writer tag, reaches a slice: its line is there from then on, and every session's
filter meets it. Whether it hits and its latency are one free value for all of them. -/
def sliceAt (s : State) (asid slice : Nat) (op : SliceOp) (tag pa : Nat) (pinned : Bool) : State :=
  let s1 := l2Touch s slice pa pinned
  match s.hub.sessions.filter (fun e => sliceMeets e.2 asid op) with
  | [] => s1
  | ms => ms.foldl (fun a e => sliceOne a e.1 e.2 (Config.freeWord s.free) slice op tag pa) { s1 with free := s.free + 1 }

/-- An access that reaches the slice of a line of a page of domain `owner`. -/
def sliceLog (s : State) (asid owner : Nat) (op : SliceOp) (tag pa : Nat) (l : Leaf) : State :=
  match servingSlice s owner pa l with
  | none => s
  | some slice => sliceAt s asid slice op tag pa (placedHome s owner pa l == 2)

/-- The walk an access of domain `asid` makes, whatever it ends in, where core `core` holds no translation: each table entry
read reaches the home slice of its line (R97, R222). -/
def walkLog (s : State) (core asid owner va : Nat) : State :=
  if (tlbHit s core owner va).isSome then s
  else (dieWalkReads s (coreDie core) owner va).foldl (fun a e =>
    if e < hbmEnd then sliceAt a asid (homeSlice s.hub.pkg.quarSlices e) .walk 0 e false else a) s

/-- The walk, if one is made, and the translation that core `core` holds from then on, when the walk has found a leaf (R97). -/
def coreFill (s : State) (core asid owner va : Nat) : State := tlbFill (walkLog s core asid owner va) core owner va

end Sys2Proof.Machine
end

