-- ==== Sys2Proof/Machine/Stack.lean ====
section
/-!
DEFINITION. The retry ring's entries (R176, R177), seal blocks (R154), and the abort of activations: Unwind (R163),
RunCleanup (R164), ABORT notices (R165), voiding (R166), abandoning (R168), and the double fault (R174).
-/

namespace Sys2Proof.Machine

/-! ### The retry ring (R176, R177) -/

/-- Entries of a domain's retry ring: 2^LOG2. -/
def ringSize (s : State) (asid : Nat) : Nat :=
  match domOf s asid with
  | some d => 2 ^ (vreadNat s asid d.place.ringVa 4)
  | none => 1
/-- Address of a retry entry. -/
def retryVa (s : State) (asid i : Nat) : Nat :=
  match domOf s asid with | some d => d.place.ringVa + 64 + 64 * i | none => 0
/-- Address of an entry's data slot. -/
def retryDataVa (s : State) (asid i : Nat) : Nat :=
  match domOf s asid with
  | some d => d.place.ringVa + 64 + 64 * ringSize s asid + 1024 * i
  | none => 0

/-- A retry entry (R177). -/
structure RetryEntry where
  gtid : Word
  pc : Word
  va : Nat
  op : Nat
  aop : Nat
  sz : Nat
  dest : Nat
  depth : Nat
  state : Nat
  ord : Nat
  sc : Nat
  roff : Nat
  data : List Byte
  deriving DecidableEq, Repr

/-- The 64 bytes of a retry entry. -/
def RetryEntry.bytes (e : RetryEntry) : List Byte :=
  leBytes 8 e.gtid.toNat ++ leBytes 8 e.pc.toNat ++ leBytes 8 e.va ++ leBytes 1 (e.op + 16 * e.aop) ++ leBytes 1 e.sz
    ++ leBytes 1 e.dest ++ leBytes 1 e.depth ++ leBytes 1 e.state ++ leBytes 1 (e.ord + 8 * e.sc) ++ leBytes 2 e.roff
    ++ (e.data ++ List.replicate (32 - e.data.length) 0)

/-- The entry 64 bytes hold. -/
def RetryEntry.ofBytes (b : List Byte) : RetryEntry :=
  { gtid := BitVec.ofNat 64 (recField b 0 8), pc := BitVec.ofNat 64 (recField b 8 8), va := recField b 16 8 % 2 ^ 57,
    op := recField b 24 1 % 16, aop := recField b 24 1 / 16, sz := recField b 25 1 % 16, dest := recField b 26 1,
    depth := recField b 27 1 % 16, state := recField b 28 1 % 4, ord := recField b 29 1 % 8,
    sc := recField b 29 1 / 8 % 8, roff := recField b 30 2 % 512, data := b.drop 32 }

/-- The entry at an index of a domain's ring. -/
def readRetry (s : State) (asid i : Nat) : RetryEntry :=
  match vread s asid (retryVa s asid i) 64 with
  | some (b, _) => RetryEntry.ofBytes b
  | none => RetryEntry.ofBytes []

/-- Set an entry's STATE: 0 FREE, 1 QUEUED, 2 CLAIMED, 3 VOID. -/
def setRetryState (s : State) (asid i st : Nat) : State := vwrite s asid (retryVa s asid i + 28) (leBytes 1 st)

/-- The notice of a pinned context area that is not mapped valid, writable and PIN (R182). -/
def pinnedNotice (s : State) (t : Task) (va cause : Nat) (pc : Word) : State :=
  notify s { kind := 1, code := 2, asid := t.asid, gtid := t.id.gtid, addr := va, pc := pc, cause2 := cause
             depth := t.depth }

/-- VoidRetryEntries (R166): the entries a task raised at depth j or above. An entry whose page is not pinned is not written,
and the notice says so (R182). -/
def voidEntries (s : State) (key j : Nat) : State :=
  match taskAt s key with
  | none => s
  | some t =>
    let gone := t.retry.filter (fun r => decide (j ≤ r.depth))
    let s1 := gone.foldl (fun a r => match pinnedFault a r.owner (retryVa a r.owner r.index) 64 with
      | some va => pinnedNotice a t va 0 t.pc
      | none => setRetryState a r.owner r.index 3) s
    modTask s1 key (fun t => { t with retry := t.retry.filter (fun r => !decide (j ≤ r.depth)) })

/-! ### Engine jobs of a task -/

/-- Jobs of a GTID at depth `d` or above in any cluster's queue. -/
def jobsInFlight (s : State) (gtid : Word) (d : Nat) : Bool :=
  s.hub.clusters.any (fun c => c.2.jobs.any (fun j => j.gtid == gtid && decide (d ≤ j.depth)))

/-- Outstanding accesses of a slot. -/
def accessesOf (s : State) (key : Nat) : List (Nat × Access) := s.hub.accesses.filter (fun e => e.2.slot == key)

/-- What an abort from depth `d` waits for: the engine jobs of the depths it aborts (R163), and every access the task has issued,
which is performed and logged before the rollback (R350). -/
def depthsBusy (s : State) (key : Nat) (gtid : Word) (d : Nat) : Bool :=
  jobsInFlight s gtid d || !(accessesOf s key).isEmpty

/-- The outstanding accesses of a slot write no register any more: its registers have been replaced. -/
def detachAccesses (s : State) (key : Nat) : State :=
  modTask (modHub s (fun h => { h with
      accesses := tabMap (fun _ a => if a.slot = key then { a with dests := [] } else a) h.accesses }))
    key (fun t => { t with pend := [], arriving := [] })

/-! ### Seal blocks (R154) -/

/-- The bytes of a seal block for registers, up to its declared vector registers; and the maps from byte 33,792. -/
def sealHead (r : Regs) (vregs : Nat) : List Byte :=
  ((upTo 64).foldr (fun i a => leBytes 8 (getS r i).toNat ++ a) [])
    ++ ((upTo 8).foldr (fun i a => leBytes 64 (getM r i).toNat ++ a) [])
    ++ ((upTo vregs).foldr (fun i a => leBytes 512 (getV r i).toNat ++ a) [])

/-- The poison maps of a seal block. -/
def sealTail (r : Regs) (vregs : Nat) : List Byte :=
  leBytes 8 r.sPoi.toNat ++ leBytes 1 r.mPoi.toNat ++ leBytes 7 0
    ++ ((upTo 64).foldr (fun i a => leBytes 4 (if i < vregs then (poiV r i).toNat else 0) ++ a) [])
    ++ leBytes 48 0

/-- Registers with a vector and a scalar window zeroed and clean (R154, R163). -/
def zeroWindow (r : Regs) (vw vn sw sn : Nat) : Regs :=
  let r1 := (upTo vn).foldl (fun r i => putV r (vw + i) 0 0) r
  (upTo sn).foldl (fun r i => putS r (sw + i) 0 false) r1

/-- WriteSealBlock (R154): the registers, window registers as zero. -/
def writeSeal (s : State) (asid va : Nat) (r : Regs) (vregs : Nat) : State :=
  vwrite (vwrite s asid va (sealHead r vregs)) asid (va + 33792) (sealTail r vregs)

/-- ReadSealBlock (R154). -/
def readSeal (s : State) (asid va vregs : Nat) : Regs :=
  let b := match vread s asid va (1024 + 512 * vregs) with | some (b, _) => b | none => []
  let p := match vread s asid (va + 33792) 320 with | some (b, _) => b | none => []
  let r0 : Regs := { sPoi := BitVec.ofNat 64 (recField p 0 8), mPoi := BitVec.ofNat 8 (recField p 8 1) }
  let r1 := (upTo 64).foldl (fun r i =>
    if i = 0 then r else { r with s := tabPut 0 i (BitVec.ofNat 64 (recField b (8 * i) 8)) r.s }) r0
  let r2 := (upTo 8).foldl (fun r i =>
    if i = 0 then r else { r with m := tabPut 0 i (BitVec.ofNat 512 (recField b (512 + 64 * i) 64)) r.m }) r1
  (upTo vregs).foldl (fun r i => { r with
    v := tabPut 0 i (BitVec.ofNat 4096 (recField b (1024 + 512 * i) 512)) r.v
    vPoi := tabPut 0 i (BitVec.ofNat 32 (recField p (16 + 4 * i) 4)) r.vPoi }) r2

/-- StatusWord (R157, R158). -/
def statusWord (code depth cause : Nat) : Word := BitVec.ofNat 64 (code + 256 * depth + 65536 * cause)

/-! ### Ending a task -/

/-- The task's final count is kept for a stop list, with the bench that is current (R201). -/
def noteEnded (s : State) (t : Task) : State :=
  let c := readLog s t.home
  modDom s t.home (fun d => { d with
    ended := tabSet t.id.gtid.toNat (t.icount, c.curBench) (d.ended.filter (fun e => decide (c.oldBench ≤ e.2.2))) })

/-- The slot passes to ENDED; the task counts as finished when TASK_FINISH comes (R62, R174). `stopped`: it did not end by
`end` (R219). -/
def endSlot (s : State) (key : Nat) (faulted stopped : Bool) : State :=
  let s0 := match taskAt s key with | some t => noteEnded s t | none => s
  let s1 := tailEnd s0 key (if stopped then 3 else 0)
  modTask s1 key (fun t => { t with
    st := .ended, acq := [], faulted := t.faulted || faulted, abort := none, mon := none, feWait := none, waitVal := none
    raised := none, handler := false, clean := false, preempt := 0 })

/-- The cycles a register move takes: about 40 + 2V (R160). -/
def moveCycles (vregs : Nat) : Nat := 40 + 2 * vregs

/-- The slot is IN_CALL while registers move (R62, R160). -/
def enterMove (s : State) (key : Nat) : State :=
  modTask s key (fun t => { t with st := .inCall, moveUntil := s.clock + moveCycles t.vregs })

/-! ### Aborting activations -/

/-- The writer tags RollBack selects at depth k: the task's, and those of its jobs submitted at k or above after the
marker (R197). -/
def rollTags (t : Task) (k : Nat) : List Nat :=
  t.wtag.toNat :: ((t.jobTags.drop (tabGet 0 k t.tagMarks)).filter (fun j => decide (k ≤ j.2))).map (·.1)

/-- The activation at depth k is over: tags stay for the rollback of a lower one, down to depth 0. -/
def leaveTags (t : Task) (k : Nat) : Task :=
  { t with jobTags := if k ≤ 1 then [] else t.jobTags, tagMarks := tabDel k t.tagMarks }

/-- The rollback of a LOGGED activation at depth k, through both markers (R163): entries applied and passed over. -/
def rollActivation (s : State) (t : Task) (k : Nat) (f : Frame) : State × Nat × Nat :=
  if !f.logged then (s, 0, 0)
  else
    let tags := rollTags t k
    let r1 := rollBack s (domAtDepth s t k) f.markC tags
    if f.markW = 0 then r1
    else
      let r2 := rollBack r1.1 (domAtDepth s t f.wdep) f.markW tags
      (r2.1, r1.2.1 + r2.2.1, r1.2.2 + r2.2.2)

/-- The ABORT notice of an activation (R165). -/
def abortNotice (s : State) (t : Task) (k : Nat) (f : Frame) (a : Abort) (outcome : Nat) : State :=
  notify s { kind := 4, code := a.why, asid := t.asid, gtid := t.id.gtid, depth := k, outcome := outcome,
             rolled := a.rolled, adit := f.adit, skipped := a.skipped }

/-- DropAcquireEntries, CloseWindow and AbortNotice of the activation at the task's depth (R163, R168); the retry entries
its cleanup raised go with it (R166). And whether it is done: a full log keeps it waiting. -/
def closeLevel (s : State) (key outcome : Nat) : State × Bool :=
  match taskAt s key with
  | none => (s, false)
  | some t =>
    let a := t.abort.getD { j := t.depth, why := 3 }
    let k := t.depth
    match dropEntries s key k with
    | (s1, false) => (s1, false)
    | (s1, true) =>
      let s2 := voidEntries s1 key k
      let f := readFrame s2 t k
      let s3 := writeFrame s2 t k { f with wv := false, wdep := 0 }
      (modTask (abortNotice s3 t k f a outcome) key (fun t => { t with
        handler := false, clean := false, reserve := 0, cleanWhy := 0,
        abort := t.abort.map (fun a => { a with rolled := 0, skipped := 0, closing := none, markDom := none, winDepth := none }) }), true)

/-- The outcomes gathered in the tail of the domain that ran when an Unwind took over go to that domain's ring (R219, R220). -/
def tailLeave (s : State) (key : Nat) : State :=
  match taskAt s key with
  | none => s
  | some t => match t.abort with
    | some a =>
      if a.ran != t.asid && tailEnabled s a.ran && t.tailMute.isNone then flushBranch s key { t with asid := a.ran } else s
    | none => s

/-- Restore depth j − 1 from Frame[j] without copy-back: the caller's windows are zeroed and s[st] holds the status
(R163, R168). The slot moves through IN_CALL. Where the seal block is not pinned it is not read: depth j − 1 is abandoned in
its turn, or at depth 0 the task ends faulted (R182, log entry 75). A DATA_FAULT marked for an aborted depth, and a BREAKPOINT
deferred under R184, are still taken, in the caller and with its PC, DESIGN CHOICE (log entry 97). -/
def restoreCaller (s : State) (key : Nat) : State :=
  match taskAt s key with
  | none => s
  | some t =>
    let a := t.abort.getD { j := t.depth, why := 3 }
    let f := readFrame s t t.depth
    let leave := fun (s : State) => modTask (detachAccesses (sealFree s f.caller f.sealVa) key) key (fun t =>
      { leaveTags t t.depth with
        asid := f.caller, depth := t.depth - 1, handler := false, clean := false, fbuf := none, entryCheck := false
        fenceAll := false, fenceReads := false })
    match pinnedFault s f.caller f.sealVa sealLen with
    | some va =>
      let s1 := leave (pinnedNotice s t va a.cause t.pc)
      if t.depth = 1 then endSlot (tailLeave s1 key) key true true
      else modTask s1 key (fun t => { t with abort := some { j := t.depth, why := 3, cause := a.cause, ran := a.ran } })
    | none =>
      let r0 := readSeal s f.caller f.sealVa t.vregs
      let r1 := zeroWindow r0 f.vw f.vn f.sw f.sn
      let r2 := putS r1 f.st (statusWord a.why t.depth a.cause) false
      let s1 := modTask (leave s) key (fun t => { t with
        regs := r2, fs := f.fs, fsPoi := false, srs := f.srs, srsPoi := false, pc := f.retPc, abort := none })
      tailIndirect (enterMove s1 key) key a.ran f.retPc 5

/-- Discard the activation at the task's depth: its seal block is freed and its frame popped (R163). -/
def popAborted (s : State) (key : Nat) : State :=
  match taskAt s key with
  | none => s
  | some t =>
    let f := readFrame s t t.depth
    modTask (sealFree s f.caller f.sealVa) key (fun t =>
      { leaveTags t t.depth with asid := f.caller, depth := t.depth - 1 })

/-- RunCleanup(k, why) (R164): the task enters the adit's cleanup in D_k. A pre-emption noted while the slot was IN_CALL takes
effect now (R62); that of a cancelled task whose budget has run out, which ends it, once the Unwind has ended. -/
def enterCleanup (s : State) (key : Nat) (a : Abort) (f : Frame) (adit : Adit) : State :=
  match taskAt s key with
  | none => s
  | some t =>
    let s1 := writeFrame s t t.depth { f with clean := true, wv := false, wdep := 0 }
    let s2 := detachAccesses s1 key
    let regs := putS (putS {} 1 (BitVec.ofNat 64 a.why) false) 2 (BitVec.ofNat 64 t.depth) false
    let s3 := modTask s2 key (fun t => { t with
      regs := regs, fs := 0, fsPoi := false, handler := false, clean := true, cleanWhy := a.why,
      reserve := adit.reserve, pc := adit.cleanup, entryCheck := true, fbuf := none
      st := if t.preempt = 0 || (t.preempt = 0x20 && t.cancelled) then .ready else .preempting
      abort := some { a with
        markDom := if f.wv && natBit f.mwPerm 1 then some (domAtDepth s t f.wdep) else none
        winDepth := if f.wv then some f.wdep else none }
      fenceAll := false,
      fenceReads := false })
    tailIndirect s3 key a.ran adit.cleanup 6

/-- Close the activation at the task's depth with an outcome, then pop it or restore the caller of the lowest one. -/
def leaveLevel (s : State) (key j outcome : Nat) : State × Bool :=
  match closeLevel s key outcome with
  | (s1, false) => (s1, false)
  | (s1, true) =>
    (match taskAt s1 key with
     | some t => if j < t.depth then popAborted s1 key else restoreCaller s1 key
     | none => s1, true)

/-- Roll back the activation at the task's depth (R163): the adit whose cleanup is to run, or none. CLEANUP and RESERVE are those of
the adit's entry now, and none runs when its index has passed to another publisher, DESIGN CHOICE (log entry 97). -/
def rollLevel (s : State) (key : Nat) (t : Task) (a : Abort) : State × Abort × Frame × Option Adit :=
  let f := readFrame s t t.depth
  let r := rollActivation s t t.depth f
  let adit := tabGet {} f.adit s.hub.adits
  let live := match domOf s t.asid with | some d => d.state == .live | none => false
  let runs := decide (a.j < t.depth) && live && adit.reserve != 0 && adit.publisher == t.asid
  let a' : Abort := { a with rolled := r.2.1, skipped := r.2.2, closing := if runs then none else some 0 }
  (modTask r.1 key (fun t => { t with abort := some a' }), a', f, if runs then some adit else none)

/-- Unwind's loop (R163), from the task's depth down, until a cleanup runs, it waits, or it is done. Engine jobs and accesses
of the aborted depths complete first. A task whose frame's page is not pinned cannot be unwound further and ends faulted
(R182, log entry 75). -/
def unwindLoop : Nat → State → Nat → State
  | 0, s, _ => s
  | fuel + 1, s, key =>
    match taskAt s key with
    | none => s
    | some t =>
      match t.abort with
      | none => s
      | some a =>
        if depthsBusy s key t.id.gtid a.j then s
        else if t.depth = 0 then
          match dropEntries s key 0 with
          | (s1, true) => endSlot (tailLeave s1 key) key false true
          | (s1, false) => s1
        else match pinnedFault s t.home (frameVa s t t.depth) 256 with
          | some va => endSlot (tailLeave (pinnedNotice s t va a.cause t.pc) key) key true true
          | none =>
            match a.closing with
            | some outcome =>
              match leaveLevel s key a.j outcome with
              | (s1, true) => unwindLoop fuel s1 key
              | (s1, false) => s1
            | none =>
              match rollLevel s key t a with
              | (s1, a', f, some adit) => enterCleanup s1 key a' f adit
              | (s1, _, _, none) =>
                match leaveLevel s1 key a.j 0 with
                | (s2, true) => unwindLoop fuel s2 key
                | (s2, false) => s2

/-- Run an abort whose engine jobs and accesses have completed (R163, R168): void the entries and unwind. -/
def unwindGo (s : State) (key : Nat) : State :=
  match taskAt s key with
  | none => s
  | some t =>
    match t.abort with
    | none => s
    | some a =>
      if depthsBusy s key t.id.gtid a.j then s
      else unwindLoop (t.depth + 2) (voidEntries s key a.j) key

/-- Stop issue and begin an abort; it waits in IN_CALL for the engine jobs and the accesses of the aborted depths (R163,
R168). -/
def beginAbort (s : State) (key : Nat) (a : Abort) : State :=
  let s1 := modTask s key (fun t => { t with
    abort := some { a with ran := t.asid }, st := .inCall, mon := none, feWait := none, waitSince := 0, waitVal := none
    raised := none, pairSrc := none, clean := false, handler := false, wantsJob := false, jobGrant := false
    moveUntil := s.clock })
  unwindGo s1 key

/-- The end of a cleanup (R164): with its outcome, Unwind continues. -/
def endCleanup (s : State) (key outcome : Nat) : State :=
  match taskAt s key with
  | none => s
  | some t =>
    match t.abort with
    | none => s
    | some a =>
      unwindGo (modTask s key (fun t => { t with
        st := .inCall, clean := false, handler := false, moveUntil := s.clock
        abort := some { a with closing := some outcome, ran := t.asid }, feWait := none, waitSince := 0, waitVal := none
        mon := none, raised := none, pairSrc := none })) key

/-- The task is treated as under a double fault (R174, R182): a cleanup is abandoned with outcome FAULT, an activation
is abandoned, a task at depth 0 ends faulted. -/
def contextFault (s : State) (key cause : Nat) : State :=
  match taskAt s key with
  | none => s
  | some t =>
    if t.clean then endCleanup s key 3
    else if t.depth = 0 then endSlot s key true true
    else beginAbort s key { j := t.depth, why := 3, cause := cause }

/-- DoubleFault(cause) (R174), as the instruction at `pc` finds it: the notice, and the fate of the task. `first` is the cause of
the trap that entered the handler. -/
def doubleFault (s : State) (key first cause : Nat) (pc : Word) : State :=
  match taskAt s key with
  | none => s
  | some t =>
    let s1 := notify s { kind := 1, code := 1, asid := t.asid, gtid := t.id.gtid, pc := pc, cause1 := first,
                         cause2 := cause, depth := t.depth }
    contextFault s1 key (if t.handler then first else cause)

/-- A pinned context area is not mapped valid, writable and PIN, as the instruction at `pc` finds (R175, R182). -/
def pinnedContext (s : State) (key va cause : Nat) (pc : Word) : State :=
  match taskAt s key with
  | none => s
  | some t =>
    contextFault (pinnedNotice s t va cause pc) key cause

/-- Unwinding of a resident task from depth j, the lowest with D_j = X (R163). A cleanup of X's own that runs is abandoned:
outcome KILLED under a kill (R164, R165). -/
def unwindAt (s : State) (key j x why : Nat) : State :=
  match taskAt s key with
  | none => s
  | some t =>
    match t.abort with
    | none => beginAbort s key { j := j, why := why }
    | some a =>
      let a' : Abort := if j < a.j then { a with j := j, why := why, cause := 0 } else a
      let s1 := modTask s key (fun t => { t with abort := some a' })
      if t.clean && t.asid = x then endCleanup s1 key (if why = 2 then 4 else 0) else s1

/-- The lowest depth of a task at which domain X runs. -/
def depthOf (s : State) (t : Task) (x : Nat) : Option Nat := (upTo (t.depth + 1)).find? (fun w => domAtDepth s t w == x)

/-- A task to be unwound at resume, before any instruction (R163). -/
def markUnwind (t : Task) (x why : Nat) : Task :=
  { t with marks := t.marks.filter (fun m => m.1 != x) ++ [(x, why)] }

/-- A resident task whose stack holds X is unwound at once, one in PREEMPTING at its resume (R163). -/
def startUnwind (s : State) (key x why : Nat) : State :=
  match taskAt s key with
  | none => s
  | some t =>
    match depthOf s t x with
    | none => s
    | some j =>
      match t.st with
      | .ended => s
      | .preempting => setTask s key (markUnwind t x why)
      | _ => unwindAt s key j x why

/-- The unwindings a resumed task was marked for, the lowest depth first. -/
def resumeUnwind (s : State) (key : Nat) : State :=
  match taskAt s key with
  | none => s
  | some t =>
    let byDepth : SMap (Nat × Nat) := t.marks.foldl (fun m x => match depthOf s t x.1 with
      | some j => tabSet j x m
      | none => m) []
    byDepth.foldl (fun a e => startUnwind a key e.2.1 e.2.2) (modTask s key (fun t => { t with marks := [] }))

end Sys2Proof.Machine
end

