-- ==== Sys2Proof/Machine/Ops.lean ====
section
/-!
DEFINITION. What every instruction shares: taking an exception (TrapEnter, R172, with the double fault of R174) and the
return from one (TrapReturn, R173), the effects an instruction can end in, and the frame that turns an effect into a
step: the instruction takes effect and the task moves on, it traps precisely, it is held as by the scoreboard, or it
blocks its slot (R62, R169).
-/

namespace Sys2Proof.Machine

/-! ### Taking an exception -/

/-- A trap as it is reported (R171): the address of the faulting access, INFO, and RECORD. -/
structure Trap where
  cause : Cause
  addr : Nat := 0
  info : Nat := 0
  record : BitVec 512 := 0
  deferred : Bool := false
  deriving DecidableEq, Repr

/-- Address of a slot's trap frame in a domain's trap area (R170). -/
def trapFrameVa (s : State) (asid key : Nat) : Nat :=
  match domOf s asid with | some d => d.place.trapVa + 4096 + 256 * key | none => 0

/-- Address of a domain's trap area (R170). -/
def trapAreaVa (s : State) (asid : Nat) : Nat := match domOf s asid with | some d => d.place.trapVa | none => 0

/-- HANDLER of a domain's trap area (R170). -/
def trapHandler (s : State) (asid : Nat) : Word :=
  match domOf s asid with | some d => BitVec.ofNat 64 (vreadNat s asid d.place.trapVa 8) | none => 0

/-- The 256 bytes of a trap frame (R171). -/
def frameBytes (s : State) (t : Task) (tr : Trap) : List Byte :=
  leBytes 8 t.id.gtid.toNat ++ leBytes 8 (groupPc s t).toNat ++ leBytes 8 (nextPc s t).toNat
    ++ leBytes 1 tr.cause.value ++ leBytes 1 t.depth
    ++ leBytes 1 (boolNat s.grp.paired + 2 * boolNat s.grp.second + 4 * boolNat tr.deferred) ++ leBytes 5 0
    ++ leBytes 8 tr.addr ++ leBytes 8 tr.info ++ leBytes 12 s.grp.bits.toNat ++ leBytes 4 0
    ++ ((upTo 8).foldr (fun i a => leBytes 8 (getS t.regs (i + 1)).toNat ++ a) [])
    ++ leBytes 64 tr.record.toNat ++ leBytes 8 t.fs.toNat ++ leBytes 56 0

/-- Poison of the frame's 32 words: the SAVE words' registers and `fs`. -/
def framePoison (t : Task) : BitVec 32 :=
  (upTo 8).foldl (fun p i => putBit p (8 + i) (poiS t.regs (i + 1))) (putBit 0 24 t.fsPoi)

/-- One poison flag per byte of a frame. -/
def frameByteFlags (p : BitVec 32) : List Bool :=
  (upTo 32).foldr (fun i a => List.replicate 8 (p.getLsbD i) ++ a) []

/-- A word of the slot's trap frame (R173). -/
def frameWord (s : State) (t : Task) (key n : Nat) : Word :=
  BitVec.ofNat 64 (vreadNat s t.asid (trapFrameVa s t.asid key + 8 * n) 8)

/-- The poison of a word of the slot's trap frame (R107, R269): its granule is poisoned, and of the granule's two words
`Task.framePoi` names this one, or neither. -/
def framePoiAt (s : State) (t : Task) (key n : Nat) : Bool :=
  (poiFlags s t.asid (trapFrameVa s t.asid key + 8 * n) 8).any (·)
    && (t.framePoi.getLsbD n || !t.framePoi.getLsbD (if n % 2 = 0 then n + 1 else n - 1))

/-- Writes to s1 to s8 that have a result cycle are still pending (R172). -/
def savePending (s : State) (t : Task) : Bool :=
  (upTo 8).any (fun i => decide (s.clock < tabGet 0 (i + 1) t.pend) || !(tabGet [] (i + 1) t.arriving).isEmpty)

/-- Note how the instruction ended. -/
def withResult (s : State) (r : Result) : State := { s with grp := { s.grp with result := r } }

/-- TrapEnter (R172), in the slot `key`. The state is the one before the trapping group: traps are precise. In a domain whose
HANDLER is zero no trap has entered a handler: the notice names the one cause twice, DESIGN CHOICE (log entry 97). -/
def trapEnter (s : State) (key : Nat) (tr : Trap) : State :=
  match taskAt s key with
  | none => s
  | some t =>
    let fva := trapFrameVa s t.asid key
    if t.handler then
      match pinnedFault s t.asid fva 256 with
      | some va => withResult (pinnedContext s key va tr.cause.value (ownPc s t)) .trapped
      | none =>
        withResult (doubleFault s key (natBits (frameWord s t key 3).toNat 0 8) tr.cause.value (ownPc s t)) .trapped
    else
      let h := trapHandler s t.asid
      match pinnedFault s t.asid (trapAreaVa s t.asid) 8 with
      | some va => withResult (pinnedContext s key va tr.cause.value (ownPc s t)) .trapped
      | none =>
      if h = 0 then withResult (doubleFault s key tr.cause.value tr.cause.value (ownPc s t)) .trapped
      else if savePending s t then withResult s .held
      else match pinnedFault s t.asid fva 256 with
        | some va => withResult (pinnedContext s key va tr.cause.value (ownPc s t)) .trapped
        | none =>
          let p := framePoison t
          let s1 := vwritePoi s t.asid fva (frameBytes s t tr) (frameByteFlags p)
          let s2 := modTask s1 key (fun t => { t with
            handler := true, framePoi := p, pc := h, fbuf := none, entryCheck := true,
            regs := putS (putS t.regs 1 (BitVec.ofNat 64 tr.cause.value) false) 2 (BitVec.ofNat 64 fva) false
            retry := t.retry.map (fun r => { r with inFrame := true }) })
          withResult (tailIndirect s2 key t.asid h 3) .trapped

/-- TrapReturn (R173): s1 to s8 and `fs` from the frame, EPC not checked against BT. The flags the handler raised are
discarded; marks that had moved into the frame come back with their registers (R172). -/
def trapReturn (s : State) (key : Nat) : State :=
  match taskAt s key with
  | none => s
  | some t =>
    let word := fun n => frameWord s t key n
    let regs := (upTo 8).foldl (fun r i => putS r (i + 1) (word (8 + i)) (framePoiAt s t key (8 + i))) t.regs
    let s1 := modTask s key (fun t => { t with
      regs := regs, fs := word 24, fsPoi := framePoiAt s t key 24, handler := false, pc := word 1, fbuf := none,
      framePoi := 0, retry := t.retry.map (fun r => { r with inFrame := false }) })
    tailIndirect s1 key t.asid (word 1) 4

/-! ### Effects -/

/-- What an instruction comes to. -/
inductive Eff where
  /-- It takes effect and goes on at NextPC. -/
  | ok (s : State)
  /-- It takes effect and transfers to a PC. -/
  | goto (s : State) (pc : Word)
  /-- It takes effect and has itself placed the task (`end`, a gate, a return from a trap). -/
  | placed (s : State)
  /-- It traps; the state is the one before it, with what the trap's detection leaves behind (a notice). -/
  | trap (s : State) (tr : Trap)
  /-- It is held as by the scoreboard: nothing of it happens. -/
  | hold
  /-- It is held, and the domain or the slot has stopped or competes meanwhile. -/
  | holdIn (s : State)
  /-- It passes its slot to a blocked state and will be issued again. -/
  | block (s : State) (st : SlotState)
  /-- It stops the task as a double fault does, by way of a pinned area (R182). -/
  | pinned (s : State) (va : Nat)

/-- A trap with nothing but a cause. -/
def trapOf (s : State) (c : Cause) : Eff := .trap s { cause := c }

/-- The instruction has taken effect (R206): its task's instruction count rises by one. -/
def counted (s : State) : State := modCur s (fun t => { t with icount := t.icount + 1 })

/-- The task goes on at a PC; the second instruction of a group leaves the first one's choice (R79). -/
def fallThrough (s : State) (t : Task) : State :=
  if s.grp.second then s else modCur s (fun u => { u with pc := nextPc s t })

/-- The task transfers to a PC: its fetch buffer takes the target's line anew (R227), and its next group waits for the
bubble of R83. -/
def transferTo (s : State) (pc : Word) : State :=
  modCur s (fun u => { u with pc := pc, fbuf := none, nextIssue := s.clock + 3 })

/-- Turn an effect into the state after the instruction. -/
def settle (s : State) (t : Task) : Eff → State
  | .ok s' => withResult (counted (fallThrough s' t)) .retired
  | .goto s' pc => withResult (counted (transferTo s' pc)) .retired
  | .placed s' => withResult s' .retired
  | .trap s' tr =>
    let r := trapEnter s' s.cur tr
    if r.grp.result = .held then withResult s .held else { r with grp := { r.grp with cause := some tr.cause } }
  | .hold => withResult s .held
  | .holdIn s' => withResult s' .held
  | .block s' st => withResult (modHub (modCur s' (fun u => { u with
      st := st, waitSince := if u.waitSince = 0 then s'.hub.nextId else u.waitSince }))
      (fun h => { h with nextId := h.nextId + 1 })) .blocked
  | .pinned s' va => withResult (pinnedContext s' s.cur va 0 (ownPc s t)) .trapped

/-- The vector registers an instruction names (R73). -/
def vectorNames : Instr → List Nat
  | .vadd f | .vsub f | .vmul f | .vmin f | .vmax f | .vdiv f | .viadd f | .visub f | .vimul f | .vimulh f | .vand f
  | .vor f | .vxor f | .vshl f | .vshr f | .vsra f | .vimin f | .vimax f | .vsel f =>
    [f.d.toNat, f.a.toNat] ++ (if f.bs || f.bi then [] else [f.b.toNat])
  | .vfma f | .vimad f | .vdot4 f | .vdot8 f =>
    [f.d.toNat, f.a.toNat, f.c.toNat] ++ (if f.bs || f.bi then [] else [f.b.toNat])
  | .vfcmp f | .vicmp f => [f.a.toNat] ++ (if f.bs || f.bi then [] else [f.b.toNat])
  | .vsqrt f | .vrcp f | .vrsq f | .vexp2 f | .vlog2 f | .vfclass f | .vcvt f | .vabs f | .vmov f | .vred f | .vscan f
  | .vunpack f | .vpopc f | .vrot f => [f.d.toNat, f.a.toNat]
  | .vbcast f => [f.d.toNat] ++ (if f.fn = 1 then [f.a.toNat] else [])
  | .vid f => [f.d.toNat]
  | .vperm f => [f.d.toNat, f.a.toNat, f.b.toNat] ++ (if f.fn = 1 then [f.c.toNat] else [])
  | .vslide f | .vpack f => [f.d.toNat, f.a.toNat, f.c.toNat]
  | .vext f => [f.a.toNat]
  | .vins f => [f.d.toNat]
  | .vquant f | .vdequant f => [f.d.toNat, f.a.toNat, f.b.toNat]
  | .vld f | .vst f | .vlds f | .vsts f => [f.d.toNat]
  | .vldx f | .vstx f | .vatom f => [f.d.toNat, f.x.toNat]
  | _ => []

/-- The meaning of an ISA instruction from its effect on the acting task. A field value the instruction does not define,
or a vector register at or above VREGS, raises ILLEGAL_INSTR precisely (R73, R232). A slot that is not READY issues
nothing (R62); the second instruction of a group executes although the first has moved the task on (R79, R259). -/
def runIsa (i : Instr) (s : State) (eff : Task → Eff) : Host.Outcome State Fault Refusal :=
  match curTask s with
  | none => .next (withResult s .held)
  | some t =>
    if t.st ≠ .ready && s.grp.snap.isNone then .next (withResult s .held)
    else if !i.wf || (vectorNames i).any (fun n => decide (t.vregs ≤ n)) then
      .next (settle s t (trapOf s .illegalInstr))
    else .next (settle s t (eff t))

/-- CommitCheck of a list of poison bits (R108). -/
def anyPoison (ps : List Bool) : Bool := ps.any (·)

/-- An event of the part, as a step. -/
def event (s : State) : Host.Outcome State Fault Refusal := .next s

end Sys2Proof.Machine
end

