-- ==== Sys2Proof/Machine/Scoreboard.lean ====
section
/-!
DEFINITION. What decides whether a group may issue: issue classes and the group rules (R79), the registers an
instruction reads and writes (R80), the units that are not fully pipelined (R82, R277), the holds on `fs` (R140) and the
wait of memory-class groups behind a fence (R314).
-/

namespace Sys2Proof.Machine

/-! ### Classes and group rules (R79) -/

/-- The issue classes of R79. -/
inductive IssueClass where
  | vector | memory | scalar | any
  deriving DecidableEq, Repr

/-- The opcode of a slot. -/
def slotOp (b : Slot96) : Nat := (b.extractLsb' 88 8).toNat

/-- The class of an opcode; an unassigned one has none. -/
def classOf (op : Nat) : Option IssueClass :=
  if op ≤ 1 then some .any
  else if (2 ≤ op && op ≤ 0x1E) || (0x20 ≤ op && op ≤ 0x29) || (0x30 ≤ op && op ≤ 0x34) || (0xBC ≤ op && op ≤ 0xC7)
      || (0xD0 ≤ op && op ≤ 0xD3) || (0xD8 ≤ op && op ≤ 0xDB) then some .scalar
  else if 0x40 ≤ op && op ≤ 0x78 then some .vector
  else if (0x80 ≤ op && op ≤ 0x8E) || (0xA0 ≤ op && op ≤ 0xAB) || (0xB0 ≤ op && op ≤ 0xB5) then some .memory
  else none

/-- `end`, `trap`, `bpt`, `bench`, `gcall`, `gret`, `gdone` and `tret` share a group with nothing but `nop`. -/
def issuesAlone (op : Nat) : Bool :=
  op == 0x26 || op == 0x28 || op == 0x29 || op == 0x33 || op == 0xD0 || op == 0xD1 || op == 0xD2 || op == 0xDB

/-! ### Registers read and written (R80) -/

/-- `n` register keys from `k`. -/
def keyRun (k n : Nat) : List Nat := (upTo n).map (fun i => k + i)

/-- Key of the governing mask of an instruction (R228); m0 is never pending. -/
def mqKeys (mq : BitVec 4) : List Nat := if mq.toNat % 8 = 0 then [] else [mKey (mq.toNat % 8)]

/-- Source b of a Format V instruction. -/
def bKeys (f : FmtV) : List Nat := if f.bi then [] else if f.bs then [f.b.toNat] else [vKey f.b.toNat]

/-- Sources of a two-source scalar instruction. -/
def sKeys (f : FmtS) : List Nat := f.a.toNat :: (if f.bi then [] else [f.b.toNat])

/-- A system register instruction that names `fs` waits for the flags in flight (R140). -/
def fsHold (sr : BitVec 12) : List Nat := if sr = 0x020 then [fsKey] else []

/-- The memory-window pair of a `gcall`. -/
def mwKeys (f : FmtG) : List Nat := if f.mw = 63 then [] else [f.mw.toNat, f.mw.toNat + 1]

/-- Keys of the registers an instruction reads. -/
def regReads : Instr → List Nat
  | .add f | .sub f | .mul f | .mulh f | .div f | .rem f | .and f | .or f | .xor f | .andn f | .shl f | .shr f | .sra f
  | .rot f | .min f | .max f | .cmp f | .bext f | .lea f | .mov f | .clz f | .ctz f | .popc f | .abs f | .ext f
  | .bswap f => sKeys f
  | .sel f | .bins f => f.d.toNat :: sKeys f
  | .lih f => [f.d.toNat]
  | .br f => (if f.cc = 0 then [] else [f.a.toNat]) ++ (if f.cc = 5 || f.cc = 6 then [mKey f.msk.toNat] else [])
  | .calli f | .ret f | .loop f => [f.a.toNat]
  | .rsys f => fsHold f.sr
  | .wsys f | .xsys f => f.a.toNat :: fsHold f.sr
  | .vadd f | .vsub f | .vmul f | .vmin f | .vmax f | .vdiv f | .viadd f | .visub f | .vimul f | .vimulh f | .vand f
  | .vor f | .vxor f | .vshl f | .vshr f | .vsra f | .vimin f | .vimax f | .vfcmp f | .vicmp f =>
    vKey f.a.toNat :: bKeys f ++ mqKeys f.mq
  | .vfma f | .vimad f | .vdot4 f | .vdot8 f => vKey f.a.toNat :: vKey f.c.toNat :: bKeys f ++ mqKeys f.mq
  | .vsel f => vKey f.a.toNat :: mKey f.c.toNat :: bKeys f ++ mqKeys f.mq
  | .vsqrt f | .vrcp f | .vrsq f | .vexp2 f | .vlog2 f | .vfclass f | .vcvt f | .vabs f | .vmov f | .vred f | .vscan f
  | .vunpack f | .vpopc f => vKey f.a.toNat :: mqKeys f.mq
  | .vbcast f => (if f.fn = 0 then [f.a.toNat] else if f.fn = 1 then [vKey f.a.toNat] else []) ++ mqKeys f.mq
  | .vid f => (if f.bs then [f.b.toNat] else []) ++ mqKeys f.mq
  | .vperm f => [vKey f.a.toNat, vKey f.b.toNat] ++ (if f.fn = 1 then [vKey f.c.toNat] else []) ++ mqKeys f.mq
  | .vrot f => vKey f.a.toNat :: (if f.bs then [f.b.toNat] else []) ++ mqKeys f.mq
  | .vslide f => vKey f.a.toNat :: vKey f.c.toNat :: (if f.bs then [f.b.toNat] else []) ++ mqKeys f.mq
  | .vext f => vKey f.a.toNat :: (if f.bs then [f.b.toNat] else [])
  | .vins f => vKey f.d.toNat :: f.a.toNat :: (if f.bs then [f.b.toNat] else [])
  | .vpack f => vKey f.a.toNat :: vKey f.c.toNat :: mqKeys f.mq
  | .vquant f | .vdequant f => vKey f.a.toNat :: vKey f.b.toNat :: mqKeys f.mq
  | .mand f | .mor f | .mxor f => [mKey f.a.toNat, mKey f.b.toNat]
  | .mnot f | .mpop f | .mfirst f | .mtos f => [mKey f.a.toNat]
  | .mfroms f => [f.a.toNat, mKey f.d.toNat]
  | .mlen f => if f.bi then [] else [f.a.toNat]
  | .ld f | .feclr f | .feset f | .fetst f | .pf f | .cln f | .mld f | .acq f | .rel f | .arv f | .sgen f =>
    f.a.toNat :: (if f.x = 0 then [] else [f.x.toNat])
  | .vld f => f.a.toNat :: mqKeys f.mq
  | .st f => f.a.toNat :: f.d.toNat :: (if f.sz = 4 then [f.d.toNat + 1] else [])
  | .vst f => f.a.toNat :: vKey f.d.toNat :: mqKeys f.mq
  | .vlds f => f.a.toNat :: f.x.toNat :: mqKeys f.mq
  | .vsts f => f.a.toNat :: f.x.toNat :: vKey f.d.toNat :: mqKeys f.mq
  | .vldx f => f.a.toNat :: vKey f.x.toNat :: mqKeys f.mq
  | .vstx f | .vatom f => f.a.toNat :: vKey f.x.toNat :: vKey f.d.toNat :: mqKeys f.mq
  | .mst f => [f.a.toNat, mKey f.d.toNat]
  | .aadd f | .aand f | .aor f | .axor f | .amin f | .amax f | .aswp f | .waita f => [f.a.toNat, f.x.toNat]
  | .acas f | .sini f => [f.a.toNat, f.x.toNat, f.d.toNat]
  | .acas2 f => [f.a.toNat, f.x.toNat, f.x.toNat + 1, f.d.toNat, f.d.toNat + 1]
  | .red f => [f.a.toNat, f.d.toNat]
  | .mxj f | .cpj f | .send f => keyRun f.f.toNat 8
  | .jpoll f | .jwait f => if f.fn = 0 then [f.d.toNat] else []
  | .jcan f => [f.d.toNat]
  | .launch f | .ccnt f | .cancel f => [f.f.toNat]
  | .graph f => [f.f.toNat, f.f.toNat + 1]
  | .gcall f => f.h.toNat :: keyRun (vKey f.vw.toNat) f.vn.toNat ++ keyRun f.sw.toNat f.sn.toNat ++ mwKeys f
  | .dinfo f => if f.imm = 5 then [f.h.toNat] else []
  | .rcmpl f | .rfail f => [f.a.toNat]
  | _ => []

/-- Keys of the registers an instruction writes. -/
def regWrites : Instr → List Nat
  | .add f | .sub f | .mul f | .mulh f | .div f | .rem f | .and f | .or f | .xor f | .andn f | .shl f | .shr f | .sra f
  | .rot f | .min f | .max f | .cmp f | .bext f | .lea f | .mov f | .clz f | .ctz f | .popc f | .abs f | .ext f
  | .bswap f | .sel f | .bins f | .lih f => [f.d.toNat]
  | .call _ | .calli _ => [62]
  | .loop f => [f.a.toNat]
  | .rsys f | .xsys f | .bench f | .tmark f | .rtake f | .rcmpl f | .rfail f => [f.d.toNat]
  | .vadd f | .vsub f | .vmul f | .vmin f | .vmax f | .vdiv f | .viadd f | .visub f | .vimul f | .vimulh f | .vand f
  | .vor f | .vxor f | .vshl f | .vshr f | .vsra f | .vimin f | .vimax f | .vfma f | .vimad f | .vdot4 f | .vdot8 f
  | .vsel f | .vsqrt f | .vrcp f | .vrsq f | .vexp2 f | .vlog2 f | .vfclass f | .vcvt f | .vabs f | .vmov f | .vred f
  | .vscan f | .vunpack f | .vpopc f | .vbcast f | .vid f | .vperm f | .vrot f | .vslide f | .vins f | .vpack f
  | .vquant f | .vdequant f => [vKey f.d.toNat]
  | .vfcmp f | .vicmp f | .mand f | .mor f | .mxor f | .mnot f | .mfroms f | .mlen f => [mKey f.d.toNat]
  | .vext f | .mpop f | .mfirst f | .mtos f => [f.d.toNat]
  | .ld f => f.d.toNat :: (if f.sz = 4 then [f.d.toNat + 1] else [])
  | .vld f | .vlds f | .vldx f | .vatom f => [vKey f.d.toNat]
  | .mld f => [mKey f.d.toNat]
  | .fetst f | .aadd f | .aand f | .aor f | .axor f | .amin f | .amax f | .aswp f | .acas f | .acq f | .arv f | .sgen f
  | .waita f => [f.d.toNat]
  | .acas2 f => [f.d.toNat, f.d.toNat + 1]
  | .mxj f | .cpj f | .jpoll f | .jwait f | .jcan f | .send f | .launch f | .ccnt f | .cancel f => [f.d.toNat]
  | .recv f => f.d.toNat :: keyRun f.f.toNat 8
  | .gcall f => [f.st.toNat]
  | .tret _ => keyRun 1 8 ++ [fsKey]
  | .dinfo f => [f.st.toNat]
  | _ => []

/-- The registers a slot writes, whatever else is wrong with it: the opcode's format decides the fields (R229). -/
def slotWrites (b : Slot96) : List Nat := match rawDecode b with | some i => regWrites i | none => []

/-- The two slots of a group break a rule of R79. Register 0 is written by no instruction. -/
def groupIllegal (b1 b2 : Slot96) : Bool :=
  let sameClass := match classOf (slotOp b1), classOf (slotOp b2) with
    | some .any, _ => false
    | _, some .any => false
    | some c, some c' => c == c'
    | _, _ => false
  let shared := (slotWrites b1).any (fun k => k != 0 && (slotWrites b2).contains k)
  let alone := (issuesAlone (slotOp b1) && slotOp b2 != 1) || (issuesAlone (slotOp b2) && slotOp b1 != 1)
  sameClass || shared || alone

/-! ### Units and holds (R82, R140, R277, R314) -/

/-- An instruction that works at half rate: ty f64, or `vcvt` with f64 on either side (R277); no mask instruction, whose ty sets N
alone (R296). -/
def halfRate (b : Slot96) : Bool :=
  let op := slotOp b
  let ty := ElemTy.ofBits (b.extractLsb' 51 4)
  decide (0x40 ≤ op) && decide (op < 0x70) && (ty == .f64 || (op == 0x4E && b.extractLsb' 55 4 == 3))

/-- The units of a slot's quadrant let it issue in this cycle. -/
def unitFree (s : State) (key : Nat) (b : Slot96) : Bool :=
  let op := slotOp b
  let q := keyQuad key
  (!(op == 0x06 || op == 0x07) || decide (tabGet 0 q s.cores.divFree ≤ s.clock))
    && (!(op == 0x46 || op == 0x47) || decide (tabGet 0 q s.cores.vdivFree ≤ s.clock))
    && (classOf op != some .vector || decide (tabGet 0 q s.cores.pipeFree ≤ s.clock))

/-- What an issued slot takes of its quadrant's units. -/
def takeUnits (s : State) (key : Nat) (b : Slot96) : State :=
  let op := slotOp b
  let q := keyQuad key
  let half := halfRate b
  let c := s.cores
  let c1 := if op == 0x06 || op == 0x07 then { c with divFree := tabPut 0 q (s.clock + 24) c.divFree } else c
  let c2 := if op == 0x46 || op == 0x47 then
      { c1 with vdivFree := tabPut 0 q (s.clock + (if half then 16 else 8)) c1.vdivFree } else c1
  { s with cores := if half then { c2 with pipeFree := tabPut 0 q (s.clock + 2) c2.pipeFree } else c2 }

/-- A slot performs an access of memory: one of the memory class, or `ccnt`, whose read is performed at issue. -/
def accesses (b : Slot96) : Bool := classOf (slotOp b) == some .memory || slotOp b == 0xC4

/-- A memory-class group behind a fence waits for the task's accesses and retry entries, or for its reads alone
(R314); and behind an acquire whose value is not bound yet (R113). `ccnt` keeps the same order (R119, log entry 70). -/
def fenceHolds (s : State) (key : Nat) (t : Task) (b : Slot96) : Bool :=
  accesses b &&
    ((accessesOf s key).any (fun a => a.2.acquire) || (t.fenceAll && (!(accessesOf s key).isEmpty || !t.retry.isEmpty))
      || (t.fenceReads && ((accessesOf s key).any (fun a => a.2.op != .store) || t.retry.any (fun r => r.reads))))

/-- The scoreboard lets the instructions of a group issue (R80, R82, R140, R314); a faulted acquire holds its task
(R178). `again`: the group has issued before, when the registers and units it needs were free. -/
def canIssue (s : State) (key : Nat) (t : Task) (again : Bool) (bits : List Slot96) (is : List Instr) : Bool :=
  !t.retry.any (fun r => r.acquire)
    && (again || is.all (fun i => (regReads i ++ regWrites i).all (fun k => k == 0 || regReady s.clock t k)))
    && bits.all (fun b => (again || unitFree s key b) && !fenceHolds s key t b)

end Sys2Proof.Machine
end

