-- ==== Sys2Proof/Machine/Fetch.lean ====
section
/-!
DEFINITION. Instruction fetch (R72, R76, R77, R223 to R227): the instruction cache of a core, the check of a line as it
enters a slot's fetch buffer, the slots of a group, and breakpoints (R217).
-/

namespace Sys2Proof.Machine

/-! ### Lines (R223, R224) -/

/-- The line word. -/
def lineWord (l : BitVec 512) : Nat := l.toNat % 2 ^ 32
/-- Slot k of a line. -/
def lineSlot (l : BitVec 512) (k : Nat) : Slot96 := l.extractLsb' (32 + 96 * k) 96
/-- Bit k of BT: the slot is a legal branch target. -/
def btBit (l : BitVec 512) (k : Nat) : Bool := decide (k < 5) && natBit (lineWord l) k
/-- Bit j of PT: slots j and j + 1 form one group. -/
def ptBit (l : BitVec 512) (j : Nat) : Bool := decide (j < 4) && natBit (lineWord l) (5 + j)

/-- XOR of the `n` low bits. -/
def parity (v : Nat) : Nat → Bool
  | 0 => false
  | n + 1 => v.testBit n != parity v n

/-- LP and the five SP bits hold (R224, R225). -/
def parityOk (l : BitVec 512) : Bool :=
  parity (lineWord l) 15 == false
    && (upTo 5).all (fun k => natBit (lineWord l) (9 + k) == parity (lineSlot l k).toNat 96)

/-- What a line that passes parity is then refused for: the cause of lowest rank (R225, R169). -/
def lineCause (l : BitVec 512) : Option Cause :=
  let w := lineWord l
  if (upTo 3).any (fun j => ptBit l j && ptBit l (j + 1)) || (upTo 4).any (fun j => ptBit l j && btBit l (j + 1)) then
    some .control
  else if natBits w 15 17 != 0 then some .illegalInstr
  else none

/-- The line word an assembler writes for five slots, with the given BT and PT (R224). -/
def makeLineWord (slots : List Slot96) (bt pt : Nat) : Nat :=
  let sp := (slots.zip (upTo 5)).foldl (fun a x => a + (if parity x.1.toNat 96 then 2 ^ x.2 else 0)) 0
  let low := bt + 32 * pt + 512 * sp
  low + (if parity low 14 then 2 ^ 14 else 0)

/-- A line from its word and slots. -/
def makeLine (slots : List Slot96) (bt pt : Nat) : BitVec 512 :=
  BitVec.ofNat 512 (makeLineWord slots bt pt
    + (slots.zip (upTo 5)).foldl (fun a x => a + x.1.toNat * 2 ^ (32 + 96 * x.2)) 0)

/-! ### The instruction cache (R72, R76) -/

/-- Key of the set a line falls in: 256 sets per core. -/
def icSet (core line : Nat) : Nat := core * 256 + line / 64 % 256
/-- The cached line, if present for the ASID. -/
def icLookup (s : State) (core asid line : Nat) : Option ICLine :=
  (tabGet [] (icSet core line) s.cores.icache).find? (fun l => l.asid == asid && l.line == line)
/-- Put a line first in its set of 4, least recently used last. -/
def icTouch (s : State) (core : Nat) (l : ICLine) : State :=
  let k := icSet core l.line
  let set := (tabGet [] k s.cores.icache).filter (fun x => !(x.asid == l.asid && x.line == l.line))
  { s with cores := { s.cores with icache := tabPut [] k ((l :: set).take 4) s.cores.icache } }
/-- Discard a line of an ASID from a core's instruction cache. -/
def icDiscard (s : State) (core asid line : Nat) : State :=
  let k := icSet core line
  { s with cores := { s.cores with
      icache := tabPut [] k ((tabGet [] k s.cores.icache).filter (fun x => !(x.asid == asid && x.line == line)))
        s.cores.icache } }

/-- Request a line from L2, unless it is present or in flight (R76, R77). -/
def icRequest (s : State) (core asid line : Nat) : State :=
  if (icLookup s core asid line).isSome || s.cores.filling.contains (core, asid, line) then s
  else { s with cores := { s.cores with filling := (core, asid, line) :: s.cores.filling } }

/-- The requested line arrives (R76): as memory holds it, if its page translates as executable; where it does not, the walk
alone has been made. Its read of the
slice is logged under the tag of a slot that waits for the line, zero when none does (R222, log entry 68). -/
def icFill (s : State) (core asid line : Nat) : State :=
  if !s.cores.filling.contains (core, asid, line) then s
  else
    let s1 := { s with cores := { s.cores with
      filling := s.cores.filling.filter (fun x => x != (core, asid, line)) } }
    match xlatFetch s1 core asid line with
    | .ok pa l =>
      let tag := match s.tasks.find? (fun e => keyCore e.1 == core && e.2.asid == asid && pcLine e.2.pc == line) with
        | some e => e.2.wtag.toNat
        | none => 0
      let s2 := lineIn s1 asid pa
      icTouch (sliceLog (coreFill s2 core asid asid line) asid asid .read tag pa l) core
        { asid := asid, line := line, data := BitVec.ofNat 512 (physNat s2.mem pa 64)
          poisoned := poisonAt s2.mem.poison pa 64 }
    | _ => coreFill s1 core asid asid line

/-! ### The fetch buffer (R225) -/

/-- What a slot's fetch comes to. -/
inductive Fetched where
  /-- The line is in the buffer. -/
  | line (s : State) (l : BitVec 512)
  /-- It is on its way. -/
  | wait (s : State)
  /-- The fetch raises a cause; with the line, where it is there to be read. -/
  | trap (s : State) (tr : Trap) (l : Option (BitVec 512))

/-- The task's first fetch at an entry, handler or cleanup PC finds the slot's BT bit clear (R226). -/
def entryBad (t : Task) (l : BitVec 512) : Bool := t.entryCheck && !btBit l (pcSlot t.pc)

/-- The slots of the group at a PC of its line (R224), and their PCs; none where the PC names no slot. -/
def groupSlots (l : BitVec 512) (pc : Word) : List (Slot96 × Word) :=
  let j := pcSlot pc
  if 5 ≤ j || !pcForm pc then []
  else (lineSlot l j, pc) :: (if ptBit l j then [(lineSlot l (j + 1), pc + 1)] else [])

/-- The group at a task's PC raises CONTROL before anything in it is decoded: an entry without its BT bit (R226), no slot of the
line, or a pair that breaks R79. -/
def groupControl (t : Task) (l : BitVec 512) : Bool :=
  entryBad t l || match (groupSlots l t.pc).map (·.1) with
    | [] => true
    | [b1, b2] => groupIllegal b1 b2
    | _ => false

/-- Bring the line of a task's PC into its fetch buffer, checking it as it enters (R76, R77, R225). A fetch that R96
refuses reports the line's address and its 64 bytes (log entry 68). -/
def fetchLine (s : State) (key : Nat) (t : Task) : Fetched :=
  let core := keyCore key
  let line := pcLine t.pc
  match t.fbuf with
  | some (a, l) => if a = line then .line s l else fetchNew core line
  | none => fetchNew core line
where
  /-- The slot's second copy of a line, or none. -/
  again (s : State) (a : Option (Nat × Nat × Nat)) : State := modTask s key (fun t => { t with refetch := a })
  /-- The buffer holds another line. -/
  fetchNew (core line : Nat) : Fetched :=
    match icLookup s core t.asid line with
    | none =>
      match xlatFetch s core t.asid line with
      | .perm => .trap (again s none) { cause := .perm, addr := line, info := 64 } none
      | .fault =>
        -- The walk has read its entries (R97, R222).
        .trap (again (coreFill s core t.asid t.asid line) none) { cause := .fetchFault } none
      | .ok _ _ => .wait (icRequest s core t.asid line)
    | some l =>
      if l.poisoned || !parityOk l.data then
        let s1 := icDiscard s core t.asid line
        if t.refetch = some (core, t.asid, line) then .trap (again s1 none) { cause := .fetchParity } (some l.data)
        else .wait (icRequest (again s1 (some (core, t.asid, line))) core t.asid line)
      else
        let s1 := icTouch (again s none) core l
        match lineCause l.data with
        | some c => .trap s1 { cause := if groupControl t l.data then .control else c } (some l.data)
        | none => .line (modTask s1 key (fun t => { t with fbuf := some (line, l.data) })) l.data

/-! ### Breakpoints (R217) -/

/-- A breakpoint's or watchpoint's domain and GTID match. -/
def unitMatches (u : DebugUnit) (asid : Nat) (gtid : Word) : Bool :=
  u.asid == asid && (gtid ^^^ u.gtid) &&& u.gmask == 0

/-- The breakpoints that match a group whose slots have these PCs: the session, whether the action is TRAP, and whether the
group's second slot matched. -/
def bpMatches (s : State) (t : Task) (pcs : List Word) : List (Nat × Bool × Bool) :=
  s.hub.sessions.foldl (fun acc e =>
    acc ++ (e.2.bps.filterMap (fun b =>
      if unitMatches b.2 t.asid t.id.gtid && pcs.contains b.2.addr then
        some (e.1, b.2.isTrap, pcs.head? != some b.2.addr)
      else none))) []

/-- The breakpoint that acts on a group: the first that matches. Of those that trap, a match on the first slot is the one
reported (R169, R217). -/
def bpMatch (s : State) (t : Task) (pcs : List Word) : Option (Nat × Bool × Bool) :=
  match bpMatches s t pcs with
  | (x, true, second) :: rest => some (x, true, second && rest.all (fun m => !m.2.1 || m.2.2))
  | m => m.head?

/-- A slot holds `bpt`. -/
def isBpt (b : Slot96) : Bool := match decodeSlot b with | .ok (.bpt _) => true | _ => false

/-- Where in a group a BREAKPOINT arises, of `bpt` or of a match whose action is TRAP (R217): in its second slot, or its
first. -/
def breakIn (s : State) (t : Task) (g : List (Slot96 × Word)) : Option Bool :=
  match g.find? (fun x => isBpt x.1), (if t.bpSkip = some t.pc then none else bpMatch s t (g.map (·.2))) with
  | some x, _ => some (x.2 != t.pc)
  | none, some (_, true, second) => some second
  | none, _ => none

/-- Pre-empt a task for a cause, once a register move has ended (R62, R65, R216). A cause in progress absorbs a later
one, but a halt withholds the RESUME whatever the cause (R66, R216). -/
def startPreempt (s : State) (key cause : Nat) : State :=
  modTask s key (fun t =>
    match t.st with
    | .free | .admitted | .ended => t
    | _ =>
      let c := if t.preempt = 0 then cause else t.preempt
      let w := t.withhold || decide (cause = 0x23)
      match t.st with
      | .preempting => { t with withhold := w }
      | .inCall => { t with preempt := c, withhold := w }
      | _ => { t with
          preempt := c, withhold := w, st := .preempting, feWait := none, wantsJob := false, jobGrant := false
          refetch := none, sealing := decide (c = 0x21) && decide (t.st = .ready) })

/-- A debug stop of a task: STOPEVT and one event of function 1's vector 0 (R215). -/
def debugStop (s : State) (session : Nat) (gtid : Word) (cause : Nat) : State :=
  countStop (modHub s (fun h => { h with
    sessions := tabMod session (fun x => { x with stopGtid := gtid, stopCause := cause }) h.sessions }))

end Sys2Proof.Machine
end

