-- ==== Sys2Proof/Machine/Context.lean ====
section
/-!
DEFINITION. Save areas (R65, R183): a task's registers, acquire table, marks, trap frame and scratchpad window written
to its domain's save pool, and read back.
-/

namespace Sys2Proof.Machine

/-- The 32 bytes of an acquire-table entry (R316). -/
def acqBytes (e : AcqEntry) : List Byte :=
  leBytes 8 e.obj ++ leBytes 4 e.gen ++ leBytes 1 e.mode ++ leBytes 1 e.scope ++ leBytes 1 e.depth ++ leBytes 1 1
    ++ leBytes 16 0

/-- The entry the 32 bytes at place `ix` hold, when VALID. -/
def acqOfBytes (ix : Nat) (b : List Byte) : Option AcqEntry :=
  if natBit (recField b 15 1) 0 then
    some { obj := recField b 0 8 % 2 ^ 57, gen := recField b 8 4, mode := recField b 12 1 % 8,
           scope := recField b 13 1 % 8, depth := recField b 14 1 % 16, ix := ix }
  else none

/-- The acquire table of a save area, in the order of age that the hub has kept; an entry it does not know is newest. -/
def acqOfArea (b : List Byte) (old : List AcqEntry) : List AcqEntry :=
  let es := (upTo 8).filterMap (fun i => acqOfBytes i ((b.drop (1088 + 32 * i)).take 32))
  old.filterMap (fun e => es.find? (·.ix == e.ix)) ++ es.filter (fun e => !old.any (·.ix == e.ix))

/-- `n` bytes whose bits are a predicate's values, bit 0 of the first byte first. -/
def bitBytes (n : Nat) (f : Nat → Bool) : List Byte :=
  (upTo n).map (fun j => BitVec.ofNat 8 ((upTo 8).foldl (fun a b => a + (if f (8 * j + b) then 2 ^ b else 0)) 0))

/-- Bytes of a bit map over a window of `n` bytes, one bit per granule. -/
def mapLen (n : Nat) : Nat := (n + 127) / 128

/-- Bytes of a task's save area before rounding (R183). -/
def saveBody (t : Task) : Nat := 2048 + 512 * t.vregs + t.scratch + mapLen t.scratch + 8 + 4 * t.vregs + mapLen t.scratch

/-- Pending marks of a task: its registers on the retry ring (R178, R183). Those of s1 to s8 that have moved into the trap frame are
saved as marks of the scalars, and a mask register has no bit, DESIGN CHOICE (log entry 97). -/
def marked (t : Task) (key : Nat) : Bool := t.retry.any (fun r => r.dests.contains key)

/-- The 64 bytes of an armed monitor (R183): the line's address; how the condition and operands lie in the rest is left
open (log entry 25). -/
def monBytes (t : Task) (free : Nat) : List Byte :=
  match t.mon with
  | some m => leBytes 8 (m.va / 128 * 128) ++ (upTo 7).foldr (fun i a => leBytes 8 (Config.freeWord (free + i)).toNat ++ a) []
  | none => leBytes 64 0

/-- Bytes 0 to 2,047 of a save area (R183), the trap frame given. -/
def saveHead (t : Task) (frame : List Byte) (cause free : Nat) : List Byte :=
  leBytes 8 t.id.gtid.toNat ++ leBytes 8 t.pc.toNat ++ leBytes 8 t.fs.toNat ++ leBytes 8 t.srs.toNat
    ++ leBytes 8 (countWord (if t.clean then t.reserve else t.budget)) ++ leBytes 1 cause
    ++ leBytes 1 (t.depth % 16 + 16 * boolNat t.handler + 32 * boolNat t.clean + 64 * boolNat t.deferredBp.isSome
        + 128 * boolNat (!t.dataFaults.isEmpty))
    ++ leBytes 1 t.vregs ++ leBytes 1 0 ++ leBytes 4 t.scratch ++ leBytes 8 ((t.deferredBp.getD 0).toNat) ++ leBytes 8 0
    ++ ((upTo 64).foldr (fun i a => leBytes 8 (getS t.regs i).toNat ++ a) [])
    ++ ((upTo 8).foldr (fun i a => leBytes 64 (getM t.regs i).toNat ++ a) [])
    ++ ((upTo 8).foldr (fun i a => (match t.acq.find? (·.ix == i) with | some e => acqBytes e | none => leBytes 32 0) ++ a) [])
    ++ monBytes t free ++ bitBytes 8 (marked t) ++ bitBytes 8 (fun i => marked t (vKey i))
    ++ (if t.handler then frame else leBytes 256 0)
    ++ leBytes 8 t.icount ++ leBytes 3 t.wtag.toNat ++ leBytes 1 t.regs.mPoi.toNat ++ leBytes 356 0

/-- The scratchpad window of a task in slot `key`. -/
def windowBytes (s : State) (key : Nat) (t : Task) : List Byte :=
  bytesAt s.cores.spad (spadKey (keyCore key) t.sbase) t.scratch

/-- The bytes of a task's trap frame, when it is in handler mode. -/
def savedFrame (s : State) (key : Nat) (t : Task) : List Byte :=
  match (if t.handler then vread s t.asid (trapFrameVa s t.asid key) 256 else none) with
  | some (b, _) => b
  | none => leBytes 256 0

/-- All bytes of a task's save area (R183); its trap frame when it is in handler mode. -/
def saveBytes (s : State) (key : Nat) (t : Task) (cause : Nat) : List Byte :=
  let frame := savedFrame s key t
  let g := granKey (keyCore key) t.sbase
  saveHead t frame cause s.free
    ++ ((upTo t.vregs).foldr (fun i a => leBytes 512 (getV t.regs i).toNat ++ a) [])
    ++ windowBytes s key t
    ++ bitBytes (mapLen t.scratch) (fun i => decide (16 * i < t.scratch) && tabGet false (g + i) s.cores.full)
    ++ leBytes 8 t.regs.sPoi.toNat
    ++ ((upTo t.vregs).foldr (fun i a => leBytes 4 (poiV t.regs i).toNat ++ a) [])
    ++ bitBytes (mapLen t.scratch) (fun i => decide (16 * i < t.scratch) && tabGet false (g + i) s.cores.spadPoi)

/-- What a save area's write comes to. -/
inductive Saving where
  | done (s : State) (va : Nat)
  /-- No area is free (R183, R195). -/
  | noRoom
  /-- A page of it is not valid, writable and PIN (R182). -/
  | pinned (va : Nat)

/-- Write a task's state to a free save area of the domain it runs in (R65, R162, R183). -/
def saveTask (s : State) (key : Nat) (t : Task) (cause : Nat) : Saving :=
  match savePoolTake s t.asid (saveBody t) with
  | none => .noRoom
  | some (va, s1) =>
    match (pinnedFault s t.asid va (saveBody t)).or
        (if t.handler then pinnedFault s t.asid (trapFrameVa s t.asid key) 256 else none) with
    | some bad => .pinned bad
    | none =>
      let s2 := saveFrame (vwrite s1 t.asid va (saveBytes s key t cause)) va
      .done (if t.mon.isSome then { s2 with free := s2.free + 7 } else s2) va
where
  /-- The trap frame keeps its poison in the area (R107, R172). -/
  saveFrame (u : State) (va : Nat) : State :=
    if t.handler then
      vwritePoi u t.asid (va + 1424) (savedFrame s key t) (poiFlags s t.asid (trapFrameVa s t.asid key) 256)
    else u

/-- Registers from a save area's bytes. -/
def savedRegs (b : List Byte) (vregs scratch : Nat) : Regs :=
  let p := 2048 + 512 * vregs + scratch + mapLen scratch
  let r0 : Regs := { sPoi := BitVec.ofNat 64 (recField b p 8), mPoi := BitVec.ofNat 8 (recField b 1691 1) }
  let r1 := (upTo 63).foldl (fun r i => { r with
    s := tabPut 0 (i + 1) (BitVec.ofNat 64 (recField b (64 + 8 * (i + 1)) 8)) r.s }) r0
  let r2 := (upTo 7).foldl (fun r i => { r with
    m := tabPut 0 (i + 1) (BitVec.ofNat 512 (recField b (576 + 64 * (i + 1)) 64)) r.m }) r1
  (upTo vregs).foldl (fun r i => { r with
    v := tabPut 0 i (BitVec.ofNat 4096 (recField b (2048 + 512 * i) 512)) r.v
    vPoi := tabPut 0 i (BitVec.ofNat 32 (recField b (p + 8 + 4 * i) 4)) r.vPoi }) r2

/-- A task as its save area holds it, over what the hub kept of it beside the area. -/
def loadTask (b : List Byte) (t : Task) : Task :=
  let clean := natBit (recField b 41 1) 5
  { t with
    regs := savedRegs b t.vregs t.scratch
    pc := BitVec.ofNat 64 (recField b (if natBit (recField b 41 1) 6 then 48 else 8) 8), fs := BitVec.ofNat 64 (recField b 16 8)
    srs := BitVec.ofNat 64 (recField b 24 8)
    budget := if clean then t.budget else countOf (recField b 32 8) t.budget
    reserve := if clean then recField b 32 8 else t.reserve
    handler := natBit (recField b 41 1) 4, clean := clean
    deferredBp := if natBit (recField b 41 1) 6 then some (BitVec.ofNat 64 (recField b 48 8)) else none
    acq := acqOfArea b t.acq
    icount := recField b 1680 8, wtag := BitVec.ofNat 24 (recField b 1688 3) }

/-- Restore a save area's scratchpad window at a core and base, with its full-empty and poison bits, and its trap frame, whose
bytes in the area are poisoned as `frame` says, at the slot's place (R65, R107, R183). -/
def loadWindow (s : State) (b : List Byte) (frame : List Bool) (t : Task) (key : Nat) : State :=
  let core := keyCore key
  let o := 2048 + 512 * t.vregs
  let fe := o + t.scratch
  let poi := fe + mapLen t.scratch + 8 + 4 * t.vregs
  let put := fun (m : SMap Bool) (at_ : Nat) => (upTo (t.scratch / 16)).foldl (fun m i =>
    tabPut false (granKey core t.sbase + i) (natBit (recField b (at_ + i / 8) 1) (i % 8)) m) m
  let s1 := { s with cores := { s.cores with
    spad := ((b.drop o).take t.scratch |> runOf (spadKey core t.sbase) false).foldl (fun m w => tabPut 0 w.1 w.2.1 m) s.cores.spad
    full := put s.cores.full fe
    spadPoi := put s.cores.spadPoi poi } }
  if t.handler then
    match domOf s1 t.asid with
    | some d => vwritePoi s1 t.asid (d.place.trapVa + 4096 + 256 * key) ((b.drop 1424).take 256) frame
    | none => s1
  else s1

/-- The bytes of a save area. -/
def readArea (s : State) (asid va : Nat) (t : Task) : List Byte :=
  match vread s asid va (saveBody t) with
  | some (b, _) => b
  | none => []

end Sys2Proof.Machine
end

