-- ==== Sys2Proof/Machine/Bench.lean ====
section
/-!
DEFINITION. Benches (R193 to R196): what must hold before one opens, the snapshot of a domain's RESIDENT tasks,
launches and graph walkers, the snapshot list, and the BENCH entry; and what an append to a full log does to the
instruction that needs it (R191).
-/

namespace Sys2Proof.Machine

/-! ### Appending for an instruction -/

/-- Instructions of the acting task counted before the one that executes (R206, R270): the first of its group counts. -/
def ownIcount (s : State) (t : Task) : Nat :=
  t.icount + (if s.grp.second && s.grp.snap.isNone then 1 else 0)

/-- Find room for `n` entries in a domain's log and go on; the writer is held, its domain stops, or the pinned page
stops the task (R182, R190, R191). -/
def withRoom (s : State) (t : Task) (asid n va : Nat) (go : State → Eff) : Eff :=
  match logReserve s asid n with
  | .ok s1 => go s1
  | .stall => .hold
  | .stop s1 code => .holdIn (logStop s1 asid code t.id.gtid va (ownPc s t))
  | .pinned bad => .pinned s bad

/-! ### Replay (R201) -/

/-- A replay stops with a code of R198: the domain's tasks issue nothing more, and the session is told
(R201, R215). -/
def replayHalt (s : State) (asid code : Nat) : State :=
  match domOf s asid with
  | none => s
  | some d =>
    let s1 := modDom s asid (fun d => { d with replay := none, logStopped := true })
    match d.replay with
    | none => s1
    | some g => domainStop (modHub s1 (fun h => { h with
        sessions := tabMod g.session (fun x => { x with status := code, busy := none }) h.sessions })) asid g.gtid

/-- Before an effect of an IRREVOCABLE kind a replay stops with EFFECT_AHEAD, unless it was given FORCE. -/
def effectAhead (s : State) (asid : Nat) : Bool :=
  replaying s asid && match domOf s asid with
    | some d => (match d.replay with | some g => !g.force | none => true)
    | none => false

/-- Go on to an IRREVOCABLE effect on a domain's log, or stop the replay. -/
def effectGate (s : State) (asid : Nat) (go : Eff) : Eff :=
  if effectAhead s asid then .holdIn (replayHalt s asid 6) else go

/-! ### When a bench may open (R194, R195) -/

/-- Keys of the resident tasks whose own domain is `asid`. -/
def domTasks (s : State) (asid : Nat) : List (Nat × Task) := s.tasks.filter (fun e => e.2.home == asid)
/-- Saved tasks whose own domain is `asid`. -/
def domSaved (s : State) (asid : Nat) : List (Nat × Saved) := s.hub.saved.filter (fun e => e.2.task.home == asid)

/-- An engine job of the domain's tasks, or one running in the domain, is in flight. -/
def domJobs (s : State) (asid : Nat) : Bool :=
  s.hub.clusters.any (fun c => c.2.jobs.any (fun j => j.asid == asid || j.gtid.toNat / 2 ^ 54 == asid))

/-- A task of another domain stands at a depth in this one. -/
def foreignInside (s : State) (asid : Nat) : Bool :=
  (allTasks s).any (fun t => t.home != asid && (stackDoms s t).contains asid)

/-- Step 1 of R195, for the issuer in slot `key`: every other task of the domain is at a task boundary, or RESIDENT at
depth 0, and none of another domain is at a depth in this one. -/
def benchQuiet (s : State) (asid key : Nat) : Bool :=
  (domTasks s asid).all (fun e => e.1 == key || (e.2.resident && e.2.depth == 0 && !(e.2.st = .ended)
      && !(e.2.st = .inCall) && !(e.2.st = .preempting)))
    && (domSaved s asid).all (fun e => e.2.task.resident && e.2.task.depth == 0) && !foreignInside s asid

/-- The snapshot of step 2 may be taken: what R65 waits for before a save has ended too, the tasks' engine jobs and accesses. -/
def benchReady (s : State) (asid key : Nat) : Bool :=
  benchQuiet s asid key && (domTasks s asid).all (fun e => (accessesOf s e.1).isEmpty) && !domJobs s asid

/-- The conditions under which AUTO_BENCH opens a bench at a launch's start, but for the graph walkers (R194). -/
def autoBenchReady (s : State) (asid : Nat) : Bool :=
  (domTasks s asid).isEmpty && (domSaved s asid).isEmpty && !domJobs s asid

/-! ### The snapshot (R195, R196) -/

/-- The state of a snapshot while it is taken: the task records so far, or why it stops. -/
inductive Snap where
  | ok (s : State) (tasks : List (Word × Nat))
  | noRoom
  | pinned (va : Nat)

/-- Keep beside a save area what the hub holds of its task. -/
def keepSnap (s : State) (asid va : Nat) (t : Task) : State :=
  modHub s (fun h => { h with snaps := tabSet (asid * 2 ^ 57 + va) t h.snaps })

/-- Save one resident task into the snapshot. -/
def snapResident (acc : Snap) (e : Nat × Task) : Snap :=
  match acc with
  | .ok s l =>
    match saveTask s e.1 e.2 0 with
    | .done s1 va => .ok (keepSnap s1 e.2.asid va e.2) (l ++ [(e.2.id.gtid, va)])
    | .noRoom => .noRoom
    | .pinned va => .pinned va
  | r => r

/-- Copy a saved RESIDENT task's area into the snapshot, its CAUSE 0. -/
def snapSaved (asid : Nat) (acc : Snap) (e : Nat × Saved) : Snap :=
  match acc with
  | .ok s l =>
    let n := saveBody e.2.task
    let b := readArea s e.2.area e.2.addr e.2.task
    match savePoolTake s asid n with
    | none => .noRoom
    | some (va, s1) =>
      match pinnedFault s asid va n with
      | some bad => .pinned bad
      | none =>
        let s2 := vwrite s1 asid va (b.take 40 ++ leBytes 1 0 ++ b.drop 41)
        let s2 := if e.2.task.handler then
            vwritePoi s2 asid (va + 1424) ((b.drop 1424).take 256) (poiFlags s e.2.area (e.2.addr + 1424) 256) else s2
        .ok (keepSnap s2 asid va e.2.task) (l ++ [(e.2.task.id.gtid, va)])
  | r => r

/-- Launches of a domain accepted and not finished. -/
def domLaunches (s : State) (asid : Nat) : List (Nat × Launch) :=
  s.hub.launches.filter (fun e => e.2.asid == asid)
/-- Graph walkers of a domain that have not reached END. -/
def domWalkers (s : State) (asid : Nat) : List (Nat × Walker) :=
  s.hub.walkers.filter (fun e => e.2.asid == asid && e.2.state != .done)

/-- A launch as a snapshot keeps it: the tasks dispatched and not admitted are to be dispatched again. -/
def snapLaunch (s : State) (e : Nat × Launch) : Launch :=
  let held := (s.hub.msgs.filter (fun m => m.2.kind = .taskStart && m.2.ref == e.1)).map
    (fun m => natBits m.2.payload.toNat 0 32)
  let boxed := (s.cores.inbox.foldr (fun b a => b.2 ++ a) []).filterMap
    (fun m => if m.kind = .taskStart && m.ref == e.1 then some (natBits m.payload.toNat 0 32) else none)
  { e.2 with redo := e.2.redo ++ boxed ++ held }

/-- The 32 bytes of a launch in a snapshot list. -/
def snapLaunchBytes (l : Launch) : List Byte :=
  leBytes 8 l.record ++ leBytes 4 l.serial ++ leBytes 4 0
    ++ (upTo 4).foldr (fun d a => leBytes 4 ((l.next[d]?).getD 0) ++ a) []
/-- The 32 bytes of a walker in a snapshot list. -/
def snapWalkerBytes (w : Walker) : List Byte :=
  leBytes 8 w.first ++ leBytes 8 w.block ++ leBytes 4 w.pos ++ leBytes 4 w.arms ++ leBytes 1 (boolNat w.snap)
    ++ leBytes 7 0

/-- Write a snapshot list: its address, or why it stops. -/
def writeList (s : State) (asid n : Nat) (tasks : List (Word × Nat)) : Saving :=
  let ls := (domLaunches s asid).map (fun e => (e.1, snapLaunch s e))
  let ws := domWalkers s asid
  let bytes := leBytes 4 n ++ leBytes 4 tasks.length ++ leBytes 4 ls.length ++ leBytes 4 ws.length
    ++ tasks.foldr (fun e a => leBytes 8 e.1.toNat ++ leBytes 8 e.2 ++ a) []
    ++ ls.foldr (fun e a => snapLaunchBytes e.2 ++ a) []
    ++ ws.foldr (fun e a => snapWalkerBytes e.2 ++ a) []
  match savePoolTake s asid bytes.length with
  | none => .noRoom
  | some (va, s1) =>
    match pinnedFault s asid va bytes.length with
    | some bad => .pinned bad
    | none =>
      let at0 := asid * 2 ^ 57 + va + 16 + 16 * tasks.length
      let s2 := vwrite s1 asid va bytes
      .done (modHub s2 (fun h => { h with
        snapLaunches := (ls.zip (upTo ls.length)).foldl (fun m e => tabSet (at0 + 32 * e.2) e.1 m) h.snapLaunches
        snapWalkers := (ws.zip (upTo ws.length)).foldl
          (fun m e => tabSet (at0 + 32 * (ls.length + e.2)) e.1 m) h.snapWalkers })) va

/-- The snapshot of a domain and its list, for bench n: the list's address and the number of tasks. -/
def takeSnapshot (s : State) (asid n : Nat) : Saving × Nat :=
  let r1 := (domTasks s asid).foldl snapResident (.ok s [])
  match (domSaved s asid).foldl (snapSaved asid) r1 with
  | .noRoom => (.noRoom, 0)
  | .pinned va => (.pinned va, 0)
  | .ok s1 tasks => (writeList s1 asid n tasks, tasks.length)

/-- Append the BENCH entry of a bench and advance CURBENCH (R193, R195). -/
def openBench (s : State) (asid tag n ntask list : Nat) (gtid : Word) (icount : Nat) : State :=
  let s1 := (logAppend s asid [benchEntry tag n ntask list gtid icount]).1
  let c := { readLog s1 asid with curBench := n }
  modDom (writeLog s1 asid c) asid (fun d => { d with
    benchSerial := tabSet n d.serial (d.benchSerial.filter (fun e => decide (c.oldBench ≤ e.1))) })

/-- The number of the recorded BENCH entry of a `bench` that is replayed (R195): that of its issuer at its instruction
count, or else the next one. -/
def recordedBench (s : State) (asid : Nat) (gtid : Word) (icount : Nat) : Nat :=
  let c := readLog s asid
  let n := (c.histEnd + seqMod - c.headSeq) % seqMod
  match (upTo n).find? (fun i =>
      let e := readEntry s asid c ((c.headSeq + i) % seqMod)
      e.kind == kBench && recField e.body 16 8 == gtid.toNat && recField e.body 24 8 == icount) with
  | some i => recField (readEntry s asid c ((c.headSeq + i) % seqMod)).body 0 4
  | none => c.curBench + 1

/-! ### The queue of issuers (R271) -/

/-- A waiting issuer still stands at its `bench`. -/
def benchWaits (s : State) (e : BenchWait) : Bool :=
  match taskAt s e.slot with
  | some t => t.st = .ready && t.id.gtid == e.gtid && t.pc == e.pc
  | none => false

/-- The issuers that wait, in the order they are served. -/
def benchLine (s : State) (asid : Nat) : List BenchWait :=
  match domOf s asid with
  | some d => d.benchQ.filter (benchWaits s)
  | none => []

/-- A task has stopped after its group for a bench that another one opens, which is past step 1 (R195). -/
def benchStops (s : State) (t : Task) : Bool :=
  match benchLine s t.home with
  | e :: _ => e.gtid != t.id.gtid && benchQuiet s t.home e.slot
  | [] => false

end Sys2Proof.Machine
end

