-- ==== Sys2Proof/Machine/Mxe.lean ====
section
/-!
DEFINITION. The MXE's arithmetic (R142 to R147, R326): the parameters of a job, where its elements lie, chunk sums,
quantised groups, integer products, and the counters of a job.
-/

namespace Sys2Proof.Machine

/-- The parameters of an MXE job (R325). -/
structure MxeShape where
  m : Nat
  n : Nat
  k : Nat
  acc : Bool
  sat : Bool
  ta : ElemTy
  tb : ElemTy
  tc : ElemTy
  g : Nat
  zw : Bool
  sparse : Bool
  sealed : Bool
  deriving DecidableEq, Repr

/-- The parameters frame words f+3 and f+4 hold. -/
def MxeShape.ofFrame (f3 f4 : Nat) : MxeShape :=
  let ty := fun (lo : Nat) => ElemTy.ofBits (BitVec.ofNat 4 (natBits f4 lo 4))
  { m := natBits f3 0 16, n := natBits f3 16 16, k := natBits f3 32 16, acc := natBit f3 48, sat := natBit f3 49
    ta := ty 0, tb := ty 4, tc := ty 8, g := natBits f4 12 2, zw := natBit f4 14, sparse := natBit f4 15
    sealed := natBit f4 16 }

/-- The group size G names. -/
def MxeShape.group (p : MxeShape) : Nat := 16 * 2 ^ p.g

/-- The type combinations of R142. -/
def MxeShape.typesOk (p : MxeShape) : Bool :=
  let half := fun (t : ElemTy) => t == .bf16 || t == .f16
  let quarter := fun (t : ElemTy) => t == .e4m3 || t == .e5m2
  let byte := fun (t : ElemTy) => t == .i8 || t == .n8
  let nibble := fun (t : ElemTy) => t == .i4 || t == .n4
  let cFloat := p.tc == .f32 || half p.tc
  if p.g ≠ 0 then
    half p.ta && (p.tb == .n4 || p.tb == .n8) && cFloat && !p.sparse && p.zw == (p.tb == .n8)
  else
    (half p.ta && p.ta == p.tb && cFloat) || (quarter p.ta && quarter p.tb && cFloat)
      || (byte p.ta && byte p.tb && p.tc == .i32) || (nibble p.ta && nibble p.tb && p.tc == .i32)

/-- Bytes of A, of B as stored, of C, and of the scale or index table (R326). -/
def MxeShape.aLen (p : MxeShape) : Nat := p.m * p.k * p.ta.width / 8
/-- See `MxeShape.aLen`. -/
def MxeShape.bLen (p : MxeShape) : Nat := (if p.sparse then p.k / 2 else p.k) * p.n * p.tb.width / 8
/-- See `MxeShape.aLen`. -/
def MxeShape.cLen (p : MxeShape) : Nat := p.m * p.n * p.tc.width / 8
/-- See `MxeShape.aLen`. -/
def MxeShape.auxLen (p : MxeShape) : Nat :=
  if p.g ≠ 0 then 4 * (p.k / p.group) * p.n else if p.sparse then p.k / 4 * p.n / 2 else 0

/-- A byte of an operand with its poison; none when the stationary port could not authenticate it (R48). -/
abbrev OpByte := Option (Byte × Bool)

/-- Element `i` of `w` bits of an operand: its value and poison. -/
def opElem (bs : Array OpByte) (w i : Nat) : Option (Nat × Bool) :=
  let lo := i * w / 8
  let n := (w + 7) / 8
  (upTo n).foldr (fun j acc => match acc, (bs[lo + j]?).getD (some (0, false)) with
    | some (v, p), some (b, q) => some (b.toNat + 256 * v, p || q)
    | _, _ => none) (some (0, false)) |>.map (fun x => (if w = 4 then x.1 / 16 ^ (i % 2) % 16 else x.1, x.2))

/-- The operands of a job. -/
structure MxeOps where
  a : Array OpByte
  b : Array OpByte
  c : Array OpByte
  aux : Array OpByte

/-- Element B[k][n], its poison, and whether the index table entry that places it is good; none when a byte it rests on
is not authentic (R145, R326). -/
def bElem (p : MxeShape) (o : MxeOps) (k n : Nat) : Option (Nat × Bool × Bool) :=
  if !p.sparse then (opElem o.b p.tb.width (k * p.n + n)).map (fun x => (x.1, x.2, true))
  else
    let j := k / 4
    match opElem o.aux 4 (j * p.n + n), opElem o.b p.tb.width (2 * j * p.n + n),
        opElem o.b p.tb.width ((2 * j + 1) * p.n + n) with
    | some (ix, pi), some (v0, p0), some (v1, p1) =>
      let lo := ix % 4
      let hi := ix / 4 % 4
      let good := decide (lo < hi)
      if k % 4 = lo then some (v0, p0 || pi, good)
      else if k % 4 = hi then some (v1, p1 || pi, good)
      else some (0, pi, good)
    | _, _, _ => none

/-! ### Floating-point elements (R143, R144) -/

/-- A value rounded into FP32 by rne, and whether that made an infinity of a finite value (R147 OVF). -/
def roundF32 (x : Exact) : Nat × Bool :=
  let r := roundTo fp32 {} x
  (r.1, match x with | .val _ _ _ _ => r.1 % 2 ^ 31 == fp32.inf | _ => false)

/-- Products of a chunk: a zero operand makes a zero product, whatever the other is. -/
def chunkProducts (ps : List (FVal × FVal)) : List Exact :=
  ps.map (fun x => if x.1.isZero || x.2.isZero then .zero false else fmul x.1 x.2)

/-- The exponent of a product's leading bit. -/
def prodExp : Exact → Option Int
  | .val _ m e _ => some ((m.log2 : Int) + e)
  | _ => none

/-- ChunkSum (R143): the FP32 sum and whether it overflowed. -/
def chunkSum (ps : List (FVal × FVal)) : Nat × Bool :=
  let xs := chunkProducts ps
  let nan := xs.any (fun x => match x with | .nan _ => true | _ => false)
  let pinf := xs.contains (.inf false 0)
  let ninf := xs.contains (.inf true 0)
  if nan || (pinf && ninf) then (fp32.nan, false)
  else if pinf then (fp32.inf, false)
  else if ninf then (fp32.signed true fp32.inf, false)
  else
    match xs.filterMap prodExp with
    | [] => (0, false)
    | x :: rest =>
      let e := rest.foldl max x
      let acc : Int := xs.foldl (fun a x => match x with
        | .val neg m e' _ =>
          let sh := e' + 64 - e
          let v : Nat := if 0 ≤ sh then m * 2 ^ sh.toNat else m / 2 ^ (-sh).toNat
          a + (if neg then -(v : Int) else v)
        | _ => a) 0
      if acc = 0 then (0, false) else roundF32 (.val (decide (acc < 0)) acc.natAbs (e - 64) false)

/-- An exact sum of finite values: mantissa and exponent. -/
def dyadicSum (xs : List (Int × Int)) : Int × Int :=
  let e := xs.foldl (fun a x => min a x.2) 0
  (xs.foldl (fun a x => a + x.1 * 2 ^ (x.2 - e).toNat) 0, e)

/-- A finite operand as mantissa and exponent. -/
def FVal.dyadic : FVal → Int × Int
  | .fin neg m e => (if neg then -(m : Int) else m, e)
  | _ => (0, 0)

/-- QuantChunk (R144): A and q of a group, its scale and zero point. -/
def quantChunk (ps : List (FVal × Nat)) (sc : FVal) (z : Nat) : Nat × Bool :=
  let bad := fun (x : FVal) => x.isNan || x.isInf
  if bad sc || ps.any (fun x => bad x.1) then (fp32.nan, false)
  else
    let big := dyadicSum (ps.map (fun x => (x.1.dyadic.1 * ((x.2 : Int) - z), x.1.dyadic.2)))
    let v := sc.dyadic.1 * big.1
    if v = 0 then (0, false) else roundF32 (.val (decide (v < 0)) v.natAbs (sc.dyadic.2 + big.2) false)

/-- What one C element comes to: its encoding, whether it counts under OVF, NAN and SAT (R147). -/
structure MxeResult where
  val : Nat
  ovf : Bool := false
  nan : Bool := false
  sat : Bool := false
  deriving DecidableEq, Repr

/-- MxeElement (R143): chunk sums added in order to the FP32 value of C, and the final rounding. -/
def mxeFloat (p : MxeShape) (c0 : Nat) (chunks : List (Nat × Bool)) : MxeResult :=
  let cv := fdecode (fmtOf p.tc) c0
  let start := (roundF32 (.ofVal cv)).1
  let r := chunks.foldl (fun (a : Nat × Bool) ch =>
    let x := roundF32 (fadd false (fdecode fp32 a.1) (fdecode fp32 ch.1))
    (x.1, a.2 || ch.2 || x.2)) (start, false)
  let v := fdecode fp32 r.1
  let f := fmtOf p.tc
  let out := roundTo f { sat := p.sat } (.ofVal v)
  let tooBig := natBit out.2 2
  { val := out.1, ovf := r.2 || (tooBig && !p.sat), nan := (fdecode f out.1).isNan && !cv.isNan, sat := tooBig && p.sat }

/-- An integer element (R146): exact, its low 32 bits written. -/
def mxeInt (c0 : Nat) (sum : Int) : MxeResult :=
  let z := sval 32 c0 + sum
  { val := wrapNat 32 z, ovf := decide (z < -(2 ^ 31)) || decide ((2 ^ 31 : Int) ≤ z) }

/-! ### One element of a job -/

/-- The outcome of one C element: its result and poison, or the status that ends the job (1 SHAPE, 8 WEIGHT_AUTH). -/
inductive MxeElem where
  | done (r : MxeResult) (poi : Bool)
  | fail (code : Nat)
  deriving DecidableEq, Repr

/-- The terms of C[m][n]: A and B of every k, with their poison; none when a byte is not authentic or an index table
entry is bad. -/
def mxeTerms (p : MxeShape) (o : MxeOps) (m n : Nat) : Except Nat (List (Nat × Nat) × Bool) :=
  (upTo p.k).foldr (fun k acc => match acc, opElem o.a p.ta.width (m * p.k + k), bElem p o k n with
    | .ok (l, q), some (a, pa), some (b, pb, good) => if good then .ok ((a, b) :: l, q || pa || pb) else .error 1
    | .ok _, _, none => .error 8
    | .ok _, none, _ => .error 8
    | e, _, _ => e) (.ok ([], false))

/-- Consecutive chunks of `n`. -/
def chunksBy {α : Type} (n : Nat) : Nat → List α → List (List α)
  | 0, _ => []
  | fuel + 1, l => if l.isEmpty then [] else l.take n :: chunksBy n fuel (l.drop n)

/-- The chunk sums of a quantised element, and the poison of the scales used. Under n4 bits 3:0 of a zero point count, DESIGN CHOICE
(log entry 26). -/
def quantChunks (p : MxeShape) (o : MxeOps) (n : Nat) (terms : List (Nat × Nat)) : Option (List (Nat × Bool) × Bool) :=
  let cs := chunksBy p.group p.k terms
  (cs.zip (upTo cs.length)).foldr (fun x acc =>
    match acc, opElem o.aux 32 (x.2 * p.n + n) with
    | some (l, q), some (w, pw) =>
      let z := natBits w 16 8
      let ch := quantChunk (x.1.map (fun t => (fdecode (fmtOf p.ta) t.1, t.2))) (fdecode fp16 (w % 2 ^ 16))
        (if p.zw then z else z % 16)
      some (ch :: l, q || pw)
    | _, _ => none) (some ([], false))

/-- C[m][n] (R143, R144, R146). -/
def mxeElement (p : MxeShape) (o : MxeOps) (m n : Nat) : MxeElem :=
  let c := if p.acc then (opElem o.c p.tc.width (m * p.n + n)).getD (0, false) else (0, false)
  match mxeTerms p o m n with
  | .error e => .fail e
  | .ok (terms, poi) =>
    if p.tc == .i32 then
      let sum : Int := terms.foldl (fun a t => a + ival p.ta t.1 * ival p.tb t.2) 0
      .done (mxeInt c.1 sum) (poi || c.2)
    else if p.g ≠ 0 then
      match quantChunks p o n terms with
      | none => .fail 8
      | some (chunks, q) => .done (mxeFloat p c.1 chunks) (poi || q || c.2)
    else
      let chunks := (chunksBy 64 p.k terms).map (fun ch =>
        chunkSum (ch.map (fun t => (fdecode (fmtOf p.ta) t.1, fdecode (fmtOf p.tb) t.2))))
      .done (mxeFloat p c.1 chunks) (poi || c.2)

/-- Every C element in row order, up to the first that fails: the results, and the failure. -/
def mxeAll (p : MxeShape) (o : MxeOps) : List (MxeResult × Bool) × Option Nat :=
  let els := (upTo (p.m * p.n)).map (fun i => mxeElement p o (i / p.n) (i % p.n))
  let good := els.takeWhile (fun e => match e with | .done _ _ => true | .fail _ => false)
  (good.filterMap (fun e => match e with | .done r q => some (r, q) | .fail _ => none),
   match els.drop good.length with | .fail c :: _ => some c | _ => none)

end Sys2Proof.Machine
end

