-- ==== Sys2Proof/Machine/EngineJobs.lean ====
section
/-!
DEFINITION. EngineJob (R329) and what its steps do: static checks (R104, R325, R328, R330), the acquire, the range and
umbra checks with ENGINE_PENDING (R210), the transfer (R105, R327, R328), the release, the conversion of pending lines,
and the record with its stamp (R330).
-/

namespace Sys2Proof.Machine

/-! ### The frame -/

/-- Word i of a job's frame. -/
def EngineJob.word (j : EngineJob) (i : Nat) : Nat := ((j.frame[i]?).getD 0).toNat
/-- The cluster a job runs on. -/
def EngineJob.cluster (j : EngineJob) : Nat := coreCluster j.core
/-- A job's writer tag (R206). -/
def EngineJob.tag (j : EngineJob) : Nat := engineTag j.cluster j.copy j.id
/-- REC as the frame gives it: 0 for no record (R325, R328). -/
def EngineJob.rec_ (j : EngineJob) : Nat := if j.copy then j.word 5 else j.word 7 % 2 ^ 51 * 64
/-- SYNC as the frame gives it. -/
def EngineJob.sync (j : EngineJob) : Nat := j.word 6
/-- MXE parameters. -/
def EngineJob.shape (j : EngineJob) : MxeShape := .ofFrame (j.word 3) (j.word 4)

/-- A location (R104): its space, its core, its address or offset, and its ADDR bits. -/
structure EngLoc where
  space : Nat
  core : Nat
  at_ : Nat
  raw : Nat
  deriving DecidableEq, Repr

/-- The location a frame value names; none for one that breaks R104. -/
def locOf (j : EngineJob) (v : Nat) : Option EngLoc :=
  let a := v % 2 ^ 57
  let c := natBits v 39 11
  let mk := fun (sp core : Nat) => some { space := sp, core := core, at_ := a % 2 ^ 18, raw := a : EngLoc }
  if natBits v 57 5 ≠ 0 then none
  else match v / 2 ^ 62 with
    | 0 => some { space := 0, core := 0, at_ := a, raw := a }
    | sp =>
      if natBits v 50 7 ≠ 0 || natBits v 18 21 ≠ 0 then none
      else if sp = 1 then (if c = 0 then mk 1 j.core else none)
      else if sp = 2 then (if c < 8 then mk 2 (j.cluster * 8 + c) else none)
      else mk 3 c

/-- Rows of a copy, its row length and strides (R328). -/
def EngineJob.rowBytes (j : EngineJob) : Nat := j.word 2 % 2 ^ 32
/-- See `EngineJob.rowBytes`. -/
def EngineJob.rows (j : EngineJob) : Nat := natBits (j.word 2) 32 16
/-- See `EngineJob.rowBytes`. -/
def EngineJob.sstr (j : EngineJob) : Int := sval 32 (j.word 3)
/-- See `EngineJob.rowBytes`. -/
def EngineJob.dstr (j : EngineJob) : Int := sval 32 (j.word 3 / 2 ^ 32)
/-- MCAST of a copy. -/
def EngineJob.mcast (j : EngineJob) : Nat := j.word 4 % 256
/-- FILL0. -/
def EngineJob.fill (j : EngineJob) : Bool := natBit (j.word 4) 8

/-- Destinations of a copy: one, or every core the mask names (R105). -/
def copyDests (j : EngineJob) : List EngLoc :=
  match locOf j (j.word 1) with
  | none => []
  | some l =>
    if j.mcast = 0 then [l]
    else ((upTo 8).filter (natBit j.mcast)).map (fun i =>
      { l with core := j.cluster * 8 + i, raw := l.at_ + 2 ^ 39 * i })

/-! ### StaticCheck (R330) -/

/-- The first in address order of the addresses of a frame that break their alignment (R329, R330): multiples of 16, and of 32
for SYNC; addresses of different spaces are ordered by their ADDR bits (log entry 42). -/
def unaligned (j : EngineJob) (vs : List Nat) : Option Nat :=
  (vs.filter (fun v => v % 16 != 0) ++ if j.aq && j.sync % 32 != 0 then [j.sync] else []).foldl
    (fun a v => match a with | none => some v | some b => some (min b v)) none

/-- StaticCheck of an MXE job: the code and DETAIL. Bits 63:57 of AUX, REC and SYNC are no reserved frame bits: an address
with one set is refused when it is used (R89). -/
def staticMxe (j : EngineJob) : Nat × Nat :=
  let p := j.shape
  let a := locOf j (j.word 0)
  let b := locOf j (j.word 1)
  let c := locOf j (j.word 2)
  let aux := j.word 5
  let bSpace := match b with | some l => l.space != 0 | none => true
  if p.m % 16 ≠ 0 || p.m < 16 || 1024 < p.m || p.n % 16 ≠ 0 || p.n < 16 || 256 < p.n || p.k % 16 ≠ 0 || p.k < 16
      || natBits (j.word 3) 50 14 ≠ 0 || natBits (j.word 4) 17 47 ≠ 0 || natBit (j.word 7) 51 || (p.g ≠ 0 && p.k % p.group ≠ 0) || (p.g = 0 && !p.sparse && aux ≠ 0)
      || a.isNone || c.isNone || bSpace then (1, 0)
  else if !p.typesOk then (2, 0)
  else match unaligned j [(a.map (·.raw)).getD 0, (b.map (·.raw)).getD 0, (c.map (·.raw)).getD 0, aux] with
    | some v => (3, v)
    | none => (0, 0)

/-- StaticCheck of a copy job. -/
def staticCopy (j : EngineJob) : Nat × Nat :=
  let src := locOf j (j.word 0)
  let dst := locOf j (j.word 1)
  let dSpace := match dst with | some l => l.space | none => 0
  if j.rowBytes = 0 || j.rowBytes % 16 ≠ 0 || j.rows = 0 || natBits (j.word 2) 48 16 ≠ 0 || natBits (j.word 4) 9 55 ≠ 0
      || src.isNone || dst.isNone || (j.mcast ≠ 0 && dSpace ≠ 2) then (1, 0)
  else if j.fill && j.word 0 ≠ 0 then (2, 0)
  else match (unaligned j [(src.map (·.raw)).getD 0, (dst.map (·.raw)).getD 0]).or
      ([j.word 3 % 2 ^ 32, j.word 3 / 2 ^ 32].find? (fun v => v % 16 != 0)) with
    | some v => (3, v)
    | none => (0, 0)

/-! ### Ranges -/

/-- A range an engine reads or writes: a location, a byte offset from it, and a length. -/
structure EngRange where
  loc : EngLoc
  off : Int
  len : Nat
  write : Bool
  /-- It is read through the stationary port, and decrypted (R48, R327). -/
  port : Bool := false
  dec : Bool := false
  deriving DecidableEq, Repr

/-- Virtual address or offset at which a range begins. -/
def EngRange.start (r : EngRange) : Int := r.loc.at_ + r.off

/-- The ranges of a job: sources, then destinations (R326, R328). -/
def engRanges (j : EngineJob) : List EngRange :=
  if j.copy then
    let src := match locOf j (j.word 0) with
      | some l => if j.fill then [] else (upTo j.rows).map (fun (r : Nat) =>
          { loc := l, off := (r : Int) * j.sstr, len := j.rowBytes, write := false : EngRange })
      | none => []
    src ++ (copyDests j).flatMap (fun l => (upTo j.rows).map (fun (r : Nat) =>
      { loc := l, off := (r : Int) * j.dstr, len := j.rowBytes, write := true : EngRange }))
  else
    let p := j.shape
    match locOf j (j.word 0), locOf j (j.word 1), locOf j (j.word 2) with
    | some a, some b, some c =>
      let x : EngLoc := { space := 0, core := 0, at_ := j.word 5, raw := j.word 5 }
      [{ loc := a, off := 0, len := p.aLen, write := false },
       { loc := b, off := 0, len := p.bLen, write := false, port := p.sealed, dec := p.sealed }]
        ++ (if p.auxLen = 0 then [] else
          [{ loc := x, off := 0, len := p.auxLen, write := false, port := p.sealed, dec := p.sealed && p.g != 0 }])
        ++ (if p.acc then [{ loc := c, off := 0, len := p.cLen, write := false }] else [])
        ++ [{ loc := c, off := 0, len := p.cLen, write := true }]
    | _, _, _ => []

/-! ### Where a frame's addresses lie (R89, R96, R97, R156) -/

/-- The submitting task, resident or saved. -/
def submitter (s : State) (gtid : Word) : Option Task := (allTasks s).find? (fun t => t.id.gtid == gtid)

/-- Where `n` bytes at a frame's virtual address lie: the domain whose tables translate them, their address there, and
whether they are a memory window's. An aperture address goes through the window of the frame at the job's depth (R156);
none where R89 or R156 refuses the access. -/
def engPlace (s : State) (j : EngineJob) (va n : Nat) (need : Need) : Option (Nat × Nat × Bool) :=
  if va + n ≤ apertureBase then some (j.asid, va, false)
  else if va < apertureBase || 2 ^ 57 < va + n then none
  else match submitter s j.gtid with
    | none => none
    | some t =>
      let fr := readFrame s t j.depth
      let o := va - apertureBase
      if j.depth = 0 || t.depth < j.depth || !fr.wv || fr.mwLen < o + n then none
      else if ((need = .load || need = .rmw) && !natBit fr.mwPerm 0) || ((need = .store || need = .rmw) && !natBit fr.mwPerm 1)
      then none
      else some (domAtDepth s t fr.wdep, fr.mwBase + o, true)

/-- The first address of a range that `engPlace` refuses. -/
def engRefused (s : State) (j : EngineJob) (va : Nat) (need : Need) : Nat :=
  if va < apertureBase then apertureBase
  else match engPlace s j va 1 need, submitter s j.gtid with
    | some _, some t => apertureBase + (readFrame s t j.depth).mwLen
    | _, _ => va

/-- Translate an engine's access through its core's translation cache, which it shares (R97). -/
def engXlat (s : State) (j : EngineJob) (owner va : Nat) (need : Need) (port : Bool) : Xlat :=
  if apertureBase ≤ va then .perm else xlatOf (coreWalk s j.core owner va) va need port

/-- The parts of a range that no page splits: the address as the frame names it, the domain whose tables translate it, the
address there, and the bytes. -/
def engChunks (s : State) (j : EngineJob) (va n : Nat) (need : Need) : List (Nat × Nat × Nat × Nat) :=
  match engPlace s j va n need with
  | none => []
  | some (o, a, _) => (chunksOf a n).map (fun c => (va + (c.1 - a), o, c.1, c.2))

/-- The parts of a range in memory. -/
def EngRange.chunks (r : EngRange) (s : State) (j : EngineJob) : List (Nat × Nat × Nat × Nat) :=
  if r.loc.space ≠ 0 || r.start < 0 then [] else engChunks s j r.start.toNat r.len (if r.write then .store else .load)

/-- A failure of a range: its code, the address concerned, and the malformed entry that was met (R96). -/
structure EngFail where
  code : Nat
  addr : Nat
  bad : Option (Nat × Nat × Nat) := none

/-- The failures of a range (R330 FAULT and PERM), with the address concerned. -/
def rangeFails (s : State) (j : EngineJob) (r : EngRange) : List EngFail :=
  let o := r.start
  if r.loc.space = 0 then
    let need : Need := if r.write then .store else .load
    if o < 0 then [{ code := 5, addr := r.loc.raw }]
    else if (engPlace s j o.toNat r.len need).isNone then [{ code := 5, addr := engRefused s j o.toNat need }]
    else (r.chunks s j).filterMap (fun (va, owner, a, _) =>
      match engXlat s j owner a need r.port with
      | .ok _ l =>
        if r.port != l.sealed || (l.cls = .bound && (region s owner l.region).isNone) then some { code := 5, addr := va }
        else none
      | .replay => some { code := 4, addr := va }
      | .malformed lvl => some { code := 5, addr := va, bad := some (owner, a, lvl) }
      | .perm => some { code := 5, addr := va })
  else
    let bad : List EngFail := [{ code := 5, addr := (r.loc.raw + r.off).toNat }]
    if r.loc.space = 1 then
      if j.depth ≠ 0 || o < 0 || (j.scratch : Int) < o + r.len then bad else []
    else if o < 0 || (262144 : Int) < o + r.len || !coreLive s.hub.pkg r.loc.core
        || (!j.copy && coreCluster r.loc.core != j.cluster) then bad
    else if unitsOwnedBy s r.loc.core o.toNat r.len j.asid then []
    else bad
where
  /-- Every unit of a range of a scratchpad is the domain's (R103). -/
  unitsOwnedBy (s : State) (core off n asid : Nat) : Bool :=
    (upTo ((off + n - 1) / 4096 - off / 4096 + 1)).all (fun i =>
      tabGet 0 (core * 64 + off / 4096 + i) s.cores.owner == asid + 1)

/-- The failure of lowest code, and of lowest address among equals. -/
def firstFail (fs : List EngFail) : Option EngFail :=
  fs.foldl (fun acc f => match acc with
    | none => some f
    | some b => if f.code < b.code || (f.code == b.code && decide (f.addr < b.addr)) then some f else some b) none

/-- REC may be written: 64-byte aligned, on a LOOSE page that translates writable (R329). -/
def recOk (s : State) (j : EngineJob) : Bool :=
  j.rec_ % 64 == 0 && match engPlace s j j.rec_ 64 .store with
    | some (o, a, _) => (match engXlat s j o a .store false with
      | .ok _ l => l.cls == .loose
      | _ => false)
    | none => false

/-- The record's bytes as a range. -/
def recRange (j : EngineJob) : List EngRange :=
  if j.rec_ = 0 || j.noRecord then []
  else [{ loc := { space := 0, core := 0, at_ := j.rec_, raw := j.rec_ }, off := 0, len := 64, write := true }]

/-- The walks of a job's record and ranges are made, and their translations held from then on (R97, R222). -/
def engFill (s : State) (j : EngineJob) : State :=
  (recRange j ++ engRanges j).foldl (fun a r => (r.chunks a j).foldl (fun a c => coreFill a j.core j.asid c.2.1 c.2.2.1) a) s

/-- Those of a job's object. -/
def engFillSync (s : State) (j : EngineJob) (obj : Nat) : State :=
  (engChunks s j obj 32 .rmw).foldl (fun a c => coreFill a j.core j.asid c.2.1 c.2.2.1) s

/-- A block of a host access of a job: its number, the first address of the job in it, and whether it is the record's. -/
structure HostBlock where
  block : Nat
  va : Nat
  record : Bool
  deriving DecidableEq, Repr

/-- The 64-byte blocks of a job's host accesses, of its ranges and of its record, in order (R36, R37, R90; log entry 72). -/
def hostBlocks (s : State) (j : EngineJob) : List HostBlock :=
  let of := fun (record : Bool) (r : EngRange) => (r.chunks s j).flatMap (fun (va, o, a, n) =>
    match engXlat s j o a (if r.write then .store else .load) r.port with
    | .ok pa _ =>
      if hostBacked s.hub.pkg pa then (upTo ((pa + n - 1) / 64 - pa / 64 + 1)).map (fun i =>
        { block := pa / 64 + i, va := va + (max pa (64 * (pa / 64 + i)) - pa), record := record : HostBlock })
      else []
    | _ => [])
  (engRanges j).flatMap (of false) ++ (recRange j).flatMap (of true)

/-- The blocks among them that a mask names. -/
def hostNamed (s : State) (j : EngineJob) (mask : Nat) : List HostBlock :=
  if mask = 0 then [] else ((hostBlocks s j).zipIdx.filter (fun b => natBit mask b.2)).map (·.1)

/-- Some access of a job goes through an unbound window: it never completes (R90). -/
def goesUnbound (s : State) (j : EngineJob) : Bool :=
  (hostBlocks s j).any (fun b => unboundWindow s.hub.pkg (64 * b.block))

/-- A range goes through one. -/
def rangeUnbound (s : State) (j : EngineJob) (r : EngRange) : Bool :=
  (r.chunks s j).any (fun (_, o, a, _) =>
    match engXlat s j o a (if r.write then .store else .load) r.port with
    | .ok pa _ => unboundWindow s.hub.pkg pa
    | _ => false)

/-! ### Umbra (R208, R210) -/

/-- First addresses of a range in each line it touches. -/
def linesOf (a n : Nat) : List Nat :=
  (upTo ((a + n - 1) / 128 - a / 128 + 1)).map (fun i => max a ((a / 128 + i) * 128))

/-- A line an engine touches: its address as the frame names it, the domain whose tables hold it and its address there. -/
structure EngAt where
  used : Nat
  owner : Nat
  va : Nat
  deriving DecidableEq, Repr

/-- An engine's race record's frame. -/
def engRaceInfo (s : State) (j : EngineJob) (x : EngAt) (l : Leaf) : RaceInfo :=
  { gtid := j.gtid, pc := j.pc, engine := true, window := decide (apertureBase ≤ x.used), depth := j.depth, width := 16
    addr := x.used, sync := match region s x.owner l.region with | some (o, _) => o | none => 0, icount := j.icount }

/-- The job's entry, when its object is the one a region names (R208). -/
def heldFor (s : State) (j : EngineJob) (owner obj : Nat) : Option AcqEntry :=
  j.held.filter (fun e => match engPlace s j e.obj 32 .rmw with
    | some (o, a, _) => o == owner && a == obj
    | none => false)

/-- UmbraCheck of an engine's access to one line: the state, with a record in the race ring when it failed, and whether the
job ends with UMBRA (R208, R211, R329). -/
def engCheck (s : State) (j : EngineJob) (x : EngAt) (reads writes : Bool) (pa : Nat) (l : Leaf) : State × Bool :=
  if l.cls = .loose || umbraMode s x.owner = 2 then (s, false)
  else
    let obj := match region s x.owner l.region with | some (o, _) => o | none => 0
    let acc : UmbraAcc :=
      { reads := reads, writes := writes, plain := false, tag := j.tag, core := j.core
        entry := if l.cls = .bound then heldFor s j x.owner obj else none, engine := true }
    let m := readMeta s.mem pa
    match umbraCause acc l.cls m with
    | none => (s, false)
    | some (c, w) =>
      (raceReport s x.owner (raceRecord (engRaceInfo s j x l) acc m c w), umbraMode s x.owner == 0)

/-- The access to one line at a job's start, for the slices' logs and the caches, and its check: the state, the job with the
line marked when it is written, and the line that failed. -/
def engLine (write : Bool) (a : State × EngineJob × Option Nat) (x : EngAt) : State × EngineJob × Option Nat :=
  let (s0, j, bad) := a
  if bad.isSome then a
  else match engXlat s0 j x.owner x.va (if write then .store else .load) true with
    | .ok pa l =>
      let s := if write then s0 else l1Bypass (sliceLog (lineIn s0 x.owner pa) j.asid x.owner .engine j.tag pa l) pa false
      match engCheck s j x (!write) write pa l with
      | (s1, true) => (s1, j, some x.used)
      | (s1, false) =>
        if write && l.cls != .loose && umbraMode s x.owner != 2 then
          ({ s1 with mem := writeMeta s1.mem pa { readMeta s1.mem pa with state := 2, tag := j.tag } },
           { j with marked := j.marked ++ [(x.owner, x.va, pa, decide (apertureBase ≤ x.used))] }, none)
        else (s1, j, none)
    | _ => a

/-- A line of a job's ranges: its domain's line, the first address of the job in it, and its first access as a read and as a
write. -/
structure EngOneLine where
  owner : Nat
  line : Nat
  used : Nat
  read : Option EngAt := none
  write : Option EngAt := none
  deriving DecidableEq, Repr

/-- A line with one more access. -/
def EngOneLine.with (e : EngOneLine) (x : EngAt) (write : Bool) : EngOneLine :=
  let first := fun (y : Option EngAt) => match y with
    | some y => some (if x.used < y.used then x else y)
    | none => some x
  { e with
    used := min e.used x.used
    read := if write then e.read else first e.read, write := if write then first e.write else e.write }

/-- The lines with one more access among them, in order of their first addresses. -/
def addLine (x : EngAt) (write : Bool) (ls : List EngOneLine) : List EngOneLine :=
  let same := fun (e : EngOneLine) => e.owner == x.owner && e.line == x.va / 128
  let e := ((ls.find? same).getD { owner := x.owner, line := x.va / 128, used := x.used }).with x write
  let rest := ls.filter (fun y => !same y)
  rest.takeWhile (fun y => decide (y.used ≤ e.used)) ++ e :: rest.dropWhile (fun y => decide (y.used ≤ e.used))

/-- The lines of a job's ranges in memory, in address order, each as it is read and as it is written. A memory window may begin
in the middle of a line (R156), so that the lines are those of the domain whose tables hold them. -/
def engLines (s : State) (j : EngineJob) : List EngOneLine :=
  (engRanges j).foldl (fun m r => (r.chunks s j).foldl (fun m (va, o, a, n) => (linesOf a n).foldl (fun m v =>
    addLine { used := va + (v - a), owner := o, va := v } r.write m) m) m) []

/-- The umbra checks of a job's ranges in memory, in address order, a line's read before its write (R329). -/
def engUmbra (s : State) (j : EngineJob) : State × EngineJob × Option Nat :=
  (engLines s j).foldl (fun a e =>
    let b := match e.read with | some x => engLine false a x | none => a
    match e.write with | some x => engLine true b x | none => b) (s, j, none)

/-! ### Log room -/

/-- A page a job's log entry is to be written to is not valid, writable and PIN: the notice, and the fate of the task that
submitted the job, when it is resident (R182). -/
def enginePinned (s : State) (j : EngineJob) (va : Nat) : State :=
  match s.tasks.find? (fun e => e.2.id.gtid == j.gtid), submitter s j.gtid with
  | some e, _ => pinnedContext s e.1 va 0 j.pc
  | none, some t => pinnedNotice s t va 0 j.pc
  | none, none => s

/-- Find room for a job's entries in a domain's log, or stall (R191); where the log's page is not pinned the entry cannot be
written (R182). -/
def engRoom {α : Type} (s : State) (j : EngineJob) (owner n va : Nat) (go stall pinned : State → α) : α :=
  match logReserve s owner n with
  | .ok s1 => go s1
  | .stop s1 code => stall (logStop s1 owner code j.gtid va j.pc)
  | .stall => stall s
  | .pinned a => pinned (enginePinned s j a)

/-! ### EngineAcquire and EngineRelease -/

/-- What an acquire pass comes to; a failure has its code and DETAIL. -/
inductive EngAcquire where
  | granted (s : State) (e : AcqEntry)
  | wait (s : State)
  | fail (s : State) (code detail : Nat)

/-- Recorded entries a job's operation on its object performs (R201). -/
def engTurn (s : State) (j : EngineJob) (owner obj : Nat) (l : Leaf) : Option (List Nat) :=
  if !l.log then some []
  else (turnOf s owner j.gtid j.icount (fun e => e.kind == kAcq && e.va == obj)).map (·.take 1)

/-- The object of a job: where it lies, or the code of the failure (R96, R315). -/
def engObj (s : State) (j : EngineJob) (obj : Nat) : Except (State × Nat) (EngAt × Nat × Leaf) :=
  match engPlace s j obj 32 .rmw with
  | none => .error (s, 5)
  | some (o, a, _) =>
    match engXlat s j o a .rmw false with
    | .ok pa l => if objPage l then .ok ({ used := obj, owner := o, va := a }, pa, l) else .error (s, 6)
    | .replay => .error (s, 4)
    | .malformed lvl => .error (notifyMalformed s o a lvl, 5)
    | .perm => .error (s, 5)

/-- One pass of EngineAcquire (R317, R329). -/
def engAcquire (s0 : State) (j : EngineJob) : EngAcquire :=
  let s := engFillSync s0 j j.sync
  let mode := j.fn + 1
  match engObj s j j.sync with
  | .error (s1, code) => .fail s1 code (if code = 6 then 0 else j.sync)
  | .ok (x, pa, l) =>
    let o := readObj s.mem pa
    if o.kind ≠ modeKind mode then .fail s 6 0
    else match engCheck s j x true true pa l with
      | (s1, true) => .fail s1 7 j.sync
      | (s1, false) =>
        let pass := acquirePass o mode j.imm j.tag
        match engTurn s1 j x.owner x.va l, pass.2 with
        | none, _ => .wait s1
        | some _, false => .wait (if pass.1 = o then s1 else { s1 with mem := writeObj s1.mem pa pass.1 })
        | some qs, true =>
          engRoom s1 j x.owner (if l.log then 1 else 0) x.va
            (fun s2 =>
              let s3 := if pass.1 = o then s2 else { s2 with mem := writeObj s2.mem pa pass.1 }
              let s4 := if l.log then (logAppend s3 x.owner [acqEntry j.tag x.va j.gtid j.icount mode o.gen]).1 else s3
              .granted (doneEntries s4 x.owner qs)
                { obj := j.sync, gen := o.gen, mode := mode, scope := j.aqs, depth := j.depth })
            .wait (fun s2 => .fail s2 5 j.sync)

/-- What EngineRelease comes to: the state with its code and DETAIL, or a stall. -/
inductive EngRelease where
  | done (s : State) (code detail : Nat)
  | stall (s : State)

/-- EngineRelease (R318, R319, R329). -/
def engRelease (s0 : State) (j : EngineJob) : EngRelease :=
  match j.held with
  | none => .done s0 0 0
  | some e =>
    let s := engFillSync s0 j e.obj
    match engObj s j e.obj with
    | .error (s1, code) => .done s1 code (if code = 6 then 0 else e.obj)
    | .ok (x, pa, l) =>
      let o := readObj s.mem pa
      if o.kind ≠ modeKind e.mode then .done s 6 0
      else match engCheck s j x true true pa l with
        | (s1, true) => .done s1 7 e.obj
        | (s1, false) =>
          match releaseObj o e.mode e.gen j.tag, engTurn s1 j x.owner x.va l with
          | none, _ => .done s1 6 0
          | some _, none => .stall s1
          | some o', some qs =>
            engRoom s1 j x.owner (if l.log then 1 else 0) x.va
              (fun s2 =>
                let s3 := if o' = o then s2 else { s2 with mem := writeObj s2.mem pa o' }
                let code := if e.mode = 3 then 6 else 5
                let s4 := if l.log then (logAppend s3 x.owner [acqEntry j.tag x.va j.gtid j.icount code o'.gen]).1 else s3
                .done (doneEntries s4 x.owner qs) 0 0)
              .stall (fun s2 => .done s2 5 e.obj)

/-! ### Pending lines (R210) -/

/-- The lines of a performed release become WRITTEN with the job's tag, its generation and the release scope. -/
def releaseMarks (s : State) (j : EngineJob) : State :=
  let g := match j.held with | some e => e.gen | none => 0
  j.marked.foldl (fun a x =>
    { a with mem := writeMeta a.mem x.2.2.1 { state := 1, scope := j.rls, gen := g, tag := j.tag } }) s

/-- ConvertPending (R210, R329): the submitter's tag, and its entry for the line's region as it stands, one of its own depth
or, for a memory window's line, of the owner's depth or below (R155, R156). A line of an ATOMIC page has no region. -/
def convertPending (s : State) (j : EngineJob) : State :=
  let t := submitter s j.gtid
  j.marked.foldl (fun a (owner, va, pa, win) =>
    let obj := match xlatHub a owner va .load true with
      | .ok _ l => if l.cls = .bound then (region a owner l.region).map (·.1) else none
      | _ => none
    let e : Option AcqEntry := match t with
      | some t => (t.acq.filter (fun (e : AcqEntry) => some e.obj == obj &&
          (if win then decide (e.depth ≤ (readFrame a t j.depth).wdep) && domAtDepth a t e.depth == owner
           else e.depth == j.depth))).getLast?
      | none => none
    let tag := match t with | some t => t.wtag.toNat | none => j.tag
    { a with mem := writeMeta a.mem pa (Meta.mk 1 ((e.map (·.scope)).getD 0) ((e.map (·.gen)).getD 0) tag) }) s

/-! ### Transfer -/

/-- Bytes an engine reads, with their poison; none where the stationary port finds no authentic block. A tag, or the rest of a block,
on a page that does not translate readable makes the block not authentic, DESIGN CHOICE (log entry 98). -/
def engRead (s : State) (j : EngineJob) (r : EngRange) : List OpByte :=
  let o := r.start
  if r.loc.space = 0 then
    let bad := hostNamed s j j.hostPoison
    if r.dec then sealedBytes s j o.toNat r.len
    else (r.chunks s j).flatMap (fun (_, owner, a, n) =>
      match engXlat s j owner a .load r.port with
      | .ok pa _ => (upTo n).map (fun i =>
          some (tabGet 0 (pa + i) s.mem.bytes,
            tabGet false ((pa + i) / 16) s.mem.poison || bad.any (fun b => b.block == (pa + i) / 64)))
      | _ => List.replicate n (some (0, false)))
  else
    let base := spadKey r.loc.core (o.toNat + if r.loc.space = 1 then j.sbase else 0)
    (upTo r.len).map (fun i => some (tabGet 0 (base + i) s.cores.spad, tabGet false ((base + i) / 16) s.cores.spadPoi))
where
  /-- One block of the key slot's binding, read with its tag through the stationary port (R48), each byte with the poison of its granule (R107). -/
  block (s : State) (j : EngineJob) (k : KeySlot) (i : Nat) : Option (List (Byte × Bool)) :=
    let at_ := fun (va : Nat) (port : Bool) => match engXlat s j j.asid va .load port with
      | .ok pa _ => some pa
      | _ => none
    match at_ (k.base + 4096 * i) true, at_ (k.tagTab + 16 * i) true with
    | some ct, some tag =>
      (Config.gcmOpen k.key (k.set ++ BitVec.ofNat 64 i) [] (physRead s.mem ct 4096) (physRead s.mem tag 16)).map (fun bs =>
        (bs.zip (upTo bs.length)).map (fun b => (b.1, tabGet false ((ct + b.2) / 16) s.mem.poison)))
    | _, _ => none
  /-- Plaintext of a sealed range. -/
  sealedBytes (s : State) (j : EngineJob) (va n : Nat) : List OpByte :=
    match j.key with
    | none => List.replicate n none
    | some k =>
      let one := fun (i : Nat) => (i, block s j k i)
      let blocks := (upTo ((va + n - 1 - k.base) / 4096 - (va - k.base) / 4096 + 1)).map
        (fun i => one ((va - k.base) / 4096 + i))
      (upTo n).map (fun i =>
        let a := va + i
        if a < k.base || k.base + k.len ≤ a then none
        else match tabFind ((a - k.base) / 4096) blocks with
          | some (some bs) => bs[(a - k.base) % 4096]?
          | _ => none)

/-- A run an engine writes at once: in memory, in the space of the domain whose tables translate it, or in a scratchpad at a
core and absolute offset. -/
structure EngRun where
  mem : Bool
  core : Nat
  owner : Nat := 0
  at_ : Nat
  bytes : List (Byte × Bool)
  deriving DecidableEq, Repr

/-- The runs of bytes written from a location's offset: no run crosses a line or exceeds 48 bytes (R189). -/
def engRuns (s : State) (j : EngineJob) (l : EngLoc) (off : Int) (bytes : List (Byte × Bool)) : List EngRun :=
  let a := (l.at_ + off).toNat + if l.space = 1 then j.sbase else 0
  match (if l.space = 0 then engPlace s j a bytes.length .store else some (0, a, false)) with
  | none => []
  | some (o, a', _) => (splitRuns (bytes.length + 1) a' bytes.length).map (fun r =>
      { mem := l.space == 0, core := l.core, owner := o, at_ := r.1, bytes := (bytes.drop (r.1 - a')).take r.2 })

/-- What a transfer writes, and the code it ends with; an MXE job also counts (R147). -/
structure Transfer where
  runs : List EngRun
  code : Nat := 0
  counts : Nat × Nat × Nat := (0, 0, 0)

/-- The transfer of a copy job, its sources as they stand (R328); no row is read through an unbound window (R90). -/
def copyTransfer (s : State) (j : EngineJob) : Transfer :=
  let src := locOf j (j.word 0)
  let dests := copyDests j
  let rows := (upTo j.rows).takeWhile (fun (r : Nat) => match src with
    | some l => j.fill || !rangeUnbound s j { loc := l, off := (r : Int) * j.sstr, len := j.rowBytes, write := false }
    | none => true)
  { runs := rows.flatMap (fun (r : Nat) =>
      let data : List (Byte × Bool) := match src with
        | some l =>
          if j.fill then List.replicate j.rowBytes (0, false)
          else (engRead s j { loc := l, off := (r : Int) * j.sstr, len := j.rowBytes, write := false }).map (·.getD (0, false))
        | none => []
      dests.flatMap (fun d => engRuns s j d ((r : Int) * j.dstr) data)) }

/-- The bytes of C elements with the poison of their granules (R107). -/
def cBytes (w : Nat) (rs : List (MxeResult × Bool)) : List (Byte × Bool) :=
  let raw := rs.flatMap (fun r => (leBytes (w / 8) r.1.val).map (fun b => (b, r.2)))
  (chunksBy 16 raw.length raw).flatMap (fun g =>
    let p := g.any (·.2)
    g.map (fun b => (b.1, p)))

/-- The transfer of an MXE job (R327); nothing is computed from what lies behind an unbound window (R90). -/
def mxeTransfer (s : State) (j : EngineJob) : Transfer :=
  let p := j.shape
  if (engRanges j).any (fun r => !r.write && rangeUnbound s j r) then { runs := [] }
  else match engRanges j with
  | ra :: rb :: rest =>
    let aux := if p.auxLen = 0 then none else rest.head?
    match locOf j (j.word 2) with
    | none => { runs := [] }
    | some c =>
      let o : MxeOps :=
        { a := (engRead s j ra).toArray, b := (engRead s j rb).toArray
          c := if p.acc then (engRead s j { loc := c, off := 0, len := p.cLen, write := false }).toArray else #[]
          aux := match aux with | some r => (engRead s j r).toArray | none => #[] }
      let r := mxeAll p o
      let n := fun (f : MxeResult → Bool) => min (r.1.filter (fun x => f x.1)).length 0xFFFFFFFF
      let whole := match r.2 with | none => r.1 | some _ => r.1.take (r.1.length * p.tc.width / 128 * 128 / p.tc.width)
      { runs := engRuns s j c 0 (cBytes p.tc.width whole), code := r.2.getD 0, counts := (n (·.ovf), n (·.nan), n (·.sat)) }
  | _ => { runs := [] }

/-- The leaf of a run in memory, and its physical address. -/
def runLeaf (s : State) (j : EngineJob) (r : EngRun) : Option (Nat × Leaf) :=
  if !r.mem then none
  else match engXlat s j r.owner r.at_ .store false with
    | .ok pa l => some (pa, l)
    | _ => none

/-- One run written, its granules set full in a scratchpad (R74), with its ENGINE entry on a logged page. A block whose check
value does not match as it leaves for a link leaves poisoned (R37). -/
def writeRun (s : State) (j : EngineJob) (r : EngRun) : State :=
  let set := fun (a : Nat) => (r.bytes.zip (upTo r.bytes.length)).map (fun b => (a + b.2, b.1))
  if r.mem then
    match runLeaf s j r with
    | some (pa, l) =>
      let bad := (hostNamed s j j.hostPoison).any (fun b => b.block == pa / 64)
      let set := fun (a : Nat) => (set a).map (fun w => (w.1, (w.2.1, w.2.2 || bad)))
      let s0 := l1Bypass (sliceLog (lineIn (coreFill s j.core j.asid r.owner r.at_) r.owner pa) j.asid r.owner .engine j.tag pa l) pa true
      let s1 := if l.log then (logAppend s0 r.owner [runEntry s0 kEngine j.tag r.at_ pa r.bytes.length]).1 else s0
      { s1 with mem := physStore s1.mem (set pa) }
    | none => s
  else
    let c := spadStore s.cores (set (spadKey r.core r.at_))
    { s with cores := setFull c (granKeys r.core r.at_ r.bytes.length) true }

/-- How a job's writes went: all are made, a log has no room for the next one, or its log's page is not pinned. -/
inductive RunsEnd where
  | all | stalled
  | pinned (va : Nat)
  deriving DecidableEq, Repr

/-- Write runs in order until the log stops one: the state, how many were written, and how it went. -/
def writeRuns (j : EngineJob) : List EngRun → State → Nat → State × Nat × RunsEnd
  | [], s, n => (s, n, .all)
  | r :: rest, s, n =>
    let need := match runLeaf s j r with | some (_, l) => if l.log then 1 else 0 | none => 0
    engRoom s j r.owner need r.at_ (fun s1 => writeRuns j rest (writeRun s1 j r) (n + 1)) (fun s1 => (s1, n, .stalled))
      (fun s1 => (s1, n, .pinned r.at_))

/-- SYS bytes of runs, by the domain whose tables translate them: the lowest address and how many (R188). -/
def sysBytes (s : State) (j : EngineJob) (rs : List EngRun) : SMap (Nat × Nat) :=
  rs.foldl (fun acc r => match runLeaf s j r with
    | some (_, l) =>
      if !l.sys then acc
      else match tabFind r.owner acc with
        | none => tabSet r.owner (r.at_, r.bytes.length) acc
        | some (a, n) => tabSet r.owner (min a r.at_, n + r.bytes.length) acc
    | none => acc) []

/-- Room for one entry in each of some domains' logs. -/
def sysRooms (j : EngineJob) (go stall : State → State) (pinned : Nat → State → State) : SMap (Nat × Nat) → State → State
  | [], s => go s
  | (o, va, _) :: rest, s => engRoom s j o 1 va (sysRooms j go stall pinned rest) stall (pinned va)

/-! ### The record (R330) -/

/-- The runs of a job's record, without its stamp. -/
def recordRuns (s : State) (j : EngineJob) (code detail : Nat) (counts : Nat × Nat × Nat) : List EngRun :=
  let bs := leBytes 1 code ++ leBytes 1 (boolNat j.copy) ++ leBytes 2 j.id ++ leBytes 4 0 ++ leBytes 8 detail
    ++ leBytes 4 counts.1 ++ leBytes 4 counts.2.1 ++ leBytes 4 counts.2.2 ++ leBytes 28 0
  engRuns s j { space := 0, core := 0, at_ := j.rec_, raw := j.rec_ } 0 (bs.map (fun b => (b, false)))

/-- The stamp's run. -/
def stampRuns (s : State) (j : EngineJob) : List EngRun :=
  engRuns s j { space := 0, core := 0, at_ := j.rec_ + 56, raw := j.rec_ } 0
    ((leBytes 8 (if j.copy then j.word 7 else j.id)).map (fun b => (b, false)))

/-- DETAIL for a code (R330). -/
def recordDetail (j : EngineJob) (code : Nat) : Nat :=
  if code = 3 || code = 4 || code = 5 || code = 7 then j.detail
  else if code = 0 && j.copy then j.rows * j.rowBytes else 0

/-- Everything a job writes at REC when it ends with a code; nothing where REC is not to be written (R329), and nothing through
an unbound window (R90). Of an MXE job that fails, no counts are written (R147): bytes 16 to 27 are zero, DESIGN CHOICE (log
entry 98). -/
def recRuns (s : State) (j : EngineJob) (code : Nat) (counts : Nat × Nat × Nat) : List EngRun :=
  if j.rec_ = 0 || j.noRecord || !recOk s j || (recRange j).any (rangeUnbound s j) then []
  else recordRuns s j code (recordDetail j code) (if code = 0 then counts else (0, 0, 0))
    ++ (if code = 0 && j.st then stampRuns s j else [])

end Sys2Proof.Machine
end

