-- ==== Sys2Proof/Machine/Work.lean ====
section
/-!
DEFINITION. The work hierarchy (R52 to R71): completion counters, jobs, launches and graphs as the hub keeps them, the
start of a launch (R56 to R58, R194), finishing, and cancellation (R67).
-/

namespace Sys2Proof.Machine

/-! ### Access to the hub's work -/

/-- Change a launch. -/
def modLaunch (s : State) (id : Nat) (f : Launch → Launch) : State :=
  modHub s (fun h => { h with launches := tabMod id f h.launches })
/-- A launch. -/
def launchAt (s : State) (id : Nat) : Option Launch := tabFind id s.hub.launches
/-- Change a graph walker. -/
def modWalker (s : State) (id : Nat) (f : Walker → Walker) : State :=
  modHub s (fun h => { h with walkers := tabMod id f h.walkers })
/-- A graph walker. -/
def walkerAt (s : State) (id : Nat) : Option Walker := tabFind id s.hub.walkers
/-- Change a job. -/
def modHostJob (s : State) (id : Nat) (f : HostJob → HostJob) : State :=
  modHub s (fun h => { h with jobs := tabMod id f h.jobs })

/-! ### Counters (R52) -/

/-- Subtract from REMAINING, or add to it: an atomic of the hub's, not checked by umbra. -/
def counterAdd (s : State) (asid va : Nat) (k : Int) : State :=
  vwrite s asid va (leBytes 4 (wrapNat 32 ((vreadNat s asid va 4 : Int) + k)))

/-- Write STATUS. -/
def counterFinal (s : State) (asid va st : Nat) : State := vwrite s asid (va + 4) (leBytes 4 st)

/-! ### Finishing (R28, R53) -/

/-- An item of a job has left status 0: the job's count decreases, and at zero its status is written (R28). -/
def jobItemDone (s : State) (id : Nat) (faulted cancelled : Bool) : State :=
  match tabFind id s.hub.jobs with
  | none => s
  | some j =>
    let j1 := { j with left := j.left - 1, faulted := j.faulted || faulted, cancelled := j.cancelled || cancelled }
    let s1 := if j.usable then counterAdd s j.asid j.counter (-1) else s
    if j1.left ≠ 0 then modHostJob s1 id (fun _ => j1)
    else
      let s2 := if j.usable then counterFinal s1 j.asid j.counter (finalStatus j1.faulted j1.cancelled) else s1
      let s3 := match j.vector with
        | some v => if j.usable then countEvent s2 v else s2
        | none => s2
      modHub s3 (fun h => { h with jobs := tabDel id h.jobs })

/-- A part of a graph is done: a launch it started, or its walker's own 1 (R53, R360). -/
def graphPartDone (s : State) (id : Nat) (faulted : Bool) : State :=
  match walkerAt s id with
  | none => s
  | some w =>
    let w1 := { w with left := w.left - 1, faulted := w.faulted || faulted }
    let s1 := if w.usable then counterAdd s w.asid w.counter (-1) else s
    if w1.left ≠ 0 then modWalker s1 id (fun _ => w1)
    else
      let st := finalStatus w1.faulted w1.cancelled
      let s2 := if w.usable then counterFinal s1 w.asid w.counter st else s1
      let s3 := modHub s2 (fun h => { h with walkers := tabDel id h.walkers })
      match w.parent with
      | .job j => jobItemDone s3 j (st == 3) (st == 2)
      | _ => s3

/-- What stands above a launch learns that it has finished. -/
def parentDone (s : State) (p : Parent) (faulted cancelled : Bool) : State :=
  match p with
  | .none => s
  | .job j => jobItemDone s j faulted cancelled
  | .graph g => graphPartDone s g faulted

/-- `n` tasks of a launch have finished; at zero its status is written (R53). What reaches zero is the hub's own count of the
level, and not the word REMAINING, which software or another level may have written: DESIGN CHOICE (log entry 92). -/
def launchTasksDone (s : State) (id n : Nat) (faulted : Bool) : State :=
  match launchAt s id with
  | none => s
  | some l =>
    let l1 := { l with left := l.left - n, faulted := l.faulted || faulted }
    let s1 := if n = 0 then s else counterAdd s l.asid l.counter (-(n : Int))
    if l1.left ≠ 0 then modLaunch s1 id (fun _ => l1)
    else
      let st := finalStatus l1.faulted l1.cancelled
      let s2 := counterFinal s1 l.asid l.counter st
      parentDone (modHub s2 (fun h => { h with launches := tabDel id h.launches })) l.parent (st == 3) (st == 2)

/-! ### Acceptance (R57, R335) -/

/-- A launch accepted: it takes the domain's next serial (R57). Under a cancelled job or graph it is cancelled. -/
def acceptLaunch (s : State) (asid record : Nat) (parent : Parent) (external device : Bool) : Nat × State :=
  let serial := match domOf s asid with | some d => d.serial | none => 0
  let (id, s1) := freshId (modDom s asid (fun d => { d with serial := (d.serial + 1) % 2 ^ 22 }))
  let dead := match parent with
    | .none => false
    | .job j => (match tabFind j s.hub.jobs with | some x => x.dropped | none => false)
    | .graph g => (match walkerAt s g with | some w => w.cancelled | none => false)
  let l : Launch := { asid := asid, serial := serial, record := record, parent := parent, external := external
                      device := device, cancelled := dead }
  (id, modHub s1 (fun h => { h with launches := tabSet id l h.launches }))

/-- Launches and graphs a domain's device code has handed over and that have not started (R335). -/
def deviceWaiting (s : State) (asid : Nat) : Nat :=
  (s.hub.launches.filter (fun e => e.2.asid == asid && e.2.device && !e.2.started)).length
    + (s.hub.walkers.filter (fun e => e.2.asid == asid && e.2.device && e.2.arms == 0 && e.2.state != .done)).length

/-! ### The checks of R56 -/

/-- Live cores of a domain's allotment on a die, in rising order (R19, R58). -/
def allottedCores (s : State) (d : Domain) (die : Nat) : List Nat :=
  (upTo 320).map (fun i => die * 320 + i) |>.filter (fun c =>
    d.allot.contains (coreCluster c) && !s.hub.pkg.quarCores.contains c && !s.hub.pkg.quarClusters.contains (coreCluster c))

/-- A launch record's words (R54). -/
structure LaunchRec where
  entry : Nat
  kmeta : Nat
  grid : List Nat
  text : List Nat
  tile : List Nat
  flags : Nat
  args : Nat
  part : List Nat
  counter : Nat
  budget : Nat
  priority : Nat
  deriving DecidableEq, Repr

/-- Three 32-bit values from a byte. -/
def tripleAt (b : List Byte) (o : Nat) : List Nat := [recField b o 4, recField b (o + 4) 4, recField b (o + 8) 4]

/-- The record 128 bytes hold. -/
def LaunchRec.ofBytes (b : List Byte) : LaunchRec :=
  { entry := recField b 0 8, kmeta := recField b 8 8, grid := tripleAt b 16, text := tripleAt b 28, tile := tripleAt b 40
    flags := recField b 52 4, args := recField b 56 8
    part := (upTo 4).map (fun i => recField b (64 + 4 * i) 4), counter := recField b 80 8, budget := recField b 88 8
    priority := recField b 96 1 }

/-- The product of the extents. -/
def LaunchRec.total (r : LaunchRec) : Nat := r.grid.foldl (· * ·) 1

/-- A kernel metadata record (R55). -/
structure KMeta where
  vregs : Nat
  kflags : Nat
  scratch : Nat
  dtile : List Nat
  dbudget : Nat
  reserved : Bool
  deriving DecidableEq, Repr

/-- The metadata 32 bytes hold. -/
def KMeta.ofBytes (b : List Byte) : KMeta :=
  { vregs := recField b 0 1, kflags := recField b 1 1, scratch := recField b 4 4, dtile := tripleAt b 8
    dbudget := recField b 24 8, reserved := recField b 2 2 != 0 || recField b 20 4 != 0 }

/-- The sub-tile shape: a 0 takes the metadata's default (R54). -/
def tileOf (r : LaunchRec) (k : Option KMeta) : List Nat :=
  (r.tile.zip ((k.map (·.dtile)).getD [0, 0, 0])).map (fun x => if x.1 = 0 then x.2 else x.1)

/-- Row 4 of R56 fails in some dimension. -/
def tileBad (grid tile text : List Nat) : Bool :=
  (grid.zip (tile.zip text)).any (fun x =>
    x.2.1 == 0 || decide (x.1 * x.2.1 < x.2.2) || decide (x.2.2 ≤ (x.1 - 1) * x.2.1))

/-- The partition vector of R58 over live allotted cores, when PARTITION is clear. -/
def evenPartition (total : Nat) (live : List Nat) : List Nat :=
  let l := live.foldl (· + ·) 0
  (upTo 4).map (fun d => total * (live.take d).foldl (· + ·) 0 / max l 1)

/-- A partition vector is valid (R58). -/
def partitionOk (total : Nat) : List Nat → Bool
  | [p0, p1, p2, p3] => p0 == 0 && decide (p0 ≤ p1) && decide (p1 ≤ p2) && decide (p2 ≤ p3) && decide (p3 ≤ total)
  | _ => false

/-- The codes of R56 whose checks fail, lowest first. -/
def launchFaults (s : State) (d : Domain) (l : Launch) (rec_ : Option (List Byte)) (km : Option (List Byte)) : List Nat :=
  match rec_ with
  | none => (if l.record % 64 ≠ 0 then [1] else []) ++ [2]
  | some b =>
    let r := LaunchRec.ofBytes b
    let k := km.map KMeta.ofBytes
    let total := r.total
    let live := (upTo 4).map (fun die => (allottedCores s d die).length)
    let part := if natBit r.flags 0 then r.part else evenPartition total live
    let ends := part.drop 1 ++ [total]
    let gridBad := r.grid.contains 0 || decide (2 ^ 32 - 1 < total)
    let reserved := !pcForm (BitVec.ofNat 64 r.entry) || r.kmeta % 32 != 0 || r.flags / 4 != 0 || r.priority / 8 != 0
      || recField b 97 31 != 0 || l.record % 64 != 0
      || (match k with | some x => x.kflags / 2 != 0 || x.reserved | none => false)
    let partBad := natBit r.flags 0 && !partitionOk total r.part
    let noCores := !gridBad && !partBad && (live.all (· == 0)
      || ((part.zip ends).zip live).any (fun x => decide (x.1.1 < x.1.2) && x.2 == 0))
    let kmBad := match k with
      | some x => !(x.vregs % 8 == 0 && decide (8 ≤ x.vregs) && decide (x.vregs ≤ 64) && x.scratch % 16 == 0
          && decide (x.scratch ≤ 262144))
      | none => false
    let tileKnown := k.isSome || !r.tile.contains 0
    (if reserved then [1] else []) ++ (if k.isNone || !counterUsable s l.asid r.counter then [2] else [])
      ++ (if gridBad then [3] else [])
      ++ (if natBit r.flags 1 && tileKnown && tileBad r.grid (tileOf r k) r.text then [4] else [])
      ++ (if partBad then [5] else []) ++ (if noCores then [6] else []) ++ (if kmBad then [7] else [])

/-- Bytes of a domain's memory that translate and read clean. -/
def cleanRead (s : State) (asid va n : Nat) : Option (List Byte) :=
  match vread s asid va n with
  | some (b, false) => some b
  | _ => none

/-- The launch as its records make it, started (R54 to R58). -/
def launchFrom (s : State) (d : Domain) (l : Launch) (r : LaunchRec) (k : KMeta) (order : Nat) : Launch :=
  let live := (upTo 4).map (fun die => (allottedCores s d die).length)
  let part := if natBit r.flags 0 then r.part else evenPartition r.total live
  { l with
    started := true, entry := BitVec.ofNat 64 r.entry, args := BitVec.ofNat 64 r.args, grid := r.grid, text := r.text
    tile := tileOf r (some k), tiles := natBit r.flags 1, counter := r.counter
    budget := if r.budget ≠ 0 then r.budget else if k.dbudget ≠ 0 then k.dbudget else noLimit
    priority := r.priority, vregs := k.vregs, scratch := k.scratch, resident := natBit k.kflags 0
    next := part, stop := part.drop 1 ++ [r.total], left := r.total, order := order }

/-- Part-way walkers of a domain (R194), the one whose LAUNCH node starts a launch left out. -/
def walkerBusy (s : State) (asid : Nat) (own : Option Nat) : Bool :=
  (domWalkers s asid).any (fun e => some e.1 != own && match e.2.state with
    | .waiting _ => true
    | .arming => e.2.arms != 0
    | _ => false)

/-! ### Cancellation (R67) -/

/-- Tasks of a launch not yet dispatched. -/
def undispatched (l : Launch) : Nat :=
  l.redo.length + ((l.next.zip l.stop).map (fun x => x.2 - x.1)).foldl (· + ·) 0

/-- A message is a TASK_START of a launch. -/
def startsOf (id : Nat) (m : Msg) : Bool := decide (m.kind = .taskStart) && m.ref == id

/-- The messages a condition picks are gone, on their way or held in an inbox. -/
def dropMsgs (s : State) (hit : Msg → Bool) : State :=
  let s1 := modHub s (fun h => { h with msgs := h.msgs.filter (fun e => !hit e.2) })
  { s1 with cores := { s1.cores with
      inbox := (s1.cores.inbox.map (fun e => (e.1, e.2.filter (fun m => !hit m)))).filter (fun e => !e.2.isEmpty) } }

/-- Withdraw a launch's held TASK_START messages: the state and how many. -/
def withdrawStarts (s : State) (id : Nat) : State × Nat :=
  let inFlight := (s.hub.msgs.filter (fun e => startsOf id e.2)).length
  let boxed := (s.cores.inbox.map (fun e => (e.2.filter (startsOf id)).length)).foldl (· + ·) 0
  (dropMsgs s (startsOf id), inFlight + boxed)

/-- A message is the RESUME of a saved task. -/
def resumesOf (id : Nat) (m : Msg) : Bool := decide (m.kind = .resume) && m.ref == id

/-- A saved task is discarded: its save area, seal blocks, retry entries and RESUME go. -/
def dropSaved (s : State) (id : Nat) : State :=
  match tabFind id s.hub.saved with
  | none => s
  | some sv =>
    let t := sv.task
    let s1 := (upTo t.depth).foldl (fun a i =>
      let f := readFrame a t (i + 1)
      sealFree a f.caller f.sealVa) s
    let s2 := t.retry.foldl (fun a r => setRetryState a r.owner r.index 3) s1
    let s3 := dropMsgs (if sv.keep then s2 else savePoolFree s2 sv.area sv.addr) (resumesOf id)
    modHub s3 (fun h => { h with saved := tabDel id h.saved })

/-- Saved tasks of a launch awaiting RESUME. -/
def savedOf (s : State) (id : Nat) : List Nat := (s.hub.saved.filter (fun e => e.2.task.launch == id)).map (·.1)

/-- The cancel flag in a launch's running tasks; one with no limit is given 2^20 cycles (R66, R67). -/
def flagTasks (s : State) (id : Nat) : State :=
  { s with tasks := tabMap (fun _ t =>
      if t.launch = id then
        { t with cancelled := true, budget := if t.budget = noLimit then 2 ^ 20 else t.budget } else t) s.tasks }

/-- Cancel a launch; `keepSaved` leaves its saved tasks to be unwound (R41). -/
def cancelLaunch (s : State) (keepSaved : Bool) (id : Nat) : State :=
  match launchAt s id with
  | none => s
  | some l =>
    let s1 := modLaunch s id (fun l => { l with cancelled := true, redo := [], next := l.stop })
    if !l.started then s1
    else
      let w := withdrawStarts s1 id
      let sv := if keepSaved then [] else savedOf w.1 id
      let s2 := flagTasks (sv.foldl dropSaved w.1) id
      let n := undispatched l + w.2 + sv.length
      if n = 0 then s2 else launchTasksDone s2 id n false

/-- A walker stops: it removes its 1 (R360). -/
def stopWalker (s : State) (id : Nat) (faulted : Bool) : State :=
  graphPartDone (modWalker s id (fun w => { w with state := .done })) id faulted

/-- Cancel a graph: its walker stops after the node it is processing, and the launches it started are cancelled. One
that has not been armed never starts. -/
def cancelWalker (s : State) (keepSaved : Bool) (id : Nat) : State :=
  match walkerAt s id with
  | none => s
  | some w =>
    let s1 := modWalker s id (fun w => { w with cancelled := true })
    let mine := (s1.hub.launches.filter (fun e => e.2.parent == .graph id)).map (·.1)
    let s2 := mine.foldl (fun a i => cancelLaunch a keepSaved i) s1
    match w.state with
    | .waiting _ => s2
    | .done => s2
    | _ => if w.arms = 0 then s2 else stopWalker s2 id false

/-- Cancel a job: each of its items. -/
def cancelJob (s : State) (keepSaved : Bool) (id : Nat) : State :=
  let s0 := modHostJob s id (fun j => { j with dropped := true })
  let ls := (s0.hub.launches.filter (fun e => e.2.parent == .job id)).map (·.1)
  let ws := (s0.hub.walkers.filter (fun e => e.2.parent == .job id)).map (·.1)
  ws.foldl (fun a i => cancelWalker a keepSaved i) (ls.foldl (fun a i => cancelLaunch a keepSaved i) s0)

/-- Cancel the level of a domain whose counter lies at an address, when its STATUS is 0 (R67): the state, and whether
there was one. Where live levels share a counter the first found among launches, then graphs, then jobs is cancelled: DESIGN
CHOICE (log entry 84); one accepted and not started yet has no counter and is not reached: DESIGN CHOICE (log entry 89). -/
def cancelAt (s : State) (asid va : Nat) : State × Bool :=
  if counterStatus s asid va ≠ 0 then (s, false)
  else match s.hub.launches.find? (fun e => e.2.asid == asid && e.2.started && e.2.counter == va),
      s.hub.walkers.find? (fun e => e.2.asid == asid && e.2.arms != 0 && e.2.counter == va),
      s.hub.jobs.find? (fun e => e.2.asid == asid && e.2.usable && e.2.counter == va) with
  | some e, _, _ => (cancelLaunch s false e.1, true)
  | none, some e, _ => (cancelWalker s false e.1, true)
  | none, none, some e => (cancelJob s false e.1, true)
  | none, none, none => (s, false)

/-! ### The order of a job's items (R28) -/

/-- An earlier item of the same job has not been dispatched yet. -/
def itemAhead (s : State) (p : Parent) (id : Nat) : Bool :=
  match p with
  | .job _ => s.hub.launches.any (fun e => decide (e.1 < id) && e.2.parent == p && !e.2.started)
      || s.hub.walkers.any (fun e => decide (e.1 < id) && e.2.parent == p && e.2.arms == 0 && decide (e.2.state = .arming))
  | _ => false

/-! ### The start of a launch (R56) -/

/-- The launch fails at start: its counter, when usable, is written faulted, and the supervisor is told. -/
def failLaunch (s : State) (id : Nat) (l : Launch) (counter : Option Nat) (code : Nat) : State :=
  let s1 := match counter with
    | some va => if counterUsable s l.asid va then counterWrite s l.asid va 0 3 else s
    | none => s
  let s2 := notifyLaunch s1 l.asid code l.record
  modHub s2 (fun h => { h with launches := tabDel id h.launches })

/-- What starting a launch comes to: it started, it failed (with whether its counter was usable), or it waits, having done
no more than `f` does. -/
inductive Starting where
  | started (s : State)
  | failed (s : State) (usable : Bool)
  | waits (f : State → State)

/-- The conditions of R194 for an automatic bench. -/
def autoBenchDue (s : State) (asid : Nat) (own : Option Nat) : Bool :=
  (match domOf s asid with | some d => natBit d.flags.toNat 2 | none => false)
    && autoBenchReady s asid && !walkerBusy s asid own

/-- The front end meets a context area that is not pinned (R182): nothing is accessed, the supervisor is told, and no task
needed the access (log entry 77). -/
def hubPinned (s : State) (asid va : Nat) : State := notify s { kind := 1, code := 2, asid := asid, addr := va }

/-- A full log stops the domain at an append that the front end needs (R191). -/
def hubLogStop (asid code va : Nat) (s : State) : State :=
  logStop (writeLog s asid { readLog s asid with state := 1 }) asid code 0 va 0

/-- The automatic bench of a launch's start: on a full log the domain's policy acts (R191), and without room in the save
pool the start waits (R195). In a replay CURBENCH takes the number of the recorded BENCH entry; the front end's carry no
GTID (R195, R201). -/
def autoBench (s1 : State) (asid : Nat) (own : Option Nat) (go : State → Starting) : Starting :=
  let c := readLog s1 asid
  if !autoBenchDue s1 asid own then go s1
  else if c.state = 2 then
    let auto := (historyLeft s1 asid).any (fun e =>
      e.2.kind == kBench && recField e.2.body 0 4 == c.curBench + 1 && recField e.2.body 16 8 == 0)
    go (if auto then writeLog s1 asid { c with curBench := c.curBench + 1 } else s1)
  else match logReserve s1 asid 1 with
    | .stall => .waits (fun s => s)
    | .stop _ code => .waits (hubLogStop asid code 0)
    | .pinned va => go (hubPinned s1 asid va)
    | .ok s2 =>
      let n := c.curBench + 1
      match takeSnapshot s2 asid n with
      | (.done s3 list, nt) => go (openBench s3 asid 0 n nt list 0 0)
      | (.noRoom, _) => .waits (fun s => s)
      | (.pinned va, _) => go (hubPinned s1 asid va)

/-- The launch is a graph's: in a replay its walker re-dispatches it (R201). -/
def ofGraph (l : Launch) : Bool := match l.parent with | .graph _ => true | _ => false

/-- The EXT_LAUNCH entry of a launch that the host or another domain starts, its GTID that of task 0 (R189, R354); one that a
snapshot records is not an effect of an IRREVOCABLE kind in a replay. -/
def externalLog (s : State) (l : Launch) (go : State → Starting) : Starting :=
  let gtid := BitVec.ofNat 64 (l.asid * 2 ^ 54 + l.serial * 2 ^ 32)
  if !l.external then go s
  else if effectAhead s l.asid && !ofGraph l && !l.recorded then .waits (fun s => replayHalt s l.asid 6)
  else match logReserve s l.asid 1 with
    | .ok s1 => go (logAppend s1 l.asid [irrevocableEntry 0 0 gtid 0 5 l.record]).1
    | .stop _ code => .waits (hubLogStop l.asid code l.record)
    | .stall => .waits (fun s => s)
    | .pinned va => go (hubPinned s l.asid va)

/-- Start an accepted launch, from its record as it stands (R53 to R58, R194). A cancelled one drops all its tasks at
once. -/
def startLaunch (s : State) (id : Nat) : Starting :=
  match launchAt s id with
  | none => .waits (fun s => s)
  | some l =>
    match domOf s l.asid with
    | none => .waits (fun s => s)
    | some d =>
      if l.started then .waits (fun s => s)
      else
        let rb := cleanRead s l.asid l.record 128
        let r := rb.map LaunchRec.ofBytes
        let kb := match r with | some r => cleanRead s l.asid r.kmeta 32 | none => none
        match launchFaults s d l rb kb, r, kb.map KMeta.ofBytes with
        | code :: _, r, _ =>
          .failed (failLaunch s id l (r.map (·.counter)) code)
            (match r with | some r => counterUsable s l.asid r.counter | none => false)
        | [], some r, some k =>
          externalLog s l (fun s0 =>
            let (order, s1) := freshId s0
            let s2 := modLaunch s1 id (fun l => launchFrom s1 d l r k order)
            let own := match l.parent with | .graph g => some g | _ => none
            autoBench s2 l.asid own (fun s3 =>
              let s4 := counterWrite s3 l.asid r.counter r.total 0
              .started (if l.cancelled then cancelLaunch s4 false id else s4)))
        | [], _, _ => .waits (fun s => s)

end Sys2Proof.Machine
end

