-- ==== Sys2Proof/Machine/LaunchEvents.lean ====
section
/-!
DEFINITION. The events of launches and of tasks in their slots (R56 to R66): the start of a launch, the dispatchers, the
arrival and admission of messages (R59 to R61), pre-emption and the save area (R64, R65), time slices (R43), the delay
account (R221), and the end of a task (R53, R62).
-/

namespace Sys2Proof.Machine

/-! ### The start of a launch -/

/-- The failed checks of what a launch's start reads, its record and its kernel metadata, are counted (R37, R46). -/
def launchReads (s : State) (id : Nat) : State :=
  match launchAt s id with
  | none => s
  | some l =>
    if l.started then s
    else
      let s1 := hubCounts s l.asid l.record 128
      match cleanRead s l.asid l.record 128 with
      | some b => hubCounts s1 l.asid (LaunchRec.ofBytes b).kmeta 32
      | none => s1

/-- LAUNCH_START: an accepted launch that is no graph node's starts, or fails and is told to its parent (R52, R56). Items
of one job start in record order (R28). -/
def execLaunchStart (launchId : Nat) (s : State) : Host.Outcome State Fault Refusal :=
  match launchAt s launchId with
  | none => event s
  | some l =>
    if itemAhead s l.parent launchId then event s
    else match startLaunch (launchReads s launchId) launchId with
    | .started s1 => event s1
    | .waits f => event (f s)
    | .failed s1 _ => event (parentDone s1 l.parent true false)

/-! ### The delay account (R221) -/

/-- Change the entry of a domain's account for a sender. -/
def acctEntry (s : State) (asid sender : Nat) (f : AcctEntry → AcctEntry) : State :=
  modDom s asid (fun d => { d with acct := d.acct.map (fun e => if e.sender = sender then f e else e) })

/-- A maximum, saturating at 32 bits. -/
def acctMax (a v : Nat) : Nat := max a (min v (2 ^ 32 - 1))

/-- A message has arrived: it counts, with its transit. -/
def acctArrival (s : State) (m : Msg) : State :=
  let v := s.clock - m.stamp
  acctEntry s m.asid m.sender (fun e => { e with
    count := (e.count + 1) % 2 ^ 32, sumT := (e.sumT + v) % 2 ^ 64, maxT := acctMax e.maxT v })

/-- A message has been admitted or received: its queue wait. -/
def acctTaken (s : State) (m : Msg) : State :=
  let v := s.clock - m.arrived
  acctEntry s m.asid m.sender (fun e => { e with sumQ := (e.sumQ + v) % 2 ^ 64, maxQ := acctMax e.maxQ v })

/-- The run of the message a task took last ends. -/
def acctRun (s : State) (t : Task) : State :=
  match t.run with
  | none => s
  | some (sender, asid, start) =>
    let v := s.clock - start
    acctEntry s asid sender (fun e => { e with sumR := (e.sumR + v) % 2 ^ 64, maxR := acctMax e.maxR v })

/-! ### Dispatchers (R59) -/

/-- A TASK_START or RESUME for a core. -/
def startsOn (core : Nat) (m : Msg) : Bool := m.core == core && decide (m.kind ≠ .user)

/-- Free task slots of a core, as a dispatcher counts them: those of no task and, when it counts them already, of no message
sent there; it may do either (R343, R344, log entry 34). -/
def freeSlots (s : State) (counted : Bool) (core : Nat) : Nat :=
  16 - ((s.tasks.filter (fun e => keyCore e.1 == core)).length
    + if counted then (s.hub.msgs.filter (fun e => startsOn core e.2)).length
        + ((tabGet [] core s.cores.inbox).filter (startsOn core)).length else 0)

/-- No domain that has left the cluster, by a time-slice end or a new allotment, still has a task there (R43). -/
def clusterClear (s : State) (asid cluster : Nat) : Bool :=
  s.tasks.all (fun e => coreCluster (keyCore e.1) != cluster || e.2.home == asid
    || (match domOf s e.2.home with | some d => !d.evicted.contains cluster && d.allot.contains cluster | none => true))

/-- Live allotted cores of a domain on a die to which its dispatcher may send now. -/
def openCores (s : State) (counted : Bool) (asid : Nat) (d : Domain) (die : Nat) : List Nat :=
  (allottedCores s d die).filter (fun c =>
    !d.evicted.contains (coreCluster c) && clusterClear s asid (coreCluster c) && decide (0 < freeSlots s counted c))

/-- The core with the most free task slots, the lowest index on a tie. -/
def bestCore (s : State) (counted : Bool) (cs : List Nat) : Option Nat :=
  cs.foldl (fun acc c => match acc with
    | none => some c
    | some b => if freeSlots s counted b < freeSlots s counted c then some c else some b) none

/-- The core a domain's next message on a die goes to. -/
def targetCore (s : State) (counted : Bool) (asid die : Nat) : Option Nat :=
  match domOf s asid with
  | none => none
  | some d => if d.logStopped then none else bestCore s counted (openCores s counted asid d die)

/-- The next task index of a launch in a die's share (R58, R59). -/
def nextIndex (l : Launch) (die : Nat) : Option Nat :=
  let lo := if die = 0 then 0 else (l.stop[die - 1]?).getD 0
  let hi := (l.stop[die]?).getD 0
  match (l.redo.filter (fun t => decide (lo ≤ t) && decide (t < hi))).foldl
      (fun a t => match a with | none => some t | some b => some (min b t)) (none : Option Nat) with
  | some t => some t
  | none =>
    let n := (l.next[die]?).getD 0
    if n < hi then some n else none

/-- A dispatcher's candidate: the launch, its next index, and the core. -/
structure StartChoice where
  id : Nat
  launch : Launch
  index : Nat
  core : Nat
  deriving DecidableEq, Repr

/-- The launches a die's dispatcher can send a task of: those with an index left, of a live domain, and with a core. -/
def startChoices (s : State) (counted : Bool) (die : Nat) : List StartChoice :=
  s.hub.launches.filterMap (fun e =>
    let live := match domOf s e.2.asid with | some d => decide (d.state = .live) && !d.halted | none => false
    if !e.2.started || !live then none
    else match nextIndex e.2 die, targetCore s counted e.2.asid die with
      | some ix, some c => some { id := e.1, launch := e.2, index := ix, core := c }
      | _, _ => none)

/-- Highest priority, then start order. -/
def bestStart (cs : List StartChoice) : Option StartChoice :=
  cs.foldl (fun acc c => match acc with
    | none => some c
    | some b =>
      if b.launch.priority < c.launch.priority
          || (b.launch.priority == c.launch.priority && decide (c.launch.order < b.launch.order)) then some c
      else some b) none

/-- The live allotted cores of a domain on a die are none. -/
def noCoresOn (s : State) (asid die : Nat) : Bool :=
  match domOf s asid with | some d => (allottedCores s d die).isEmpty | none => true

/-- The saved tasks whose RESUME a die's dispatcher can send, with the core: its own, and those of a die on which their
domain has no live core any more (R65). -/
def resumeChoices (s : State) (counted : Bool) (die : Nat) : List (Nat × Saved × Nat) :=
  s.hub.saved.filterMap (fun e =>
    if e.2.withheld || e.2.sent || (e.2.die != die && !noCoresOn s e.2.task.home e.2.die) then none
    else (targetCore s counted e.2.task.home die).map (fun c => (e.1, e.2, c)))

/-- Highest priority, those to be unwound first (R163), then in order. -/
def bestResume (cs : List (Nat × Saved × Nat)) : Option (Nat × Saved × Nat) :=
  cs.foldl (fun acc c => match acc with
    | none => some c
    | some b =>
      let p := fun (x : Nat × Saved × Nat) => 2 * x.2.1.task.priority + boolNat (!x.2.1.task.marks.isEmpty)
      if p b < p c || (p b == p c && decide (c.2.1.order < b.2.1.order)) then some c else some b) none

/-- Put a message on its way. -/
def postMsg (s : State) (m : Msg) : Nat × State :=
  let (id, s1) := freshId s
  (id, modHub s1 (fun h => { h with msgs := tabSet id { m with order := id } h.msgs }))

/-- GTID of a launch's task (R57). -/
def gtidOf (asid serial ix : Nat) : Word := BitVec.ofNat 64 (asid * 2 ^ 54 + serial * 2 ^ 32 + ix)

/-- The coordinates of a task index (R57). -/
def taskIdx (grid : List Nat) (t : Nat) : Tri :=
  let g0 := max ((grid[0]?).getD 1) 1
  let g1 := max ((grid[1]?).getD 1) 1
  { x := t % g0, y := t / g0 % g1, z := t / (g0 * g1) }

/-- The TASK_START message of a task (R60). -/
def startMsg (s : State) (die : Nat) (c : StartChoice) : Msg :=
  let i := taskIdx c.launch.grid c.index
  { kind := .taskStart, sender := 2 ^ 15 + die, size := 28, stamp := s.clock, handler := c.launch.entry
    payload := BitVec.ofNat 384 ((gtidOf c.launch.asid c.launch.serial c.index).toNat + 2 ^ 64 * c.launch.record
      + 2 ^ 128 * i.x + 2 ^ 160 * i.y + 2 ^ 192 * i.z)
    core := c.core, asid := c.launch.asid, ref := c.id }

/-- DISPATCH_TASK_START: the dispatcher of a die sends its next TASK_START, unless a RESUME of the same or a higher priority
can be sent. -/
def execDispatchTaskStart (d : DispatchPick) (s : State) : Host.Outcome State Fault Refusal :=
  match bestStart (startChoices s d.counted d.die) with
  | none => event s
  | some c =>
    let ahead := match bestResume (resumeChoices s d.counted d.die) with
      | some r => decide (c.launch.priority ≤ r.2.1.task.priority)
      | none => false
    if ahead then event s
    else
      let s1 := (postMsg s (startMsg s d.die c)).2
      event (modLaunch s1 c.id (fun l =>
        if l.redo.contains c.index then { l with redo := l.redo.filter (· != c.index) }
        else { l with next := l.next.set d.die (c.index + 1) }))

/-- The RESUME message of a saved task (R60, R206). -/
def resumeMsg (s : State) (die id : Nat) (sv : Saved) (core : Nat) : Msg :=
  { kind := .resume, sender := 2 ^ 15 + die, size := 27, stamp := s.clock, handler := 0
    payload := BitVec.ofNat 384 (sv.task.id.gtid.toNat + 2 ^ 64 * sv.addr + 2 ^ 128 * (sv.task.icount % 2 ^ 64)
      + 2 ^ 192 * sv.task.wtag.toNat)
    core := core, asid := sv.task.home, ref := id }

/-- DISPATCH_RESUME: the dispatcher of a die sends its next RESUME, unless a TASK_START of a higher priority can be
sent. -/
def execDispatchResume (d : DispatchPick) (s : State) : Host.Outcome State Fault Refusal :=
  match bestResume (resumeChoices s d.counted d.die) with
  | none => event s
  | some (id, sv, core) =>
    let ahead := match bestStart (startChoices s d.counted d.die) with
      | some c => decide (sv.task.priority < c.launch.priority)
      | none => false
    if ahead then event s
    else event (modHub (postMsg s (resumeMsg s d.die id sv core)).2 (fun h => { h with
      saved := tabMod id (fun v => { v with sent := true }) h.saved }))

/-- Messages held for a core that its dispatcher may no longer send there go back to it: TASK_STARTs are dispatched
again, RESUMEs sent again (R19, R43). -/
def recallMsg (s : State) (m : Msg) : State :=
  match m.kind with
  | .taskStart => modLaunch s m.ref (fun l => { l with redo := l.redo ++ [natBits m.payload.toNat 0 32] })
  | .resume => modHub s (fun h => { h with saved := tabMod m.ref (fun v => { v with sent := false }) h.saved })
  | .user => s

/-- Recall the task messages of a domain, or of every domain, held for cores. -/
def recallMsgs (s : State) (asid : Option Nat) (cores : Nat → Bool) : State :=
  let hit := fun (m : Msg) => decide (m.kind ≠ .user) && cores m.core
    && (match asid with | some a => m.asid == a | none => true)
  let boxed := s.cores.inbox.foldr (fun e a => e.2.filter hit ++ a) []
  let held := (s.hub.msgs.map (·.2)).filter hit
  (boxed ++ held).foldl recallMsg (dropMsgs s hit)

/-! ### Arrival (R60) -/

/-- The inbox of a core. -/
def inboxAt (s : State) (core : Nat) : List Msg := tabGet [] core s.cores.inbox
/-- Change a core's inbox. -/
def setInbox (s : State) (core : Nat) (ms : List Msg) : State :=
  { s with cores := { s.cores with inbox := tabPut [] core ms s.cores.inbox } }

/-- An entry of the message's class is free. -/
def inboxRoom (s : State) (m : Msg) : Bool :=
  let b := inboxAt s m.core
  decide (b.length < 64) && (decide (m.kind ≠ .user) || decide ((b.filter (fun x => x.kind = .user)).length < 48))

/-- An earlier message of the same task to the same endpoint is still on its way (R333), or an earlier TASK_START of the same
dispatcher to the same core: the tasks of a launch come to a core in the order in which they were sent (R345, log entry 34). -/
def sentBefore (s : State) (id : Nat) (m : Msg) : Bool :=
  s.hub.msgs.any (fun e => decide (e.1 < id) && match m.kind, e.2.kind with
    | .user, .user => e.2.source == m.source && e.2.ref == m.ref
    | .taskStart, .taskStart => e.2.sender == m.sender && e.2.core == m.core
    | _, _ => false)

/-- The message is discarded on arrival: its HANDLER does not translate as executable, or its receiver is not live. -/
def discarded (s : State) (m : Msg) : Bool :=
  match m.kind with
  | .resume => false
  | .user => (match domOf s m.asid with | some d => d.state != .live | none => true)
      || !executable s m.asid (pcLine m.handler)
  | .taskStart => !executable s m.asid (pcLine m.handler)

/-- MESSAGE_ARRIVAL: the message enters the inbox, is discarded, or stays held by back-pressure. -/
def execMessageArrival (message : Nat) (s : State) : Host.Outcome State Fault Refusal :=
  match tabFind message s.hub.msgs with
  | none => event s
  | some m =>
    let gone := modHub s (fun h => { h with msgs := tabDel message h.msgs })
    if sentBefore s message m then event s
    else if discarded s m then
      event { gone with cores := { gone.cores with
        discarded := tabPut 0 m.core (tabGet 0 m.core gone.cores.discarded + 1) gone.cores.discarded } }
    else if !inboxRoom s m then event s
    else
      let (order, s1) := freshId gone
      let m1 := { m with arrived := s.clock, order := order, fromCore := none }
      event (acctArrival (setInbox s1 m.core (inboxAt s1 m.core ++ [m1])) m1)

/-! ### Admission (R61) -/

/-- The lowest of `total` units from which `n` in a row are free. -/
def lowestRun (total n : Nat) (free : Nat → Bool) : Option Nat :=
  (upTo (total + 1 - n)).find? (fun i => (upTo n).all (fun j => free (i + j)))

/-- Unit u of a quadrant's vector registers belongs to no task. -/
def vregFree (s : State) (quad u : Nat) : Bool :=
  s.tasks.all (fun e => keyQuad e.1 != quad || !(decide (e.2.vbase / 8 ≤ u) && decide (u < (e.2.vbase + e.2.vregs) / 8)))

/-- Where a task is admitted: its slot key, its run of registers, and its scratchpad window. -/
structure Berth where
  key : Nat
  vbase : Nat
  sbase : Nat
  deriving DecidableEq, Repr

/-- Scratchpad units of a task. -/
def scratchUnits (scratch : Nat) : Nat := (scratch + 4095) / 4096

/-- The quadrant's lowest free slot. -/
def freeSlotOf (s : State) (quad : Nat) : Option Nat :=
  ((upTo 4).map (fun i => 4 * quad + i)).find? (fun k => (taskAt s k).isNone)

/-- A berth on a core for `vregs` registers and `scratch` bytes. -/
def findBerth (s : State) (core vregs scratch : Nat) : Option Berth :=
  let n := vregs / 8
  let quads := (upTo 4).filterMap (fun q =>
    let quad := 4 * core + q
    match freeSlotOf s quad, lowestRun 16 n (vregFree s quad) with
    | some k, some u => some (((upTo 16).filter (vregFree s quad)).length, k, u)
    | _, _ => none)
  let best := quads.foldl (fun acc c => match acc with
    | none => some c
    | some b => if b.1 < c.1 then some c else some b) none
  match best with
  | none => none
  | some (_, k, u) =>
    if scratch = 0 then some { key := k, vbase := 8 * u, sbase := 0 }
    else (lowestRun 64 (scratchUnits scratch) (fun i => tabGet 0 (core * 64 + i) s.cores.owner == 0)).map
      (fun i => { key := k, vbase := 8 * u, sbase := 4096 * i })

/-- Give the window's units to a domain (ASID + 1), or free them (0). -/
def setOwner (s : State) (core sbase scratch v : Nat) : State :=
  { s with cores := { s.cores with
    owner := (upTo (scratchUnits scratch)).foldl (fun m i => tabPut 0 (core * 64 + sbase / 4096 + i) v m) s.cores.owner } }

/-- The launch a message starts a task of, or the saved task it resumes. -/
def msgTask (s : State) (m : Msg) : Option (Nat × Nat × Nat) :=
  match m.kind with
  | .taskStart => (launchAt s m.ref).map (fun l => (l.priority, l.vregs, l.scratch))
  | .resume => (tabFind m.ref s.hub.saved).map (fun v => (v.task.priority, v.task.vregs, v.task.scratch))
  | .user => none

/-- The lowest slot of a domain's stack area that no task of it uses (R152). -/
def freeStackIx (s : State) (asid : Nat) : Nat :=
  let used := ((allTasks s).filter (fun t => t.home == asid)).map (·.stackIx)
  ((upTo (used.length + 1)).find? (fun i => !used.contains i)).getD 0

/-- The lesser of the tensor's rest and the sub-tile (R57). -/
def tileExt (tile text org : Nat) : Nat := min tile (text - org)

/-- The identity registers of a task (R57). -/
def identOf (l : Launch) (ix : Nat) : Ident :=
  let g := fun (x : List Nat) (i : Nat) => (x[i]?).getD 0
  let i := taskIdx l.grid ix
  let org : Tri := if l.tiles then { x := i.x * g l.tile 0, y := i.y * g l.tile 1, z := i.z * g l.tile 2 } else {}
  let ext : Tri := if l.tiles then
      { x := tileExt (g l.tile 0) (g l.text 0) org.x, y := tileExt (g l.tile 1) (g l.text 1) org.y
        z := tileExt (g l.tile 2) (g l.text 2) org.z }
    else {}
  { gtid := gtidOf l.asid l.serial ix, task := ix, grid := { x := g l.grid 0, y := g l.grid 1, z := g l.grid 2 }
    idx := i, org := org, ext := ext, args := l.args }

/-- Advance a slot's admission count: its value before (R206). -/
def takeIn (s : State) (key : Nat) : Nat × State :=
  let n := tabGet 0 key s.cores.admissions
  (n, { s with cores := { s.cores with admissions := tabPut 0 key ((n + 1) % 256) s.cores.admissions } })

/-- Admit a launch's task: registers zero, its window zeroed and empty, its budget loaded, its writer tag fixed. -/
def admitStart (s : State) (m : Msg) (l : Launch) (b : Berth) : State :=
  let core := keyCore b.key
  let ix := natBits m.payload.toNat 0 32
  let (adm, s1) := takeIn s b.key
  let id := identOf l ix
  let t : Task :=
    { id := id, launch := m.ref, priority := l.priority, resident := l.resident, vregs := l.vregs, scratch := l.scratch
      pc := l.entry, srs := BitVec.ofNat 64 (seedSR id.gtid.toNat), asid := l.asid, home := l.asid
      stackIx := freeStackIx s l.asid, budget := l.budget, reload := l.budget, sbase := b.sbase, vbase := b.vbase
      wtag := taskTag core (keySlot b.key) adm, entryCheck := true
      run := some (m.sender, l.asid, s.clock) }
  let s2 := setOwner s1 core b.sbase l.scratch (l.asid + 1)
  let s3 := if l.scratch = 0 then s2
    else { s2 with cores := wipeWindow s2.cores core b.sbase (4096 * scratchUnits l.scratch) }
  tailSync (setTask s3 b.key t) b.key l.entry

/-- Admit a saved task: its state from the save area, its window at the new place, its area freed; after budget expiry its
budget is loaded again; one marked for it is unwound before any instruction (R65, R163, R183). An area or trap frame whose
pages are not pinned is not read or written, and the task is treated as under a double fault (R182). -/
def admitResume (s : State) (m : Msg) (sv : Saved) (b : Berth) : State :=
  let core := keyCore b.key
  let bytes := readArea s sv.area sv.addr sv.task
  let s1 := (takeIn (hubCounts s sv.area sv.addr (saveBody sv.task)) b.key).2
  let areaBad := pinnedFault s sv.area sv.addr (saveBody sv.task)
  let t0 := if areaBad.isSome then sv.task else loadTask bytes sv.task
  let bad := areaBad.or (if t0.handler then pinnedFault s t0.asid (trapFrameVa s t0.asid b.key) 256 else none)
  let t : Task := { t0 with
    st := .ready, sbase := b.sbase, vbase := b.vbase, budget := if sv.cause = 0x20 then t0.reload else t0.budget
    preempt := 0, withhold := false, nextIssue := 0, pend := [], arriving := [], fbuf := none
    run := some (m.sender, t0.home, s.clock) }
  let s2 := setOwner s1 core b.sbase t.scratch (t.home + 1)
  let s3 := if t.scratch = 0 then s2
    else { s2 with cores := wipeWindow s2.cores core b.sbase (4096 * scratchUnits t.scratch) }
  let s4 := setTask s3 b.key t
  let s5 := if bad.isSome then s4 else loadWindow s4 bytes (poiFlags s sv.area (sv.addr + 1424) 256) t b.key
  let s6 := modHub (if sv.keep then s5 else savePoolFree s5 sv.area sv.addr) (fun h => { h with saved := tabDel m.ref h.saved })
  match bad with
  | some va => pinnedContext (tailSync s6 b.key t.pc) b.key va 0 t.pc
  | none => resumeUnwind (tailSync s6 b.key t.pc) b.key

/-- A bench waits to be opened in the message's domain: no task of it is admitted meanwhile (R195, log entry 29). -/
def benchBars (s : State) (m : Msg) : Bool := decide (m.kind = .taskStart) && !(benchLine s m.asid).isEmpty

/-- Insert a message by priority, then arrival. -/
def insertMsg (prio : Msg → Nat) (m : Msg) : List Msg → List Msg
  | [] => [m]
  | x :: t => if prio x < prio m || (prio x == prio m && decide (m.order < x.order)) then m :: x :: t
      else x :: insertMsg prio m t

/-- The messages an admission passes over, and the one admitted with its berth: the first in the order that fits, unless
one passed over 64 times stands before it. -/
def pickMsg (s : State) (core : Nat) : List Msg → List Nat → Option (List Nat × Msg × Berth)
  | [], _ => none
  | m :: rest, skipped =>
    let fit := if benchBars s m then none
      else match msgTask s m with | some (_, v, sc) => findBerth s core v sc | none => none
    match fit with
    | some b => some (skipped, m, b)
    | none => if 64 ≤ m.passed then none else pickMsg s core rest (m.order :: skipped)

/-- TASK_ADMIT: a message of the core's inbox is admitted to a slot. -/
def execTaskAdmit (core : Nat) (s : State) : Host.Outcome State Fault Refusal :=
  let prio := fun (m : Msg) => match msgTask s m with | some (p, _, _) => p | none => 0
  let ms := ((inboxAt s core).filter (fun m => (msgTask s m).isSome)).foldl (fun a m => insertMsg prio m a) []
  match pickMsg s core ms [] with
  | none => event s
  | some (skipped, m, b) =>
    let box := ((inboxAt s core).filter (fun x => x.order != m.order)).map (fun x =>
      if skipped.contains x.order then { x with passed := x.passed + 1 } else x)
    let s1 := acctTaken (setInbox s core box) m
    match m.kind, launchAt s1 m.ref, tabFind m.ref s1.hub.saved with
    | .taskStart, some l, _ => event (admitStart s1 m l b)
    | .resume, _, some sv => event (admitResume s1 m sv b)
    | _, _, _ => event s

/-! ### Pre-emption and the save area (R64 to R66) -/

/-- BUDGET_EXPIRY: the count of a task has reached zero: it is pre-empted, or stopped when it has been cancelled. One that is
already being pre-empted for another cause keeps its count of zero, and issues nothing after its resume before this event acts
on it: DESIGN CHOICE (log entry 83). -/
def execBudgetExpiry (slot : Nat) (s : State) : Host.Outcome State Fault Refusal :=
  match taskAt s slot with
  | none => event s
  | some t =>
    if t.clean || t.budget ≠ 0 || t.st = .ended || t.st = .preempting then event s
    else if t.cancelled && t.st ≠ .inCall then event (endSlot s slot false true)
    else event (startPreempt s slot 0x20)

/-- The task's own domain has left the cluster of its core (R43). -/
def clusterLeft (s : State) (key : Nat) (t : Task) : Bool :=
  match domOf s t.home with
  | some d => d.evicted.contains (coreCluster (keyCore key)) || !d.allot.contains (coreCluster (keyCore key))
  | none => false

/-- The slot's window and registers are released (R65, R62); the window is zeroed where its domain has left the cluster (R43). -/
def releaseSlot (s : State) (key : Nat) (t : Task) : State :=
  let s0 := if t.scratch ≠ 0 && clusterLeft s key t then
      { s with cores := wipeWindow s.cores (keyCore key) t.sbase (4096 * scratchUnits t.scratch) }
    else s
  let s1 := if t.scratch = 0 then s0 else setOwner s0 (keyCore key) t.sbase t.scratch 0
  { s1 with tasks := tabDel key s1.tasks }

/-- A task that has left its slot for a save area, its RESUME queued at the die's dispatcher. -/
def keepSaved (s : State) (key : Nat) (t : Task) (va : Nat) : State :=
  let (id, s1) := freshId s
  let sv : Saved :=
    { task := { t with preempt := 0, withhold := false, feWait := none, waitSince := 0
                       wantsJob := false, jobGrant := false, pend := [], arriving := [], fbuf := none, moveUntil := 0 }
      addr := va, area := t.asid, cause := t.preempt, withheld := t.withhold, order := id, die := coreDie (keyCore key) }
  modHub s1 (fun h => { h with saved := tabSet id sv h.saved })

/-- PREEMPT_SAVE: once the task's engine jobs and accesses are done, its state goes to a save area of the domain it runs
in, and its slot is free. While no area is free it stays (R183). -/
def execPreemptSave (slot : Nat) (s : State) : Host.Outcome State Fault Refusal :=
  match taskAt s slot with
  | none => event s
  | some t =>
    if t.st ≠ .preempting || jobsInFlight s t.id.gtid 0 || !(accessesOf s slot).isEmpty then event s
    else match saveTask s slot t t.preempt with
      | .noRoom => event s
      | .pinned va => event (pinnedContext s slot va t.preempt t.pc)
      | .done s1 va =>
        let s2 := acctRun (tailEnd s1 slot (if t.preempt = 0x23 then 2 else 1)) t
        event (releaseSlot (keepSaved s2 slot t va) slot t)

/-! ### Time slices (R43) -/

/-- Tasks of a domain leave some clusters with cause 0x21, and the messages held for them there go back. -/
def leaveClusters (s : State) (asid : Nat) (cs : List Nat) : State :=
  let keys := (s.tasks.filter (fun e => e.2.home == asid && cs.contains (coreCluster (keyCore e.1)))).map (·.1)
  let s1 := keys.foldl (fun a k => startPreempt a k 0x21) s
  recallMsgs s1 (some asid) (fun c => cs.contains (coreCluster c))

/-- What the hub clears on a cluster that a domain leaves: the scratchpad units of no task, the cores' L1 lines, and the
MXE's key slots. A job of the domain that is still running has its key (R47), which leaves the MXE with it. -/
def clearCluster (s : State) (c : Nat) : State :=
  (upTo 8).foldl (fun a i =>
    let core := 8 * c + i
    let a1 := (upTo 64).foldl (fun b u =>
      if tabGet 0 (core * 64 + u) b.cores.owner = 0 then { b with cores := wipeWindow b.cores core (4096 * u) 4096 }
      else b) a
    { a1 with cores := { a1.cores with l1 := tabClear (core * 512) (core * 512 + 512) a1.cores.l1 } })
    (modHub s (fun h => { h with clusters := tabMod c (fun q => { q with keys := [] }) h.clusters }))

/-- TIME_SLICE_END: the domain leaves the clusters it shares, and the next one may come back to them. -/
def execTimeSliceEnd (asid next : Nat) (s : State) : Host.Outcome State Fault Refusal :=
  match domOf s asid, domOf s next with
  | some d, some n =>
    if !d.timesliced || !n.timesliced || asid = next then event s
    else
      let cs := d.allot.filter (fun c => n.allot.contains c && !d.evicted.contains c)
      let s1 := modDom s asid (fun d => { d with evicted := d.evicted ++ cs })
      let s2 := modDom s1 next (fun n => { n with evicted := n.evicted.filter (fun c => !cs.contains c) })
      event (cs.foldl clearCluster (leaveClusters s2 asid cs))
  | _, _ => event s

/-! ### The end of a task (R53, R62) -/

/-- The seal blocks of a task that ends below depth 0 go back to their pools. -/
def freeSeals (s : State) (t : Task) : State :=
  (upTo t.depth).foldl (fun a i =>
    let f := readFrame a t (i + 1)
    sealFree a f.caller f.sealVa) s

/-- TASK_FINISH: an ended task whose accesses are performed and whose engine jobs are complete frees its slot, and its
launch counts it finished. -/
def execTaskFinish (slot : Nat) (s : State) : Host.Outcome State Fault Refusal :=
  match taskAt s slot with
  | none => event s
  | some t =>
    if t.st ≠ .ended || !t.retry.isEmpty || !(accessesOf s slot).isEmpty || jobsInFlight s t.id.gtid 0 then event s
    else
      let s1 := acctRun (freeSeals s t) t
      event (launchTasksDone (releaseSlot s1 slot t) t.launch 1 t.faulted)

end Sys2Proof.Machine
end

