-- ==== Sys2Proof/Machine/MemOps.lean ====
section
/-!
DEFINITION. MemOp (R298, R299) and what it rests on: the elements of an access and where they lie (R89, R96, R102, R103,
R156), the umbra check of its lines (R208, R211), what an access performs at its place (R106, R188, R189, R309), the
retry ring (R176 to R178), full-empty waiting (R74, R75), and the registers it writes (R80, R107).
-/

namespace Sys2Proof.Machine

/-! ### Elements -/

/-- One element of an access: its number, its place Where(i) modulo 2^64, its bytes, the data stored or operand, the
compare value, the poison of the data, and its byte offset in the destination register. -/
structure Elem where
  ix : Nat := 0
  p : Nat
  size : Nat
  data : Nat := 0
  cmp : Nat := 0
  poi : Bool := false
  roff : Nat := 0
  /-- The governing mask is poisoned (R278). -/
  mpoi : Bool := false
  deriving DecidableEq, Repr

/-- A whole access of one instruction. -/
structure MemReq where
  op : AccOp
  need : Need
  elems : List Elem
  align : Nat
  /-- Contiguous elements: one retry entry per page that faults (R176). -/
  contig : Bool
  /-- Keys of the destination registers, s0 left out. -/
  dests : List Nat
  /-- A load, store, `mld` or `mst`, as R208 means plain. -/
  plain : Bool
  /-- Poison of what MemOp's CommitCheck looks at (R108). -/
  poison : Bool
  /-- The width reported for the access, when it is not that of its elements. -/
  width : Nat := 0
  /-- The access is never umbra-checked (R52, R337). -/
  exempt : Bool := false
  deriving DecidableEq, Repr

/-- Where an element lies. -/
inductive Spot where
  /-- In memory: the domain whose tables translate it, its virtual and physical address, its leaf, and whether it lies
  in a memory window. -/
  | mem (owner va pa : Nat) (l : Leaf) (win : Bool)
  /-- A replayable fault on the ring of `owner`. -/
  | fault (owner va : Nat)
  | spad (core off : Nat)
  deriving DecidableEq, Repr

/-- The outcome of locating an element. -/
inductive Located where
  | at_ (x : Spot)
  | cause (c : Cause)
  /-- PERM with a MALFORMED_PTE notice. -/
  | malformed (owner va lvl : Nat)
  deriving DecidableEq, Repr

/-- The signed value of a 64-bit address sum. -/
def signed64 (p : Nat) : Int := sval 64 p

/-- Every scratchpad unit that `n` bytes from `off` touch is owned by an ASID (R103). -/
def unitsOwned (s : State) (core off n asid : Nat) : Bool :=
  (upTo ((off + n - 1) / 4096 - off / 4096 + 1)).all (fun j =>
    tabGet 0 (core * 64 + off / 4096 + j) s.cores.owner == asid + 1)

/-- A scratchpad element (R102, R103, R155). -/
def locateSpad (s : State) (key : Nat) (t : Task) (f : FmtM) (e : Elem) : Located :=
  let o := signed64 e.p
  if f.sp = .own then
    if t.depth ≠ 0 || o < 0 || (t.scratch : Int) < o + e.size then .cause .perm
    else .at_ (.spad (keyCore key) (t.sbase + o.toNat))
  else
    let core := if f.sp = .peer then coreCluster (keyCore key) * 8 + f.pc.toNat % 8 else f.pc.toNat
    if o < 0 || (262144 : Int) < o + e.size || !coreLive s.hub.pkg core then .cause .perm
    else if unitsOwned s core o.toNat e.size t.asid then .at_ (.spad core o.toNat)
    else .cause .perm

/-- The outcome of a walk for an element, in the tables of `owner`. -/
def locateIn (s : State) (core owner va : Nat) (need : Need) (win : Bool) : Located :=
  match xlatOf (coreWalk s core owner va) va need false with
  | .ok pa l => .at_ (.mem owner va pa l win)
  | .perm => .cause .perm
  | .malformed lvl => .malformed owner va lvl
  | .replay => .at_ (.fault owner va)

/-- Where an element of the window aperture lies: in the owner's memory, or nowhere (R156). -/
def windowPlace (s : State) (t : Task) (need : Need) (e : Elem) : Option (Nat × Nat) :=
  let fr := readFrame s t t.depth
  let o := e.p - apertureBase
  if t.depth = 0 || !fr.wv || fr.mwLen < o + e.size then none
  else if ((need = .load || need = .rmw) && !natBit fr.mwPerm 0) || ((need = .store || need = .rmw) && !natBit fr.mwPerm 1)
  then none
  else some (domAtDepth s t fr.wdep, fr.mwBase + o)

/-- An element of the window aperture (R156). -/
def locateWindow (s : State) (core : Nat) (t : Task) (need : Need) (e : Elem) : Located :=
  match windowPlace s t need e with
  | some (owner, va) => locateIn s core owner va need true
  | none => .cause .perm

/-- Translate or place one element (R96, R102). -/
def locate (s : State) (key : Nat) (t : Task) (f : FmtM) (need : Need) (e : Elem) : Located :=
  if f.sp ≠ .global then locateSpad s key t f e
  else if 2 ^ 57 ≤ e.p then .cause .perm
  else if apertureBase ≤ e.p then locateWindow s (keyCore key) t need e
  else locateIn s (keyCore key) t.asid e.p need false

/-! ### Atomics (R309 to R313) -/

/-- An operation on `w`-bit words by `red`'s numbering: 0 add, 1 and, 2 or, 3 xor, 4 min, 5 max, 6 swp. -/
def rmwOp (k : Nat) (isSigned : Bool) (w old v : Nat) : Nat :=
  let below := if isSigned then decide (sval w old ≤ sval w v) else decide (old ≤ v)
  match k with
  | 0 => (old + v) % 2 ^ w
  | 1 => old &&& v
  | 2 => old ||| v
  | 3 => old ^^^ v
  | 4 => if below then old else v
  | 5 => if below then v else old
  | _ => v

/-- New (R309): what an atomic writes, or none where it writes nothing. `aop` is opcode − 0xA0. -/
def atomicNew (op : AccOp) (size old v cmp : Nat) : Option Nat :=
  match op with
  | .load => none
  | .store => some v
  | .red ch => some (rmwOp ch true (8 * size) old v)
  | .atomic aop ch =>
    if aop = 7 || aop = 8 then (if old = cmp then some v else none)
    else if aop = 10 then some (rmwOp ch true (8 * size) old v)
    else some (rmwOp aop (ch == 0) (8 * size) old v)

/-- What an atomic writes depends on the word it reads: New is computed from it, or a compare with it decides (R107, R309). -/
def readsOld : AccOp → Bool
  | .store | .atomic 6 _ | .atomic 10 6 => false
  | _ => true

/-- The operation is an atomic or `red`. -/
def isRmw : AccOp → Bool
  | .atomic _ _ | .red _ => true
  | _ => false

/-! ### The umbra check of an access (R208) -/

/-- The entry the check of an element's page uses: of the task's own page the newest made at its depth; of a window page
the newest made at the owner's depth or below in the owner's domain (R155, R156). -/
def umbraEntry (s : State) (t : Task) (owner : Nat) (win : Bool) (obj : Nat) : Option AcqEntry :=
  let ok := fun (e : AcqEntry) =>
    e.obj == obj &&
      (if win then decide (e.depth ≤ (readFrame s t t.depth).wdep) && domAtDepth s t e.depth == owner
       else e.depth == t.depth)
  (t.acq.filter ok).getLast?

/-- Whether an element at a place writes, as the check sees it: a compare-and-swap that fails is a read. -/
def elemWrites (s : State) (op : AccOp) (e : Elem) (pa : Nat) : Bool :=
  (atomicNew op e.size (physNat s.mem pa e.size) e.data e.cmp).isSome

/-- The accessor of a line, as the check sees it. -/
def accessorOf (s : State) (key : Nat) (t : Task) (rq : MemReq) (e : Elem) (owner pa : Nat) (l : Leaf) (win : Bool) :
    UmbraAcc :=
  let obj := match region s owner l.region with | some (o, _) => o | none => 0
  { reads := rq.need != .store, writes := elemWrites s rq.op e pa, plain := rq.plain, tag := t.wtag.toNat
    core := keyCore key, entry := if l.cls = .bound then umbraEntry s t owner win obj else none, engine := false }

/-- The width an access reports in traps and race records. -/
def MemReq.reportWidth (rq : MemReq) (e : Elem) : Nat := if rq.width = 0 then e.size else rq.width

/-- What a race record of a task's access says (R212). -/
def raceInfoOf (s : State) (t : Task) (rq : MemReq) (e : Elem) (owner : Nat) (l : Leaf) (win : Bool) : RaceInfo :=
  { gtid := t.id.gtid, pc := ownPc s t, engine := false, window := win, depth := t.depth
    width := rq.reportWidth e, addr := e.p
    sync := match region s owner l.region with | some (o, _) => o | none => 0
    icount := ownIcount s t }

/-- A cause with its address and record. -/
structure Finding where
  cause : Cause
  addr : Nat
  record : BitVec 512 := 0
  deriving DecidableEq, Repr

/-- The elements of an access with their places. -/
abbrev Placed := List (Elem × Spot)

/-- One element of each physical line of a BOUND or ATOMIC page, by ascending address as the instruction used it: a memory
window may begin in the middle of a line (R156). -/
def checkedLines (ps : Placed) : SMap (Elem × Spot) :=
  ps.foldl (fun m x =>
    match x.2 with
    | .mem _ _ pa l _ =>
      let seen := m.any (fun y => match y.2.2 with | .mem _ _ q _ _ => q / 128 == pa / 128 | _ => false)
      if l.cls = .loose || seen then m else tabSet x.1.p x m
    | _ => m) []

/-- The check of one line: the state, with a record written to the race ring under REPORT, and the finding. -/
def checkLine (s : State) (key : Nat) (t : Task) (rq : MemReq) (x : Elem × Spot) : State × Option Finding :=
  match x.2 with
  | .mem owner _ pa l win =>
    if l.cls = .bound && (region s owner l.region).isNone then (s, some { cause := .perm, addr := x.1.p })
    else if umbraMode s owner = 2 || rq.exempt then (s, none)
    else
      let a := accessorOf s key t rq x.1 owner pa l win
      let m := readMeta s.mem pa
      match umbraCause a l.cls m with
      | none => (s, none)
      | some (c, w) =>
        let rec_ := raceRecord (raceInfoOf s t rq x.1 owner l win) a m c w
        if umbraMode s owner = 0 then (s, some { cause := c, addr := x.1.p, record := rec_ })
        else (raceReport s owner rec_, none)
  | _ => (s, none)

/-- One element of each physical line an access touches, in element order. -/
def linesTouched (ps : Placed) : Placed :=
  (ps.foldl (fun m x => match x.2 with
    | .mem _ _ pa _ _ =>
      if m.any (fun y => match y.2 with | .mem _ _ q _ _ => q / 128 == pa / 128 | _ => false) then m else x :: m
    | _ => m) []).reverse

/-- The lines of an access come in, for the domain whose tables translate each (R46). -/
def linesIn (s : State) (ps : Placed) : State :=
  (linesTouched ps).foldl (fun a x => match x.2 with
    | .mem owner _ pa _ _ => lineIn a owner pa
    | _ => a) s

/-- The checks of every line. -/
def checkLines (s : State) (key : Nat) (t : Task) (rq : MemReq) (ps : Placed) : State × List Finding :=
  (checkedLines ps).foldl (fun a x =>
    let r := checkLine a.1 key t rq x.2
    (r.1, a.2 ++ r.2.toList)) (s, [])

/-- A write's update of its line's metadata (R208). -/
def markLine (s : State) (key : Nat) (t : Task) (rq : MemReq) (x : Elem × Spot) : State :=
  match x.2 with
  | .mem owner _ pa l win => umbraWrite s owner (accessorOf s key t rq x.1 owner pa l win) l.cls pa
  | _ => s

/-! ### Causes (R169, R299) -/

/-- The finding of lowest rank, the first in order among equals. -/
def lowestFinding : List Finding → Option Finding
  | [] => none
  | x :: rest =>
    match lowestFinding rest with
    | some y => if y.cause.rank < x.cause.rank then some y else some x
    | none => some x

/-- An access resolved: the causes found and the elements with a place; those misaligned that have one; a malformed entry
noted. -/
structure Resolved where
  finds : List Finding := []
  placed : Placed := []
  odd : Placed := []
  bad : Option (Nat × Nat × Nat) := none
  deriving DecidableEq, Repr

/-- Align and locate every element in order. -/
def resolveElems (s : State) (key : Nat) (t : Task) (f : FmtM) (rq : MemReq) : Resolved :=
  rq.elems.foldl (fun a e =>
    if e.p % rq.align ≠ 0 then { a with
        finds := a.finds ++ [{ cause := .align, addr := e.p }]
        odd := match locate s key t f rq.need e with
          | .at_ x => a.odd ++ [(e, x)]
          | _ => a.odd }
    else match locate s key t f rq.need e with
      | .at_ x => { a with placed := a.placed ++ [(e, x)] }
      | .cause c => { a with finds := a.finds ++ [{ cause := c, addr := e.p }] }
      | .malformed owner va lvl =>
        { a with finds := a.finds ++ [{ cause := .perm, addr := e.p }], bad := a.bad.or (some (owner, va, lvl)) }) {}

/-- Width of an AtomicOp the root port completes (R35). -/
def aopWidth (p : Package) (size : Nat) : Bool :=
  match size with
  | 4 => p.aop32
  | 8 => p.aop64
  | _ => p.aop128

/-- Findings of an atomic on a PCIe mapping that cannot be carried out (R35), and of a poisoned store bound for a SYS
page (R108). -/
def sysFindings (s : State) (rq : MemReq) (ps : Placed) : List Finding :=
  ps.filterMap (fun x => match x.2 with
    | .mem _ _ pa l _ =>
      if l.sys && rq.need != .load && x.1.poi then some { cause := .poisonConsumed, addr := x.1.p }
      else if isRmw rq.op && isPcie pa && (!aopWidth s.hub.pkg x.1.size || (rq.op == .atomic 8 0 && !l.aok)) then
        some { cause := .atomicUnsupported, addr := x.1.p }
      else none
    | _ => none)

/-- Where the walk of an element is made: the domain whose tables translate it, and its address there; none where R89, R102 or
R156 refuses it before. -/
def walkedAt (s : State) (t : Task) (f : FmtM) (need : Need) (e : Elem) : Option (Nat × Nat) :=
  if f.sp ≠ .global || decide (2 ^ 57 ≤ e.p) then none
  else if apertureBase ≤ e.p then windowPlace s t need e
  else some (t.asid, e.p)

/-- The walks of the aligned elements of an access that find no translation in `s` read their entries all the same, from `s0`
(R97, R222). -/
def lostWalks (s s0 : State) (t : Task) (f : FmtM) (rq : MemReq) : State :=
  rq.elems.foldl (fun a e =>
    match (if e.p % rq.align = 0 then walkedAt s t f rq.need e else none) with
    | some (owner, va) =>
      (match xlatOf (coreWalk s (keyCore s.cur) owner va) va rq.need false with
       | .ok _ _ => a
       | _ => coreFill a (keyCore s.cur) t.asid owner va)
    | none => a) s0

/-- MemOp up to the point where it must not trap any more: a trap, or the state and the placed elements. `more` gives
causes of the instruction's own. -/
def resolve (s : State) (t : Task) (f : FmtM) (rq : MemReq) (more : Placed → List Finding) : Except Eff (State × Placed) :=
  if rq.poison then .error (trapOf s .poisonConsumed)
  else match (if f.sp = .global then rq.elems.findSome? (fun e => windowPinned s t e.p) else none) with
  | some va => .error (.pinned s va)
  | none =>
    let r := resolveElems s s.cur t f rq
    let u := checkLines (linesIn s r.placed) s.cur t rq r.placed
    match lowestFinding (r.finds ++ sysFindings s rq (r.placed ++ r.odd) ++ more r.placed ++ u.2) with
    | some x =>
      let s0 := lostWalks s s t f rq
      let s1 := match r.bad with
        | some (o, va, lvl) => if x.cause = .perm then notifyMalformed s0 o va lvl else s0
        | none => s0
      let width := match rq.elems with | e :: _ => rq.reportWidth e | [] => 0
      .error (.trap s1 { cause := x.cause, addr := x.addr, record := x.record
                         info := if x.cause = .align || x.cause = .perm then width else 0 })
    | none => .ok (lostWalks s u.1 t f rq, r.placed)

/-! ### Waiting -/

/-- A release-class access waits for every earlier access and retry entry of its task (R113, R178). -/
def quiet (s : State) (t : Task) : Bool := (accessesOf s s.cur).isEmpty && t.retry.isEmpty

/-- An element lies on a line of an uncompleted retry entry of the task (R178). -/
def lineBusy (t : Task) (ps : Placed) : Bool :=
  let busy := fun (owner va : Nat) =>
    t.retry.any (fun r => r.owner == owner && decide (r.line ≤ va / 128) && decide (va / 128 < r.line + r.lines))
  ps.any (fun x => match x.2 with
    | .mem owner va _ _ _ => busy owner va
    | .fault owner va => busy owner va
    | .spad _ _ => false)

/-- An access whose value is bound at issue touches a line that a load or an atomic of the task has still to reach: it cannot
be performed before that one (R114). A store of the task holds nothing (R81): its data is seen ahead of memory (`memSeen`).
What reaches a SYS page later keeps the order when it completes. -/
def lineOwed (s : State) (ps : Placed) : Bool :=
  ps.any (fun x => match x.2 with
    | .mem _ _ pa _ _ => (accessesOf s s.cur).any (fun a =>
        a.2.parts.any (fun q => (a.2.op != .store || q.failed) && q.pa / 128 == pa / 128))
    | _ => false)

/-- Memory as the task in a slot sees it: its own stores still on their way to a SYS page lie over it (R81, R114, R118). -/
def memSeen (s : State) (key : Nat) : Memory :=
  (accessesOf s key).foldl (fun m a =>
    if a.2.op = .store then a.2.parts.foldl (fun m q => physWrite m q.pa (leBytes q.size q.data.toNat) q.poi) m else m) s.mem

/-- An sc access is release-class: it waits for the task's earlier accesses, and its retry entries (R113, R117, R178). -/
def scHolds (s : State) (t : Task) (f : FmtM) : Bool := f.ord == 4 && !quiet s t

/-- The elements of an access that have no retry entry yet (R176). -/
def unraised (s : State) (t : Task) (rq : MemReq) : MemReq :=
  match t.raised.filter (fun r => r.pc == groupPc s t) with
  | none => rq
  | some r => { rq with elems := rq.elems.filter (fun e => !r.elems.contains e.ix) }

/-- The session of a watchpoint that an access matches (R217). -/
def watchHit (s : State) (t : Task) (rq : MemReq) (ps : Placed) : Option Nat :=
  if t.bpSkip = some (groupPc s t) then none
  else
    let hit := fun (u : DebugUnit) => ps.any (fun x =>
      let on := fun (owner va : Nat) => unitMatches u owner t.id.gtid && overlaps va x.1.size u.addr.toNat u.len.toNat
      ((u.onRead && rq.need != .store) || (u.onWrite && rq.need != .load)) && match x.2 with
        | .mem owner va _ _ _ => on owner va
        | .fault owner va => on owner va
        | .spad _ _ => false)
    (s.hub.sessions.find? (fun e => e.2.wps.any (fun w => hit w.2))).map (·.1)

/-- A watchpoint halts the task before the group takes effect (R216, R217). -/
def watchStop (s : State) (t : Task) (session : Nat) : Eff :=
  let s1 := debugStop s session t.id.gtid Cause.breakpoint.value
  .holdIn (startPreempt (modCur s1 (fun u => { u with bpSkip := some (groupPc s t) })) s.cur 0x23)

/-! ### Full-empty (R74, R75) -/

/-- Granules the scratchpad elements of an access cover. -/
def granulesOf (ps : Placed) : List Nat :=
  (ps.foldl (fun a x => match x.2 with
    | .spad core off => a ++ (granKeys core off x.1.size).filter (fun k => !a.contains k)
    | _ => a) [])

/-- The bits of granules all equal `b`. -/
def bitsAre (s : State) (gs : List Nat) (b : Bool) : Bool := gs.all (fun k => tabGet false k s.cores.full == b)

/-- An older waiter of the same kind waits on one of the granules (R75); wait-full loads never hold one another. -/
def overtakes (s : State) (t : Task) (kind : Nat) (gs : List Nat) : Bool :=
  decide (kind ≠ 0) && s.tasks.any (fun e => e.1 != s.cur
    && (t.feWait.isNone || decide (e.2.waitSince < t.waitSince))
    && match e.2.feWait with
      | some w => w.kind == kind && w.grans.any (fun g => gs.contains g)
      | none => false)

/-- What an access's `fe` makes of its granules' bits (R74); none where it leaves them. -/
def feAfter (isStore : Bool) (fe : Nat) : Option Bool :=
  if isStore then (if fe = 0 then none else some true) else if fe = 2 then some false else none

/-- The condition of R74: go on, or pass to BLK_FE. -/
def feGate (s : State) (t : Task) (isStore : Bool) (fe : Nat) (gs : List Nat) (go : Eff) : Eff :=
  if fe = 0 || (isStore && fe == 1) then go
  else
    let kind := if isStore then 2 else fe - 1
    if bitsAre s gs (!isStore) && !overtakes s t kind gs then go
    else .block (modCur s (fun u => { u with feWait := some { kind := kind, grans := gs } })) .blkFe

/-! ### Retry entries (R176, R177) -/

/-- A retry entry to be appended, with its bytes: offset from ADDR, and data. -/
structure NewRetry where
  owner : Nat
  va : Nat
  /-- Bytes from ADDR to the last one covered. -/
  span : Nat
  roff : Nat
  elems : List Elem
  win : Bool := false
  /-- Its address as the instruction used it. -/
  used : Nat
  deriving DecidableEq, Repr

/-- First address of the page an address of a domain lies in: of the leaf that covers it, or of the smallest page where
none does (log entry 71). -/
def pageOf (s : State) (owner va : Nat) : Nat :=
  match walk s owner va with
  | .leaf l _ _ => va / l.size * l.size
  | _ => va / 65536 * 65536

/-- Smallest power of two not below n, as an exponent up to 9. -/
def log2Up (n : Nat) : Nat := ((upTo 10).find? (fun k => decide (n ≤ 2 ^ k))).getD 9

/-- Group the faulting elements: by page when the access is contiguous, one by one otherwise. -/
def groupFaults (s : State) (contig : Bool) (ps : Placed) : List NewRetry :=
  (ps.foldl (fun acc x => match x.2 with
    | .fault owner va =>
      let one : NewRetry :=
        { owner := owner, va := va, span := x.1.size, roff := x.1.roff, elems := [x.1]
          win := decide (apertureBase ≤ x.1.p), used := x.1.p }
      match acc with
      | r :: rest =>
        if contig && r.owner == owner && pageOf s owner r.va == pageOf s owner va && decide (r.va ≤ va) then
          { r with span := max r.span (va + x.1.size - r.va), elems := r.elems ++ [x.1] } :: rest
        else one :: r :: rest
      | [] => [one]
    | _ => acc) []).reverse

/-- The bytes covered are exactly a power of two of at most 32. -/
def compactRetry (r : NewRetry) : Bool :=
  let n := (r.elems.map (·.size)).foldl (· + ·) 0
  n == r.span && r.span == 2 ^ log2Up r.span && decide (r.span ≤ 32)

/-- SZ: the power of two covered, with the byte-enable map of the data slot above 32 bytes. -/
def retrySz (r : NewRetry) : Nat := if compactRetry r then log2Up r.span else max 6 (log2Up r.span)

/-- DEST: the register number, bit 6 a vector, bit 7 nothing written (a mask is named as a scalar, log entry 27). -/
def retryDest (dests : List Nat) : Nat :=
  match dests with
  | [] => 128
  | k :: _ => if k < 64 then k else if k < 128 then 64 + (k - 64) else k - 128

/-- OP and AOP. -/
def retryOp : AccOp → Nat × Nat
  | .load => (1, 0)
  | .store => (2, 0)
  | .atomic aop _ => (3, aop)
  | .red _ => (4, 9)

/-- The 32 bytes of DATA (R177, R311), each with the poison of its data: store data of up to 32 bytes, or V or the
compare words with, in bytes 16 to 31, the `acas2` new pair, and `ch` in byte 30 for `amin`, `amax`, `red` and `vatom`. -/
def retryData (op : AccOp) (r : NewRetry) : List (Byte × Bool) :=
  let plain := fun (e : Elem) (bs : List Byte) => bs.map (fun b => (b, e.poi))
  match op, r.elems with
  | .store, es =>
    if compactRetry r then (es.foldr (fun e a => plain e (leBytes e.size e.data) ++ a) []) else []
  | .atomic aop ch, e :: _ =>
    plain e (if aop = 8 then leBytes 16 e.cmp ++ leBytes 16 e.data
      else if aop = 7 then leBytes 8 e.cmp ++ leBytes 8 e.data
      else leBytes 16 e.data ++ leBytes 14 0 ++ leBytes 2 ch)
  | .red ch, e :: _ => plain e (leBytes 16 e.data ++ leBytes 14 0 ++ leBytes 2 ch)
  | _, _ => []

/-- Data of an entry's slot, by byte, each with its poison. -/
def slotData (r : NewRetry) : SMap (Byte × Bool) :=
  r.elems.foldl (fun m e =>
    ((leBytes e.size e.data).zip (upTo e.size)).foldl (fun m b =>
      tabSet (e.roff - r.roff + b.2) (b.1, e.poi) m) m) []

/-- Bytes of the data slot: 512 of data and 64 of byte enables. -/
def retrySlot (r : NewRetry) : List (Byte × Bool) :=
  let bytes := slotData r
  ((upTo 512).map (fun i => tabGet (0, false) i bytes))
    ++ (bitBytes 64 (fun i => (tabFind i bytes).isSome)).map (fun b => (b, false))

/-- The outcome of appending retry entries. -/
inductive Appended where
  | ok (s : State)
  /-- The next entry is not FREE. -/
  | hold
  /-- More entries than the ring has: those it takes are there, and the access, held meanwhile, is issued anew for the rest
  of its elements. -/
  | part (s : State)
  | pinned (va : Nat)

/-- What a retry entry says of the access that faulted. -/
structure Victim where
  key : Nat
  gtid : Word
  pc : Word
  op : AccOp
  ord : Nat
  sc : Nat
  dests : List Nat
  depth : Nat
  plain : Bool
  icount : Nat
  /-- The width reported, where it is not that of an element. -/
  width : Nat := 0
  deriving DecidableEq, Repr

/-- Write bytes with their poison at a domain's address. -/
def vwriteFlags (s : State) (asid va : Nat) (bs : List (Byte × Bool)) : State :=
  vwritePoi s asid va (bs.map (·.1)) (bs.map (·.2))

/-- Append one retry entry: the ring's next entry takes it, and its destination part is marked pending. -/
def retryAppendFor (s : State) (v : Victim) (r : NewRetry) : Appended :=
  match domOf s r.owner with
  | none => .hold
  | some d =>
    let i := d.ringNext % ringSize s r.owner
    let va := retryVa s r.owner i
    match (pinnedFault s r.owner va 64).or (pinnedFault s r.owner (retryDataVa s r.owner i) 1024) with
    | some bad => .pinned bad
    | none =>
      if (readRetry s r.owner i).state ≠ 0 then .hold
      else
        let data := retryData v.op r
        let e : RetryEntry :=
          { gtid := v.gtid, pc := v.pc, va := r.va, op := (retryOp v.op).1, aop := (retryOp v.op).2
            sz := retrySz r, dest := retryDest v.dests, depth := v.depth, state := 1, ord := v.ord
            sc := v.sc, roff := r.roff, data := data.map (·.1) }
        let s1 := vwritePoi s r.owner va e.bytes (List.replicate 32 false ++ data.map (·.2))
        let s2 := if compactRetry r then s1 else vwriteFlags s1 r.owner (retryDataVa s r.owner i) (retrySlot r)
        let ref : RetryRef :=
          { owner := r.owner, index := i, line := r.va / 128, lines := (r.va + r.span - 1) / 128 - r.va / 128 + 1
            dests := v.dests, depth := v.depth, acquire := v.ord == 1 || v.ord == 3 || v.ord == 4, win := r.win
            reads := v.op != .store, used := r.used, plain := v.plain, core := keyCore v.key, icount := v.icount
            mpoi := r.elems.any (·.mpoi)
            width := if v.width = 0 then (match r.elems with | x :: _ => x.size | [] => 0) else v.width }
        .ok (modTask (modDom s2 r.owner (fun d => { d with ringNext := (i + 1) % ringSize s r.owner })) v.key
          (fun u => { u with retry := u.retry ++ [ref] }))

/-- Append entries in order. -/
def retryAppendEach (s : State) (v : Victim) (rs : List NewRetry) : Appended :=
  rs.foldl (fun a r => match a with
    | .ok s1 => retryAppendFor s1 v r
    | x => x) (.ok s)

/-- The entries the task in a slot has raised since `old` hold it: nothing is written by them. -/
def holdNew (s : State) (key : Nat) (old : List RetryRef) (wait : Bool) : State :=
  modTask s key (fun u => { u with
    retry := u.retry.map (fun r => if old.contains r then r else { r with acquire := true, wait := wait, dests := [] }) })

/-- The first entries of an access that find room in their rings, were these empty: no more of one owner than its ring has;
`taken` counts those before. -/
def ringFits (s : State) (taken : SMap Nat) : List NewRetry → List NewRetry
  | [] => []
  | r :: rest =>
    let k := tabGet 0 r.owner taken
    if k < ringSize s r.owner then r :: ringFits s (tabSet r.owner (k + 1) taken) rest else []

/-- Append every entry of the acting task's access, in order. An access that needs more entries than a ring has raises as
many as the ring has, and is then held for the others (R176, log entry 71). -/
def retryAppendAll (s : State) (t : Task) (f : FmtM) (rq : MemReq) (rs : List NewRetry) : Appended :=
  let v : Victim :=
    { key := s.cur, gtid := t.id.gtid, pc := ownPc s t, op := rq.op, ord := f.ord.toNat, sc := f.sc.toNat
      dests := rq.dests, depth := t.depth, plain := rq.plain, icount := ownIcount s t, width := rq.width }
  let now := ringFits s [] rs
  if rs.length ≤ now.length then retryAppendEach s v rs
  else match retryAppendEach s v now with
    | .ok s1 =>
      let done := match t.raised.filter (fun r => r.pc == groupPc s t) with | some r => r.elems | none => []
      let r : Raised := { pc := groupPc s t, elems := done ++ now.flatMap (fun x => x.elems.map (·.ix)) }
      .part (modCur s1 (fun u => { u with raised := some r }))
    | x => x

/-! ### Monitors (R78, R127) -/

/-- The condition of a monitor wait: of a `waita` (R322) 0 eq, 1 ne, 2 geu, 3 ltu; of a `ccnt` (R337) 4, STATUS not 0. -/
def waitHolds (cond w c : Nat) : Bool :=
  match cond with
  | 0 => w == c
  | 1 => w != c
  | 2 => decide (c ≤ w)
  | 3 => decide (w < c)
  | _ => w / 2 ^ 32 != 0

/-- The task waits at a monitor that has seen nothing yet. -/
def watches (t : Task) : Bool := (t.st = .blkMon || t.st = .preempting) && t.mon.any (fun m => m.seen.isNone)

/-- What the monitor of a task that waits sees now, if it satisfies the condition: the value and its poison. -/
def monitorSees (s : State) (key : Nat) (t : Task) : Option (Nat × Bool) :=
  match (if watches t then t.mon else none) with
  | some m =>
    let mem := memSeen s key
    let v := physNat mem m.pa m.size
    if waitHolds m.cond v m.comparand then some (v, poisonAt mem.poison m.pa m.size) else none
  | none => none

/-- Between two elements of an access, each a read-modify-write of its own (R313): what monitors see there is kept until the
step's end. -/
def senseBetween (s : State) : State :=
  let seen := s.tasks.foldl (fun m e => match tabFind e.1 m, monitorSees s e.1 e.2 with
    | none, some v => tabSet e.1 v m
    | _, _ => m) s.grp.sensed
  { s with grp := { s.grp with sensed := seen } }

/-- Note the first value at or after arming that satisfies an armed monitor's condition: after every step. -/
def senseMonitors (s : State) : State :=
  { s with tasks := tabMap (fun k t =>
      match (if watches t then t.mon else none), (tabFind k s.grp.sensed).or (monitorSees s k t) with
      | some m, some v => { t with mon := some { m with seen := some v.1, seenPoi := v.2 } }
      | _, _ => t) s.tasks }

/-! ### Registers written by an access -/

/-- A part of a destination register: its byte offset, size, value and poison. -/
structure Piece where
  roff : Nat
  size : Nat
  val : Nat
  poi : Bool
  deriving DecidableEq, Repr

/-- A number with `n` bytes from byte `at_` replaced. -/
def putBytes (v at_ n x : Nat) : Nat :=
  let lo := 2 ^ (8 * at_)
  let hi := 2 ^ (8 * (at_ + n))
  v % lo + lo * (x % 2 ^ (8 * n)) + hi * (v / hi)

/-- A value with pieces laid over it. -/
def overlay (v : Nat) (ps : List Piece) : Nat := ps.foldl (fun a p => putBytes a p.roff p.size p.val) v

/-- Poison of a vector register's granules after pieces are laid over it (R107). -/
def overlayPoison (old : BitVec 32) (ps : List Piece) : BitVec 32 :=
  let counts : SMap (Nat × Bool) := ps.foldl (fun m p =>
    let c := tabGet (0, false) (p.roff / 16) m
    tabSet (p.roff / 16) (c.1 + p.size, c.2 || p.poi) m) []
  counts.foldl (fun a g => putBit a g.1 (if g.2.1 = 16 then g.2.2 else old.getLsbD g.1 || g.2.2)) old

/-- Lay pieces into the destination registers of an access: one scalar, an even pair, a vector or a mask. `fresh`
scalars and masks begin at zero and clean. -/
def deliverRegs (r : Regs) (dests : List Nat) (fresh : Bool) (ps : List Piece) : Regs :=
  let scalar := fun (r : Regs) (k : Nat) (ps : List Piece) =>
    let v0 := if fresh then 0 else (getS r k).toNat
    putS r k (BitVec.ofNat 64 (overlay v0 ps)) ((!fresh && poiS r k) || ps.any (·.poi))
  match dests with
  | [] => r
  | [k] =>
    if k < 64 then scalar r k ps
    else if k < 128 then
      putV r (k - 64) (BitVec.ofNat 4096 (overlay (getV r (k - 64)).toNat ps)) (overlayPoison (poiV r (k - 64)) ps)
    else
      let m0 := if fresh then 0 else (getM r (k - 128)).toNat
      putM r (k - 128) (BitVec.ofNat 512 (overlay m0 ps)) ((!fresh && poiM r (k - 128)) || ps.any (·.poi))
  | k :: k2 :: _ =>
    let low := ps.filterMap (fun p => if p.roff < 8 then
      some { p with size := min p.size (8 - p.roff), val := p.val % 2 ^ (8 * min p.size (8 - p.roff)) } else none)
    let high := ps.filterMap (fun p => if 8 ≤ p.roff then some { p with roff := p.roff - 8 }
      else if 8 < p.roff + p.size then
        some { roff := 0, size := p.roff + p.size - 8, val := p.val / 2 ^ (8 * (8 - p.roff)), poi := p.poi }
      else none)
    scalar (scalar r k low) k2 high

/-! ### Performing at a place -/

/-- Bytes of the record an element's old value is read as. -/
def spotRead (s : State) (x : Elem × Spot) : Nat × Bool :=
  match x.2 with
  | .mem _ _ pa _ _ => (physNat s.mem pa x.1.size, poisonAt s.mem.poison pa x.1.size)
  | .spad core off =>
    (leNat (bytesAt s.cores.spad (spadKey core off) x.1.size), poisonAt s.cores.spadPoi (spadKey core off) x.1.size)
  | .fault _ _ => (0, false)

/-- An element of the access is left for its host link: an access to a SYS page (R80). -/
def isDeferred (x : Elem × Spot) : Bool := match x.2 with | .mem _ _ _ l _ => l.sys | _ => false

/-- Write `n` bytes of a value at a physical place with their poison. -/
def physPut (s : State) (pa n v : Nat) (poi : Bool) : State :=
  { s with mem := physWrite s.mem pa (leBytes n v) poi }

/-- Write an element's new value at its place. -/
def spotWrite (s : State) (x : Elem × Spot) (v : Nat) (poi : Bool) : State :=
  match x.2 with
  | .mem _ _ pa _ _ => physPut s pa x.1.size v poi
  | .spad core off => { s with cores := spadStore s.cores (runOf (spadKey core off) poi (leBytes x.1.size v)) }
  | .fault _ _ => s

/-- Bytes written to logged pages of an owner: virtual address to physical. -/
def loggedBytes (ps : Placed) (owner : Nat) : SMap Nat :=
  ps.foldl (fun m x => match x.2 with
    | .mem o va pa l _ => if o = owner && l.log then (upTo x.1.size).foldl (fun m i => tabSet (va + i) (pa + i) m) m else m
    | _ => m) []

/-- Entries for the runs of a rising set of logged bytes, as memory stands. -/
def runEntries (s : State) (kind tag : Nat) (bytes : SMap Nat) : List NewEntry :=
  (logRuns (bytes.map (·.1))).map (fun r => runEntry s kind tag r.1 (tabGet 0 r.1 bytes) r.2)

/-- The domains whose logs an access's writes go to. -/
def ownersOf (ps : Placed) : List Nat :=
  ps.foldl (fun a x => match x.2 with
    | .mem o _ _ _ _ => if a.contains o then a else a ++ [o]
    | _ => a) []

/-- Entries an access's writes need in an owner's log (R189). -/
def entriesNeeded (s : State) (op : AccOp) (ps : Placed) (owner : Nat) : Nat :=
  let mine := ps.filter (fun x => match x.2 with | .mem o _ _ _ _ => o == owner | _ => false)
  let sys := mine.filter isDeferred
  let direct :=
    if isRmw op then (mine.filter (fun x => match x.2 with
      | .mem _ _ pa l _ => l.log && elemWrites s op x.1 pa
      | _ => false)).length
    else (logRuns ((loggedBytes ps owner).map (·.1))).length
  let irr := match op with
    | .load => 0
    | .atomic 10 _ => sys.length
    | _ => if sys.isEmpty then 0 else 1
  if op = .load then 0 else direct + irr

/-- Find room in every owner's log (R190, R191). -/
def withRooms (s : State) (t : Task) (op : AccOp) (ps : Placed) : List Nat → (State → Eff) → Eff
  | [], go => go s
  | o :: rest, go =>
    let va := match ps with | x :: _ => x.1.p | [] => 0
    let mine := fun (x : Elem × Spot) => isDeferred x && match x.2 with | .mem w _ _ _ _ => w == o | _ => false
    if op != .load && ps.any mine && effectAhead s o then .holdIn (replayHalt s o 6)
    else withRoom s t o (entriesNeeded s op ps o) va (fun s1 => withRooms s1 t op ps rest go)

/-- The recorded entries a replayed access of atomics performs, by owner (R201); none while its turn has not come. -/
def atomicTurns (s : State) (t : Task) (ps : Placed) : Option (List (Nat × List Nat)) :=
  ps.foldl (fun a x => match a, x.2 with
    | some l, .mem owner va _ lf _ =>
      if !lf.log then a
      else (turnOf s owner t.id.gtid (ownIcount s t) (fun e => e.kind == kAtomic && e.va / 128 == va / 128)).map
        (fun q => l ++ [(owner, q)])
    | a, _ => a) (some [])

/-- Note what a replayed access has performed. -/
def atomicsDone (s : State) (ts : List (Nat × List Nat)) : State := ts.foldl (fun a x => doneEntries a x.1 x.2) s

/-- Perform one read-modify-write at its place (R115, R309): the state and the old value with its poison. What it writes is
poisoned by its operands, and by the word read where that decides it (R107, log entry 87). -/
def performRmw (s : State) (t : Task) (op : AccOp) (x : Elem × Spot) (icount : Nat) : State × Piece :=
  let old := spotRead s x
  let piece : Piece := { roff := x.1.roff, size := x.1.size, val := old.1, poi := old.2 || x.1.mpoi }
  match atomicNew op x.1.size old.1 x.1.data x.1.cmp with
  | none => (s, piece)
  | some v =>
    let s1 := match x.2 with
      | .mem owner va pa l _ =>
        if l.log then (logAppend s owner [atomicEntry s t.wtag.toNat va pa x.1.size t.id.gtid icount]).1 else s
      | _ => s
    (spotWrite s1 x v (x.1.poi || (readsOld op && old.2)), piece)

/-- The outstanding access of an instruction: its registers arrive later, or it is a store to be acknowledged (R80). -/
def openAccess (s : State) (t : Task) (f : FmtM) (rq : MemReq) (dests : List Nat) (ps : Placed) : State :=
  let (id, s1) := freshId s
  let parts := ps.filterMap (fun x => match x.2 with
    | .mem owner va pa l win =>
      if l.sys then some { owner := owner, va := va, pa := pa, size := x.1.size, data := BitVec.ofNat 512 x.1.data
                           cmp := BitVec.ofNat 128 x.1.cmp, roff := x.1.roff, ix := x.1.ix, mpoi := x.1.mpoi, log := l.log, win := win
                           used := x.1.p, poi := x.1.poi : SysPart } else none
    | _ => none)
  let covers := ps.filterMap (fun x => match x.2 with
    | .mem _ _ pa l _ => if l.sys then none else some (pa, x.1.size, x.1.roff)
    | _ => none)
  let a : Access :=
    { slot := s.cur, gtid := t.id.gtid, dests := dests, isStore := rq.need != .load
      acquire := !parts.isEmpty && (f.ord == 1 || f.ord == 3 || f.ord == 4)
      op := rq.op, wtag := t.wtag, pc := ownPc s t, depth := t.depth, icount := ownIcount s t
      ord := f.ord.toNat, sc := f.sc.toNat, covers := covers, contig := rq.contig, parts := parts, plain := rq.plain
      spans := ps.filterMap (fun x => match x.2 with | .mem owner va _ _ _ => some (owner, va, x.1.size) | _ => none) }
  modCur (modHub s1 (fun h => { h with accesses := tabSet id a h.accesses }))
    (fun u => { u with arriving := dests.foldl (fun m k => tabPut [] k (id :: tabGet [] k m) m) u.arriving })

/-- An access that holds its group goes out on a link: the read of a wait, or what an `rcmpl` performs (R36, R80). Its task's
later accesses wait for it. -/
def openHeld (s : State) (t : Task) (f : FmtM) (rq : MemReq) (ps : Placed) (use : AccUse) : State :=
  let s1 := openAccess s t f rq [] ps
  modHub s1 (fun h => { h with
    accesses := tabMod s.hub.nextId (fun a => { a with dests := rq.dests, use := use, acquire := true }) h.accesses })

/-- An access of the task in a slot is out that holds its group. -/
def heldOut (s : State) : Bool := (accessesOf s s.cur).any (fun a => a.2.use != .plain)

/-- The access leaves its core: it takes as long as its place (R301). -/
def isVariable (s : State) (ps : Placed) : Bool :=
  ps.any (fun x => match x.2 with
    | .mem _ _ _ _ _ => true
    | .spad core _ => core != keyCore s.cur
    | .fault _ _ => false)

/-- Mark the destination registers of an access served by the task's own scratchpad (R81). -/
def markSpad (s : State) (dests : List Nat) : State :=
  modCur s (fun t => dests.foldl (fun t k => mark s t k latSpad) t)

/-! ### The caches of an access (R97, R99, R106, R300) -/

/-- The caches after one line's access: the walk's and the access's records at the slices, unless an L1 serves it; the
translation held; the line brought into the L1 that serves it, or kept out of every L1 (`nol1`; a `red`, which its home
slice performs; an atomic on a SYS page, which its home agent performs). Hints are ignored on HOME 1 pages. -/
def lineTouch (s : State) (t : Task) (op : SliceOp) (hint : Nat) (write : Bool) (owner va pa : Nat) (l : Leaf) : State :=
  let core := keyCore s.cur
  let s2 := coreFill s core t.asid owner va
  let home := placedHome s owner pa l
  let bypass := home == 3 || (op == .atomic && l.sys) || (home != 1 && (op == .red || (l.home != 1 && hint == 3)))
  match (if bypass then none else l1Core s core owner pa l) with
  | none => l1Bypass (sliceLog s2 t.asid owner op t.wtag.toNat pa l) pa write
  | some c =>
    let s3 := if l1Holds s c pa then s2 else sliceLog s2 t.asid owner op t.wtag.toNat pa l
    l1Touch s3 c pa write (if l.home = 1 then 0 else hint) (home == 1)

/-- The caches after an access. -/
def cacheTouch (s : State) (t : Task) (op : SliceOp) (hint : Nat) (write : Bool) (ps : Placed) : State :=
  (linesTouched ps).foldl (fun a x => match x.2 with
    | .mem owner va pa l _ => lineTouch a t op hint write owner va pa l
    | _ => a) s

end Sys2Proof.Machine
end

