-- ==== Sys2Proof/Machine/MemoryInstr.lean ====
section
/-!
DEFINITION. The loads and stores (R302 to R305), prefetch and cache maintenance (R306, R307), and the full-empty
operations (R308).
-/

namespace Sys2Proof.Machine

/-! ### Places (R298) -/

/-- s[a] + SignExt(off, 64). -/
def memBase (r : Regs) (f : FmtM) : Word := getS r f.a.toNat + f.off.signExtend 64

/-- Bytes of a scalar access or of a vector element: 2^sz. -/
def memSize (f : FmtM) : Nat := 2 ^ f.sz.toNat

/-- How the elements of a vector form are placed. -/
inductive Stepping where
  | contiguous | strided | indexed
  deriving DecidableEq, Repr

/-- Where(i) of a vector form, modulo 2^64. -/
def vecPlace (r : Regs) (f : FmtM) (k : Stepping) (i : Nat) : Nat :=
  let e := memSize f
  let t : Word := match k with
    | .contiguous => BitVec.ofNat 64 (i * e)
    | .strided => BitVec.ofNat 64 i * getS r f.x.toNat
    | .indexed => (BitVec.ofNat 32 (elt 32 (getV r f.x.toNat) i)).signExtend 64 * BitVec.ofNat 64 e
  (memBase r f + t).toNat

/-- The elements that take part: below N, active, and below 128 when indexed. -/
def vecActive (r : Regs) (f : FmtM) (k : Stepping) : List Nat :=
  let n := 512 / memSize f
  (upTo (if k = .indexed then min n 128 else n)).filter (active r f.mq (8 * memSize f))

/-- The elements of a vector form, with the data of v[d] when they carry any. -/
def vecElems (r : Regs) (f : FmtM) (k : Stepping) (carry : Bool) : List Elem :=
  let e := memSize f
  let d := f.d.toNat
  (vecActive r f k).map (fun i =>
    { ix := i, p := vecPlace r f k i, size := e, roff := i * e
      data := if carry then elt (8 * e) (getV r d) i else 0
      poi := carry && (poiElt (8 * e) (poiV r d) i || poiMq r f.mq), mpoi := poiMq r f.mq })

/-- What a vector form's CommitCheck looks at (R299). -/
def vecPoisonCheck (r : Regs) (f : FmtM) (k : Stepping) : Bool :=
  poiS r f.a.toNat || match k with
    | .contiguous => false
    | .strided => poiS r f.x.toNat
    | .indexed => (vecActive r f k).any (fun i => poiElt 32 (poiV r f.x.toNat) i)

/-- Keys of a scalar destination: none for s0, a pair for 16 bytes. -/
def scalarDests (d : Nat) (pair : Bool) : List Nat := if d = 0 then [] else if pair then [d, d + 1] else [d]

/-! ### Loads -/

/-- A load past its checks: what has a place now is read; what faulted is pending on the ring; what goes to a host link
or leaves the core arrives later. -/
def loadFinish (s : State) (t : Task) (f : FmtM) (rq : MemReq) (gs : List Nat) (ps : Placed) : State :=
  let now := ps.filter (fun x => !isDeferred x && match x.2 with | .fault _ _ => false | _ => true)
  let pieces := now.map (fun x =>
    let v := spotRead s x
    { roff := x.1.roff, size := x.1.size, val := v.1, poi := v.2 || x.1.mpoi : Piece })
  let s1 := modCur s (fun u => { u with regs := deliverRegs u.regs rq.dests true pieces, raised := none })
  let s2 := match feAfter false f.fe.toNat with
    | some b => { s1 with cores := setFull s1.cores gs b }
    | none => s1
  let s3 := cacheTouch s2 t .read (if rq.plain then f.ch.toNat else 0) false ps
  if isVariable s ps then openAccess s3 t f rq rq.dests ps else markSpad s3 rq.dests

/-- A load (R299, R302), with causes of the instruction's own. -/
def loadMemWith (more : Placed → List Finding) (f : FmtM) (rq0 : MemReq) (s : State) (t : Task) : Eff :=
  let rq := unraised s t rq0
  match resolve s t f rq more with
  | .error e => e
  | .ok (s1, ps) =>
    if lineBusy t ps || scHolds s t f then .hold
    else match watchHit s t rq ps with
      | some x => watchStop s t x
      | none =>
        let gs := granulesOf ps
        feGate s t false f.fe.toNat gs
          (match retryAppendAll s1 t f rq (groupFaults s1 rq.contig ps) with
            | .hold => .hold
            | .part s2 => .holdIn s2
            | .pinned va => .pinned s va
            | .ok s2 => .ok (loadFinish s2 t f rq gs ps))

/-- A load with no causes of its own. -/
def loadMem (f : FmtM) (rq : MemReq) (s : State) (t : Task) : Eff := loadMemWith (fun _ => []) f rq s t

/-- The access of `ld`. -/
def ldReq (r : Regs) (f : FmtM) : MemReq :=
  { op := .load, need := .load, elems := [{ p := (memBase r f).toNat, size := memSize f }], align := memSize f
    contig := true, dests := scalarDests f.d.toNat (f.sz == 4), plain := true, poison := poiS r f.a.toNat }

/-- `ld` (R302). -/
def execLd (f : FmtM) (s : State) : Host.Outcome State Fault Refusal :=
  runIsa (.ld f) s (fun t => loadMem f (ldReq (srcRegs s t) f) s t)

/-- The access of a vector load. -/
def vecLoadReq (r : Regs) (f : FmtM) (k : Stepping) : MemReq :=
  { op := .load, need := .load, elems := vecElems r f k false, align := memSize f, contig := k == .contiguous
    dests := [vKey f.d.toNat], plain := true, poison := vecPoisonCheck r f k }

/-- A vector load. -/
def vecLoad (f : FmtM) (k : Stepping) (s : State) (t : Task) : Eff :=
  loadMem f (vecLoadReq (srcRegs s t) f k) s t

/-- `vld` (R303). -/
def execVld (f : FmtM) (s : State) : Host.Outcome State Fault Refusal :=
  runIsa (.vld f) s (vecLoad f .contiguous s)

/-- `vlds` (R303). -/
def execVlds (f : FmtM) (s : State) : Host.Outcome State Fault Refusal :=
  runIsa (.vlds f) s (vecLoad f .strided s)

/-- `vldx` (R304). -/
def execVldx (f : FmtM) (s : State) : Host.Outcome State Fault Refusal :=
  runIsa (.vldx f) s (vecLoad f .indexed s)

/-- The access of `mld`. -/
def mldReq (r : Regs) (f : FmtM) : MemReq :=
  { op := .load, need := .load, elems := [{ p := (memBase r f).toNat, size := 64 }], align := 64, contig := true
    dests := [mKey f.d.toNat], plain := true, poison := poiS r f.a.toNat }

/-- `mld` (R305). -/
def execMld (f : FmtM) (s : State) : Host.Outcome State Fault Refusal :=
  runIsa (.mld f) s (fun t => loadMem f (mldReq (srcRegs s t) f) s t)

/-! ### Stores -/

/-- Bytes stored at once: to memory by physical address, and to scratchpads by key; a later element's bytes remain. -/
def storeSets (ps : Placed) : SMap (Byte × Bool) × SMap (Byte × Bool) :=
  ps.foldl (fun a x =>
    let put := fun (m : SMap (Byte × Bool)) (at_ : Nat) =>
      ((leBytes x.1.size x.1.data).zip (upTo x.1.size)).foldl (fun m b => tabSet (at_ + b.2) (b.1, x.1.poi) m) m
    match x.2 with
    | .mem _ _ pa l _ => if l.sys then a else (put a.1 pa, a.2)
    | .spad core off => (a.1, put a.2 (spadKey core off))
    | .fault _ _ => a) ([], [])

/-- Append the STORE entries of an access to every owner's log, as memory stands (R189). -/
def logStores (s : State) (tag : Nat) (ps : Placed) : State :=
  let direct := ps.filter (fun x => !isDeferred x)
  (ownersOf direct).foldl (fun a o => (logAppend a o (runEntries a kStore tag (loggedBytes direct o))).1) s

/-- A store past its checks. -/
def storeFinish (s : State) (t : Task) (f : FmtM) (rq : MemReq) (gs : List Nat) (ps : Placed) : State :=
  let s1 := modCur (logStores s t.wtag.toNat ps) (fun u => { u with raised := none })
  let s2 := (checkedLines ps).foldl (fun a x => markLine a a.cur t rq x.2) s1
  let w := storeSets ps
  let s3 := { s2 with mem := physStore s2.mem w.1, cores := spadStore s2.cores w.2 }
  let s4 := match feAfter true f.fe.toNat with
    | some b => { s3 with cores := setFull s3.cores gs b }
    | none => s3
  let s5 := cacheTouch s4 t .write (if rq.plain then f.ch.toNat else 0) true ps
  if isVariable s ps then openAccess s5 t f rq [] ps else s5

/-- A store (R299, R302): a release-class one, and one that sets granules full (R125), waits for the task's earlier
accesses. `more` gives causes of the instruction's own. -/
def storeMemWith (more : Placed → List Finding) (f : FmtM) (rq0 : MemReq) (s : State) (t : Task) : Eff :=
  let rq := unraised s t rq0
  if (f.ord != 0 || f.fe != 0) && !quiet s t then .hold
  else match resolve s t f rq more with
    | .error e => e
    | .ok (s1, ps) =>
      if lineBusy t ps then .hold
      else match watchHit s t rq ps with
        | some x => watchStop s t x
        | none =>
          let gs := granulesOf ps
          feGate s t true f.fe.toNat gs
            (withRooms s1 t .store ps (ownersOf ps) (fun s2 =>
              match retryAppendAll s2 t f rq (groupFaults s2 rq.contig ps) with
              | .hold => .hold
              | .part s3 => .holdIn s3
              | .pinned va => .pinned s va
              | .ok s3 => .ok (storeFinish s3 t f rq gs ps)))

/-- A store with no causes of its own. -/
def storeMem (f : FmtM) (rq : MemReq) (s : State) (t : Task) : Eff := storeMemWith (fun _ => []) f rq s t

/-- The access of `st`. -/
def stReq (r : Regs) (f : FmtM) : MemReq :=
  let d := f.d.toNat
  let pair := f.sz == 4
  let data := (getS r d).toNat + (if pair then 2 ^ 64 * (getS r (d + 1)).toNat else 0)
  { op := .store, need := .store
    elems := [{ p := (memBase r f).toNat, size := memSize f, data := data % 2 ^ (8 * memSize f)
                poi := poiS r d || (pair && poiS r (d + 1)) }]
    align := memSize f, contig := true, dests := [], plain := true, poison := poiS r f.a.toNat }

/-- `st` (R302). -/
def execSt (f : FmtM) (s : State) : Host.Outcome State Fault Refusal :=
  runIsa (.st f) s (fun t => storeMem f (stReq (srcRegs s t) f) s t)

/-- The access of a vector store. -/
def vecStoreReq (r : Regs) (f : FmtM) (k : Stepping) : MemReq :=
  { op := .store, need := .store, elems := vecElems r f k true, align := memSize f, contig := k == .contiguous
    dests := [], plain := true, poison := vecPoisonCheck r f k }

/-- A vector store. -/
def vecStore (f : FmtM) (k : Stepping) (s : State) (t : Task) : Eff := storeMem f (vecStoreReq (srcRegs s t) f k) s t

/-- `vst` (R303). -/
def execVst (f : FmtM) (s : State) : Host.Outcome State Fault Refusal :=
  runIsa (.vst f) s (vecStore f .contiguous s)

/-- `vsts` (R303). -/
def execVsts (f : FmtM) (s : State) : Host.Outcome State Fault Refusal :=
  runIsa (.vsts f) s (vecStore f .strided s)

/-- `vstx` (R304). -/
def execVstx (f : FmtM) (s : State) : Host.Outcome State Fault Refusal :=
  runIsa (.vstx f) s (vecStore f .indexed s)

/-- The access of `mst`. -/
def mstReq (r : Regs) (f : FmtM) : MemReq :=
  let d := f.d.toNat
  { op := .store, need := .store
    elems := [{ p := (memBase r f).toNat, size := 64, data := (getM r d).toNat, poi := poiM r d }], align := 64
    contig := true, dests := [], plain := true, poison := poiS r f.a.toNat }

/-- `mst` (R305). -/
def execMst (f : FmtM) (s : State) : Host.Outcome State Fault Refusal :=
  runIsa (.mst f) s (fun t => storeMem f (mstReq (srcRegs s t) f) s t)

/-! ### Prefetch and cache maintenance (R306, R307) -/

/-- The domain whose tables translate a named address, the current one or that of the open memory window (R156), and the address
there. -/
def namedAt (s : State) (t : Task) (va : Nat) : Option (Nat × Nat) :=
  if 2 ^ 57 ≤ va then none
  else if apertureBase ≤ va then
    let fr := readFrame s t t.depth
    let o := va - apertureBase
    if t.depth = 0 || !fr.wv || fr.mwLen ≤ o then none else some (domAtDepth s t fr.wdep, fr.mwBase + o)
  else some (t.asid, va)

/-- The domain, virtual and physical address and leaf of a named address, if it translates. -/
def namedLine (s : State) (t : Task) (va : Nat) : Option (Nat × Nat × Nat × Leaf) :=
  match namedAt s t va with
  | none => none
  | some (owner, a) =>
    match coreWalk s (keyCore s.cur) owner a with
    | .leaf l _ _ => some (owner, a, l.base + a % l.size, l)
    | _ => none

/-- The walk of a named address, whether it translates or not (R97, R222). -/
def namedWalk (s : State) (t : Task) (va : Nat) : State :=
  match namedAt s t va with
  | some (owner, a) => coreFill s (keyCore s.cur) t.asid owner a
  | none => s

/-- `pf` (R306): into L1, or with ch 3 into the home slice. -/
def execPf (f : FmtM) (s : State) : Host.Outcome State Fault Refusal :=
  runIsa (.pf f) s (fun t =>
    let r := srcRegs s t
    if poiS r f.a.toNat then trapOf s .poisonConsumed
    else
      let va := (memBase r f).toNat
      match windowPinned s t va with
      | some bad => .pinned s bad
      | none =>
      let s1 := namedWalk s t va
      match namedLine s t va with
      | none => .ok s1
      | some (owner, a, pa, l) =>
        if !l.r || l.sealed || isPcie pa || l.home == 3 then .ok s1
        else if f.ch = 3 then .ok (sliceLog s1 t.asid owner .read t.wtag.toNat pa l)
        else .ok (lineTouch s t .read f.ch.toNat false owner a pa l))

/-- Change every L1 copy of a line: written back (clean), or discarded too. -/
def l1Clean (s : State) (pa : Nat) (discard : Bool) : State :=
  let line := pa / 128
  let one := fun (ls : List L1Line) =>
    if discard then ls.filter (fun x => x.line != line)
    else ls.map (fun x => if x.line = line then { x with dirty := false } else x)
  { s with cores := { s.cores with
      l1 := (s.cores.l1.map (fun e => if e.1 % 512 = line % 512 then (e.1, one e.2) else e)).filter (fun e => !e.2.isEmpty) } }

/-- Discard the two 64-byte code lines of a 128-byte line from every instruction cache for an ASID (R227). -/
def icacheDrop (s : State) (asid line : Nat) : State :=
  { s with cores := { s.cores with
      icache := (s.cores.icache.map (fun e =>
        (e.1, e.2.filter (fun x => !(x.asid == asid && x.line / 128 == line))))).filter (fun e => !e.2.isEmpty) } }

/-- `cln` (R307). -/
def execCln (f : FmtM) (s : State) : Host.Outcome State Fault Refusal :=
  runIsa (.cln f) s (fun t =>
    let r := srcRegs s t
    if poiS r f.a.toNat then trapOf s .poisonConsumed
    else
      let va := (memBase r f).toNat
      match windowPinned s t va with
      | some bad => .pinned s bad
      | none =>
      let s1 := namedWalk s t va
      match namedLine s t va with
      | none => .ok s1
      | some (owner, a, pa, l) =>
        if l.sys || l.home == 3 then .ok s1
        else match f.ch.toNat with
          | 2 => .ok (icacheDrop s1 owner (a / 128))
          | 1 => .ok (l1Clean s1 pa true)
          | _ => .ok (l1Clean s1 pa false))

/-! ### Full-empty operations (R308) -/

/-- The request of a full-empty operation: 1, 2 or 4 granules. -/
def feReq (r : Regs) (f : FmtM) : MemReq :=
  { op := .load, need := .load, elems := [{ p := (memBase r f).toNat, size := 16 * 2 ^ (f.sz.toNat - 4) }], align := 16
    contig := true, dests := [], plain := true, poison := poiS r f.a.toNat }

/-- Set the bits of the granules named. -/
def feChange (f : FmtM) (b : Bool) (s : State) (t : Task) : Eff :=
  match resolve s t f (feReq (srcRegs s t) f) (fun _ => []) with
  | .error e => e
  | .ok (s1, ps) => .ok { s1 with cores := setFull s1.cores (granulesOf ps) b }

/-- `feclr`. -/
def execFeclr (f : FmtM) (s : State) : Host.Outcome State Fault Refusal := runIsa (.feclr f) s (feChange f false s)

/-- `feset`: a set-full store, and so a release. -/
def execFeset (f : FmtM) (s : State) : Host.Outcome State Fault Refusal :=
  runIsa (.feset f) s (fun t => if quiet s t then feChange f true s t else .hold)

/-- `fetst`: a plain read of the bits. -/
def execFetst (f : FmtM) (s : State) : Host.Outcome State Fault Refusal :=
  runIsa (.fetst f) s (fun t =>
    let r := srcRegs s t
    let rq := { feReq r f with dests := scalarDests f.d.toNat false }
    match resolve s t f rq (fun _ => []) with
    | .error e => e
    | .ok (s1, ps) =>
      let gs := granulesOf ps
      let v := (gs.zip (upTo gs.length)).foldl (fun a g => a + (if tabGet false g.1 s1.cores.full then 2 ^ g.2 else 0)) 0
      let s2 := modCur s1 (fun u => { u with regs := putS u.regs f.d.toNat (BitVec.ofNat 64 v) false })
      .ok (if isVariable s ps then openAccess s2 t f rq rq.dests ps else markSpad s2 rq.dests))

end Sys2Proof.Machine
end

