-- ==== Sys2Proof/Machine/Atomics.lean ====
section
/-!
DEFINITION. The atomics, `red`, `vatom` and `fence` (R309 to R314).
-/

namespace Sys2Proof.Machine

/-- The read-modify-writes of an access that are performed now, in element order: the state and the old values. Monitors see the
memory between them. -/
def rmwAll (s : State) (t : Task) (op : AccOp) (icount : Nat) (ps : Placed) : State × List Piece :=
  ps.foldl (fun a x =>
    if isDeferred x then a
    else match x.2 with
      | .fault _ _ => a
      | _ =>
        let r := performRmw (if a.2.isEmpty then a.1 else senseBetween a.1) t op x icount
        (r.1, a.2 ++ [r.2])) (s, [])

/-- An atomic past its checks. -/
def atomicFinish (s : State) (t : Task) (f : FmtM) (rq : MemReq) (ps : Placed) : State :=
  let s1 := (checkedLines ps).foldl (fun a x => markLine a a.cur t rq x.2) s
  let r := rmwAll s1 t rq.op (ownIcount s t) ps
  let s2 := modCur r.1 (fun u => { u with regs := deliverRegs u.regs rq.dests true r.2, raised := none })
  let s3 := cacheTouch s2 t (match rq.op with | .red _ => .red | _ => .atomic) 0 true ps
  if isVariable s ps then openAccess s3 t f rq rq.dests ps else markSpad s3 rq.dests

/-- An atomic access (R299, R309): a release-class one waits for the task's earlier accesses. -/
def atomicMem (f : FmtM) (rq0 : MemReq) (s : State) (t : Task) : Eff :=
  let rq := unraised s t rq0
  if (f.ord == 2 || f.ord == 3 || f.ord == 4) && !quiet s t then .hold
  else match resolve s t f rq (fun _ => []) with
    | .error e => e
    | .ok (s1, ps) =>
      if lineBusy t ps then .hold
      else match watchHit s t rq ps, atomicTurns s1 t ps with
        | some x, _ => watchStop s t x
        | none, none => .hold
        | none, some turns =>
          withRooms s1 t rq.op ps (ownersOf ps) (fun s2 =>
            match retryAppendAll s2 t f rq (groupFaults s2 false ps) with
            | .hold => .hold
            | .part s3 => .holdIn s3
            | .pinned va => .pinned s va
            | .ok s3 => .ok (atomicsDone (atomicFinish s3 t f rq ps) turns))

/-- The access of a value-returning atomic on one word: `aop` is opcode − 0xA0 (R309). -/
def atomicReq (r : Regs) (f : FmtM) (aop : Nat) : MemReq :=
  let w := 2 ^ (8 * memSize f)
  { op := .atomic aop f.ch.toNat, need := .rmw
    elems := [{ p := (memBase r f).toNat, size := memSize f, data := (getS r f.x.toNat).toNat % w
                cmp := if aop = 7 then (getS r f.d.toNat).toNat % w else 0
                poi := poiS r f.x.toNat || (aop == 7 && poiS r f.d.toNat) }]
    align := memSize f, contig := false, dests := scalarDests f.d.toNat false, plain := false
    poison := poiS r f.a.toNat }

/-- A value-returning atomic on one word. -/
def scalarAtomic (f : FmtM) (aop : Nat) (s : State) (t : Task) : Eff :=
  atomicMem f (atomicReq (srcRegs s t) f aop) s t

/-- `aadd`. -/
def execAadd (f : FmtM) (s : State) : Host.Outcome State Fault Refusal := runIsa (.aadd f) s (scalarAtomic f 0 s)
/-- `aand`. -/
def execAand (f : FmtM) (s : State) : Host.Outcome State Fault Refusal := runIsa (.aand f) s (scalarAtomic f 1 s)
/-- `aor`. -/
def execAor (f : FmtM) (s : State) : Host.Outcome State Fault Refusal := runIsa (.aor f) s (scalarAtomic f 2 s)
/-- `axor`. -/
def execAxor (f : FmtM) (s : State) : Host.Outcome State Fault Refusal := runIsa (.axor f) s (scalarAtomic f 3 s)
/-- `amin`. -/
def execAmin (f : FmtM) (s : State) : Host.Outcome State Fault Refusal := runIsa (.amin f) s (scalarAtomic f 4 s)
/-- `amax`. -/
def execAmax (f : FmtM) (s : State) : Host.Outcome State Fault Refusal := runIsa (.amax f) s (scalarAtomic f 5 s)
/-- `aswp`. -/
def execAswp (f : FmtM) (s : State) : Host.Outcome State Fault Refusal := runIsa (.aswp f) s (scalarAtomic f 6 s)
/-- `acas`. -/
def execAcas (f : FmtM) (s : State) : Host.Outcome State Fault Refusal := runIsa (.acas f) s (scalarAtomic f 7 s)

/-- The 16-byte value of a register pair, low word first (R310). -/
def pairVal (r : Regs) (n : Nat) : Nat := (getS r n).toNat + 2 ^ 64 * (getS r (n + 1)).toNat

/-- The access of `acas2`. -/
def acas2Req (r : Regs) (f : FmtM) : MemReq :=
  let d := f.d.toNat
  let x := f.x.toNat
  { op := .atomic 8 0, need := .rmw
    elems := [{ p := (memBase r f).toNat, size := 16, data := pairVal r x, cmp := pairVal r d
                poi := poiS r x || poiS r (x + 1) || poiS r d || poiS r (d + 1) }]
    align := 16, contig := false, dests := scalarDests d true, plain := false, poison := poiS r f.a.toNat }

/-- `acas2` (R310). -/
def execAcas2 (f : FmtM) (s : State) : Host.Outcome State Fault Refusal :=
  runIsa (.acas2 f) s (fun t => atomicMem f (acas2Req (srcRegs s t) f) s t)

/-- The access of `red`. -/
def redReq (r : Regs) (f : FmtM) : MemReq :=
  { op := .red f.ch.toNat, need := .rmw
    elems := [{ p := (memBase r f).toNat, size := memSize f, data := (getS r f.d.toNat).toNat % 2 ^ (8 * memSize f)
                poi := poiS r f.d.toNat }]
    align := memSize f, contig := false, dests := [], plain := false, poison := poiS r f.a.toNat }

/-- `red` (R312). -/
def execRed (f : FmtM) (s : State) : Host.Outcome State Fault Refusal :=
  runIsa (.red f) s (fun t => atomicMem f (redReq (srcRegs s t) f) s t)

/-- The access of `vatom`. -/
def vatomReq (r : Regs) (f : FmtM) : MemReq :=
  { op := .atomic 10 f.ch.toNat, need := .rmw, elems := vecElems r f .indexed true, align := memSize f
    contig := false, dests := [vKey f.d.toNat], plain := false, poison := vecPoisonCheck r f .indexed }

/-- `vatom` (R313). -/
def execVatom (f : FmtM) (s : State) : Host.Outcome State Fault Refusal :=
  runIsa (.vatom f) s (fun t => atomicMem f (vatomReq (srcRegs s t) f) s t)

/-- `fence` (R119, R314): the task's next memory-class group waits for what the fence orders; a release-class fence
waits for the task's retry entries (R178). -/
def execFence (f : FmtM) (s : State) : Host.Outcome State Fault Refusal :=
  runIsa (.fence f) s (fun t =>
    if f.ord = 1 then .ok (modCur s (fun u => { u with fenceReads := true }))
    else if !t.retry.isEmpty then .hold
    else .ok (modCur s (fun u => { u with fenceAll := true })))

end Sys2Proof.Machine
end

