-- ==== Sys2Proof/Machine/Sync.lean ====
section
/-!
DEFINITION. The operations on sync objects (R315 to R321) and the monitor wait `waita` (R78, R127, R322).
-/

namespace Sys2Proof.Machine

/-! ### Shared checks (R315) -/

/-- The access an operation makes at its object: the whole object, on an ATOMIC page as an atomic (R315). -/
def objReq (r : Regs) (f : FmtM) (need : Need) (dests : List Nat) : MemReq :=
  { op := .load, need := need, elems := [{ p := (memBase r f).toNat, size := 32 }], align := 32, contig := true
    dests := dests, plain := false, poison := poiS r f.a.toNat }

/-- Findings of R315 on the object's page, and on its KIND where the operation needs one. -/
def objFindings (s : State) (kind : Option Nat) (ps : Placed) : List Finding :=
  ps.filterMap (fun x => match x.2 with
    | .mem _ _ pa l _ =>
      if !objPage l then some { cause := .perm, addr := x.1.p }
      else match kind with
        | some k => if (readObj s.mem pa).kind = k then none else some { cause := .perm, addr := x.1.p }
        | none => none
    | _ => none)

/-- An operation on an object whose page faults is held until the retry entry, which writes nothing, completes; it is
then issued anew (log entry 28). -/
def objFault (s : State) (t : Task) (f : FmtM) (rq : MemReq) (ps : Placed) (wait : Bool) : Eff :=
  match retryAppendAll s t f { rq with op := .load, dests := if wait then rq.dests else [] } (groupFaults s true ps) with
  | .hold => .hold
  | .part s1 => .holdIn s1
  | .pinned va => .pinned s va
  | .ok s1 => .holdIn (holdNew s1 s1.cur t.retry wait)

/-- An operation on a sync object past its checks: where it lies, or the effect that stands before it. -/
def withObj (s : State) (t : Task) (f : FmtM) (rq : MemReq) (more : Placed → List Finding)
    (go : State → Placed → Nat → Nat → Nat → Leaf → Eff) : Eff :=
  match resolve s t f rq more with
  | .error e => e
  | .ok (s1, ps) =>
    if lineBusy t ps then .hold
    else match watchHit s t rq ps with
      | some x => watchStop s t x
      | none => match ps with
        | [(_, .mem owner va pa l _)] => go s1 ps owner va pa l
        | _ => objFault s1 t f rq ps false

/-- The recorded entries an operation on an object performs in a replay (R201). -/
def objTurn (s : State) (t : Task) (owner va : Nat) (l : Leaf) : Option (List Nat) :=
  if !l.log then some [] else (turnOf s owner t.id.gtid (ownIcount s t) (fun e => e.kind == kAcq && e.va == va)).map (·.take 1)

/-- An object's RMW that completes: its turn and its log entry's room first, then the object as it becomes, the ACQ entry
with the operation's code and the GEN after it, and what else the instruction does (R315, R188). -/
def objRmw (s : State) (t : Task) (f : FmtM) (rq : MemReq) (ps : Placed) (owner va pa : Nat) (l : Leaf) (o o' : SyncObj)
    (code : Nat) (val : Nat) (after : State → State) : Eff :=
  match objTurn s t owner va l with
  | none => .hold
  | some qs =>
    withRoom s t owner (if l.log then 1 else 0) (memBase (srcRegs s t) f).toNat (fun s0 =>
      let s1 := if o' = o then s0 else { s0 with mem := writeObj s0.mem pa o' }
      let s2 := if l.log then
          (logAppend s1 owner [acqEntry t.wtag.toNat va t.id.gtid (ownIcount s t) code o'.gen]).1 else s1
      let s3 := doneEntries s2 owner qs
      let poi := poisonAt s.mem.poison pa 16
      let s4 := modCur s3 (fun u => { u with
        regs := deliverRegs u.regs rq.dests true [{ roff := 0, size := 4, val := val, poi := poi }] })
      .ok (after (openAccess (cacheTouch s4 t .atomic 0 (decide (o' ≠ o)) ps) t f rq rq.dests ps)))

/-! ### `acq` (R317) -/

/-- The findings of `acq` beside those of its object: no entry is free. -/
def acqFull (t : Task) (va : Nat) : List Finding := if 8 ≤ t.acq.length then [{ cause := .acqTableFull, addr := va }] else []

/-- `acq`: one pass, in its turn in a replay (R201); it is granted, or the slot passes to BLK_ACQ, an exclusive request
leaving XWAIT set. -/
def execAcq (f : FmtM) (s : State) : Host.Outcome State Fault Refusal :=
  runIsa (.acq f) s (fun t =>
    let r := srcRegs s t
    let obj := (memBase r f).toNat
    let mode := f.ch.toNat + 1
    let rq := objReq r f .rmw (scalarDests f.d.toNat false)
    if f.sc ≠ 0 ∧ regionLimit s t.asid obj < f.sc.toNat then trapOf s .illegalInstr
    else if scHolds s t f then .hold
    else withObj s t f rq (fun ps => objFindings s (some (modeKind mode)) ps ++ acqFull t obj)
      (fun s1 ps owner va pa l =>
        let o := readObj s1.mem pa
        let pass := acquirePass o mode ((getS r f.x.toNat).toNat % 2 ^ 32) t.wtag.toNat
        let entry : AcqEntry := { obj := obj, gen := o.gen, mode := mode, scope := f.sc.toNat, depth := t.depth,
                                  ix := acqPlace t.acq }
        if (objTurn s1 t owner va l).isNone then .hold
        else if pass.2 then
          objRmw s1 t f rq ps owner va pa l o pass.1 mode o.gen
            (fun a => modCur a (fun u => { u with acq := u.acq ++ [entry] }))
        else
          let s2 := if pass.1 = o then s1
            else { s1 with mem := writeObj s1.mem pa pass.1 }
          .block (cacheTouch s2 t .atomic 0 (decide (pass.1 ≠ o)) ps) .blkAcq))

/-! ### `rel`, `arv` (R318, R319) -/

/-- The newest entry for an object made at the current depth, of the given modes. -/
def newestEntry (t : Task) (obj : Nat) (ok : Nat → Bool) : Option AcqEntry :=
  (t.acq.filter (fun e => e.obj == obj && e.depth == t.depth && ok e.mode)).getLast?

/-- The task without an entry of its acquire table: the last one equal to it. -/
def freeEntry (t : Task) (e : AcqEntry) : Task := { t with acq := (t.acq.reverse.erase e).reverse }

/-- A release of the entry that `ok` picks; `kind` is the object's, where the operation itself needs one. `code` is the ACQ
entry's, for the mode. -/
def releaseOp (f : FmtM) (ok : Nat → Bool) (kind : Option Nat) (dests : List Nat) (code : Nat → Nat) (s : State) (t : Task) :
    Eff :=
  let r := srcRegs s t
  let obj := (memBase r f).toNat
  let rq := objReq r f .rmw dests
  let held := newestEntry t obj ok
  if !quiet s t then .hold
  else
    let more := fun (ps : Placed) => match held with
      | none => objFindings s kind ps ++ [{ cause := .unacquired, addr := obj }]
      | some e => objFindings s (some (modeKind e.mode)) ps ++ (ps.filterMap (fun x => match x.2 with
        | .mem _ _ pa _ _ =>
          if (releaseObj (readObj s.mem pa) e.mode e.gen t.wtag.toNat).isNone then
            some { cause := .syncLateArrival, addr := obj } else none
        | _ => none))
    withObj s t f rq more (fun s1 ps owner va pa l =>
      match held with
      | none => .hold
      | some e =>
        let o := readObj s1.mem pa
        let o' := (releaseObj o e.mode e.gen t.wtag.toNat).getD o
        objRmw s1 t f rq ps owner va pa l o o' (code e.mode) o'.gen (fun a => modCur a (fun u => freeEntry u e)))

/-- `rel` (R318). -/
def execRel (f : FmtM) (s : State) : Host.Outcome State Fault Refusal :=
  runIsa (.rel f) s (releaseOp f (fun _ => true) none [] (fun _ => 5) s)

/-- `arv` (R319). -/
def execArv (f : FmtM) (s : State) : Host.Outcome State Fault Refusal :=
  runIsa (.arv f) s (releaseOp f (· == 3) (some 2) (scalarDests f.d.toNat false) (fun _ => 6) s)

/-! ### `sgen`, `sini` (R320) -/

/-- The access of `sgen`. -/
def sgenReq (r : Regs) (f : FmtM) : MemReq :=
  { op := .load, need := .load, elems := [{ p := (memBase r f).toNat, size := 4 }], align := 32, contig := true
    dests := scalarDests f.d.toNat false, plain := false, poison := poiS r f.a.toNat, width := 32 }

/-- `sgen`: GEN, by one read. -/
def execSgen (f : FmtM) (s : State) : Host.Outcome State Fault Refusal :=
  runIsa (.sgen f) s (fun t =>
    let r := srcRegs s t
    loadMemWith (objFindings s none) f (sgenReq r f) s t)

/-- The two 16-byte granules `sini` writes. -/
def siniElems (r : Regs) (f : FmtM) : List Elem :=
  let p := (memBase r f).toNat
  let gen := (getS r f.d.toNat).toNat % 2 ^ 32
  let expect := if f.ch = 2 then (getS r f.x.toNat).toNat % 2 ^ 32 else 0
  [{ p := p, size := 16, data := gen + 2 ^ 32 * f.ch.toNat + 2 ^ 64 * expect
     poi := poiS r f.d.toNat || (f.ch == 2 && poiS r f.x.toNat) },
   { ix := 1, p := (p + 16) % 2 ^ 64, size := 16, roff := 16 }]

/-- The access of `sini`. -/
def siniReq (r : Regs) (f : FmtM) : MemReq :=
  { op := .store, need := .store, elems := siniElems r f, align := 16, contig := true, dests := [], plain := false
    poison := poiS r f.a.toNat, width := 32 }

/-- The causes of `sini`'s own: its object's alignment and page. -/
def siniFindings (s : State) (r : Regs) (f : FmtM) (ps : Placed) : List Finding :=
  let p := (memBase r f).toNat
  (if p % 32 ≠ 0 then [{ cause := .align, addr := p }] else []) ++ objFindings s none ps

/-- `sini`: the object written whole, by one store. -/
def execSini (f : FmtM) (s : State) : Host.Outcome State Fault Refusal :=
  runIsa (.sini f) s (fun t => storeMemWith (siniFindings s (srcRegs s t) f) f (siniReq (srcRegs s t) f) s t)

/-! ### `waita` (R322) -/

/-- What the task's armed monitor has seen that satisfies this very wait, with its poison. -/
def seenFor (t : Task) (va size cond c : Nat) : Option (Nat × Bool) :=
  match t.mon with
  | some m =>
    if m.va = va && m.size == size && m.cond == cond && m.comparand == c then m.seen.map (fun v => (v, m.seenPoi)) else none
  | none => none

/-- Monitor-table entries in use on a core (R78). -/
def monitorsTabled (s : State) (core : Nat) : Nat :=
  (s.tasks.filter (fun e => keyCore e.1 == core && e.2.st = .blkMon
    && match e.2.mon with | some m => m.tabled | none => false)).length

/-- Arm a monitor: in the core's table of 32, or on its sweep list (R78). -/
def armMonitor (s : State) (f : FmtM) (owner va pa comparand : Nat) : State :=
  modCur s (fun u => { u with
    waitVal := none
    mon := some { owner := owner, va := va, pa := pa, size := memSize f, cond := f.ch.toNat, comparand := comparand
                  tabled := decide (monitorsTabled s (keyCore s.cur) < 32), order := s.hub.nextId } })

/-- A page that `waita` may not name: a BOUND one. -/
def waitFindings (ps : Placed) : List Finding :=
  ps.filterMap (fun x => match x.2 with
    | .mem _ _ _ l _ => if l.cls = .bound then some { cause := .perm, addr := x.1.p } else none
    | _ => none)

/-- The places of an access whose values are bound at issue: through a UALink window that is not bound nothing is read, and
the access fails there (R36, R90). -/
def windowFails (s : State) (ps : Placed) : Placed :=
  ps.map (fun x => match x.2 with
    | .mem o va pa _ _ => if unboundWindow s.hub.pkg pa then (x.1, .fault o va) else x
    | _ => x)

/-- The task has the value of its read on a link, or of its retry entry, for the wait it is at (R36, R322). -/
def waitHere (s : State) (t : Task) : Bool := t.waitVal.any (fun v => v.pc == ownPc s t && v.depth == t.depth)

/-- A wait on a SYS page reads its word over the link (R36, R80): its group is held until the value is there. -/
def waitReads (s : State) (t : Task) (l : Leaf) (seen : Option (Nat × Bool)) : Bool :=
  l.sys && seen.isNone && !waitHere s t

/-- The places of an access whose values are bound at issue. -/
def boundNow (ps : Placed) : Placed :=
  ps.map (fun x => match x.2 with
    | .mem o va pa l w => (x.1, .mem o va pa { l with sys := false } w)
    | _ => x)

/-- A wait past its checks, at its word: `cond` its condition with comparand `c`, `arm` what arms its monitor. A value seen by
its armed monitor satisfies it, whatever the word holds now (R127). -/
def waitOn (s : State) (t : Task) (f : FmtM) (rq : MemReq) (ps : Placed) (va pa size : Nat) (l : Leaf) (cond c : Nat)
    (arm : State → State) : Eff :=
  let m := memSeen s s.cur
  let w := physNat m pa size
  let seen := seenFor t va size cond c
  if waitReads s t l seen then .holdIn (openHeld (cacheTouch s t .read 0 false ps) t f rq ps .wait)
  else
    match seen.or (if !l.sys && waitHolds cond w c then some (w, poisonAt m.poison pa size) else none) with
    | none => .block (arm s) .blkMon
    | some v =>
      let piece : Piece := { roff := 0, size := size, val := v.1, poi := v.2 }
      let s1 := modCur s (fun u => { u with mon := none, waitVal := none, regs := deliverRegs u.regs rq.dests true [piece] })
      .ok (if l.sys then s1 else openAccess (cacheTouch s1 t .read 0 false ps) t f rq rq.dests (boundNow ps))

/-- `waita` past its checks, at its word. -/
def waitAt (s : State) (t : Task) (f : FmtM) (rq : MemReq) (ps : Placed) (owner va pa : Nat) (l : Leaf) : Eff :=
  let c := (getS (srcRegs s t) f.x.toNat).toNat % 2 ^ (8 * memSize f)
  waitOn s t f rq ps va pa (memSize f) l f.ch.toNat c (fun s => armMonitor s f owner va pa c)

/-- The access of `waita`. -/
def waitReq (r : Regs) (f : FmtM) : MemReq :=
  { op := .load, need := .load, elems := [{ p := (memBase r f).toNat, size := memSize f }], align := memSize f
    contig := true, dests := scalarDests f.d.toNat false, plain := false, poison := poiS r f.a.toNat }

/-- `waita`: the condition holds at issue, or the slot arms an entry and passes to BLK_MON. -/
def execWaita (f : FmtM) (s : State) : Host.Outcome State Fault Refusal :=
  runIsa (.waita f) s (fun t =>
    let r := srcRegs s t
    let c := (getS r f.x.toNat).toNat % 2 ^ (8 * memSize f)
    let rq := waitReq r f
    match t.waitVal.filter (fun v => v.pc == ownPc s t && v.depth == t.depth && waitHolds f.ch.toNat v.val c) with
    | some v =>
      .ok (modCur (writeS s f.d.toNat (BitVec.ofNat 64 v.val) v.poi latSpad) (fun u => { u with waitVal := none }))
    | none =>
      match resolve s t f rq waitFindings with
      | .error e => e
      | .ok (s1, ps) =>
        if lineBusy t ps || lineOwed s ps || scHolds s t f then .hold
        else match watchHit s t rq ps with
          | some x => watchStop s t x
          | none => match windowFails s ps with
            | [(_, .mem owner va pa l _)] => waitAt s1 t f rq ps owner va pa l
            | qs => objFault s1 t f rq qs true)

end Sys2Proof.Machine
end

