-- ==== Sys2Proof/Machine/FaultService.lean ====
section
/-!
DEFINITION. Accesses performed late: those of host links when they complete (R36, R80), and faulted ones when a service
completes or fails their retry entries (R179 to R181, R342).
-/

namespace Sys2Proof.Machine

/-! ### Performing late (R189, R190, R208, R311) -/

/-- Who an access performed late belongs to. -/
structure LateInfo where
  wtag : Nat
  gtid : Word
  icount : Nat
  deriving DecidableEq, Repr

/-- The task as an atomic performed late sees it. -/
def LateInfo.task (i : LateInfo) : Task := { wtag := BitVec.ofNat 24 i.wtag, id := { gtid := i.gtid } }

/-- Elements of an owner that lie on SYS pages and are written. -/
def sysWritten (s : State) (op : AccOp) (ps : Placed) (owner : Nat) : Placed :=
  ps.filter (fun x => match x.2 with
    | .mem o _ pa l _ => o == owner && l.sys && elemWrites s op x.1 pa
    | _ => false)

/-- The IRREVOCABLE entries of an access's writes to SYS pages in an owner's log: one, or one for each element of a
`vatom` (R189). -/
def sysEntries (s : State) (i : LateInfo) (op : AccOp) (ps : Placed) (owner : Nat) : List NewEntry :=
  let ws := (sysWritten s op ps owner).filterMap (fun x => match x.2 with
    | .mem _ va _ _ _ => some (va, x.1.size)
    | _ => none)
  let one := fun (va n : Nat) => irrevocableEntry i.wtag va i.gtid i.icount 1 n
  match op, ws with
  | _, [] => []
  | .load, _ => []
  | .atomic 10 _, ws => ws.map (fun w => one w.1 w.2)
  | _, w :: rest => [one ((rest.map (·.1)).foldl min w.1) ((w :: rest).map (·.2) |>.foldl (· + ·) 0)]

/-- Bytes a store performed late writes, by physical address. -/
def lateBytes (ps : Placed) : SMap (Byte × Bool) :=
  ps.foldl (fun m x => match x.2 with
    | .mem _ _ pa _ _ =>
      ((leBytes x.1.size x.1.data).zip (upTo x.1.size)).foldl (fun m b => tabSet (pa + b.2) (b.1, x.1.poi) m) m
    | _ => m) []

/-- Entries an access performed late needs in an owner's log. -/
def lateNeeds (s : State) (i : LateInfo) (op : AccOp) (ps : Placed) (owner : Nat) : Nat :=
  let direct := match op with
    | .load => 0
    | .store => (logRuns ((loggedBytes ps owner).map (·.1))).length
    | _ => (ps.filter (fun x => match x.2 with
      | .mem o _ pa l _ => o == owner && l.log && elemWrites s op x.1 pa
      | _ => false)).length
  direct + (sysEntries s i op ps owner).length

/-- Perform an access late, past its checks, with room in its logs: the state, and what it read. -/
def performLate (s : State) (i : LateInfo) (op : AccOp) (ps : Placed) : State × List Piece :=
  let s1 := (ownersOf ps).foldl (fun a o => (logAppend a o (sysEntries s i op ps o)).1) s
  match op with
  | .load => (s, ps.map (fun x => let v := spotRead s x; { roff := x.1.roff, size := x.1.size, val := v.1, poi := v.2 || x.1.mpoi }))
  | .store =>
    let s2 := (ownersOf ps).foldl (fun a o => (logAppend a o (runEntries a kStore i.wtag (loggedBytes ps o))).1) s1
    ({ s2 with mem := physStore s2.mem (lateBytes ps) }, [])
  | _ => ps.foldl (fun a x =>
      let r := performRmw (if a.2.isEmpty then a.1 else senseBetween a.1) i.task op x i.icount
      (r.1, a.2 ++ [r.2])) (s1, [])

/-! ### The completion port (R180) -/

/-- The registers as the port sees them: words of the trap frame stand for the destinations whose marks moved there. -/
def portView (s : State) (t : Task) (key : Nat) (framed : Bool) (dests : List Nat) : Regs :=
  dests.foldl (fun r k =>
    if framed && decide (1 ≤ k) && decide (k ≤ 8) then putS r k (frameWord s t key (k + 7)) (framePoiAt s t key (k + 7))
    else r) t.regs

/-- One register, by its key, copied with its poison. -/
def copyReg (r dst : Regs) (k : Nat) : Regs :=
  if k < 64 then putS dst k (getS r k) (poiS r k)
  else if k < 128 then putV dst (k - 64) (getV r (k - 64)) (poiV r (k - 64))
  else putM dst (k - 128) (getM r (k - 128)) (poiM r (k - 128))

/-- Write pieces to the destination of a resident task's access. -/
def portResident (s : State) (key : Nat) (t : Task) (inFrame : Bool) (dests : List Nat) (ps : List Piece) : State :=
  let framed := inFrame && t.handler
  let r := deliverRegs (portView s t key framed dests) dests false ps
  dests.foldl (fun a k =>
    if framed && decide (1 ≤ k) && decide (k ≤ 8) then
      modTask (vwritePoi a t.asid (trapFrameVa a t.asid key + 8 * (k + 7)) (leBytes 8 (getS r k).toNat)
        (List.replicate 8 (poiS r k))) key (fun u => { u with framePoi := putBit u.framePoi (k + 7) (poiS r k) })
    else modTask a key (fun u => { u with regs := copyReg r u.regs k })) s

/-- Change one bit of a byte of a domain's memory. -/
def pokeBit (s : State) (asid va bit : Nat) (b : Bool) : State :=
  vwrite s asid va (leBytes 1 (putBit (BitVec.ofNat 8 (vreadNat s asid va 1)) bit b).toNat)

/-- Write a destination register's value and poison into a save area (R180, R183). -/
def pokeArea (s : State) (sv : Saved) (r : Regs) (framed : Bool) (k : Nat) : State :=
  let p := 2048 + 512 * sv.task.vregs + sv.task.scratch + mapLen sv.task.scratch
  if k < 64 then
    let at_ := if framed && decide (1 ≤ k) && decide (k ≤ 8) then 1424 + 8 * (k + 7) else 64 + 8 * k
    let s1 := vwrite s sv.area (sv.addr + at_) (leBytes 8 (getS r k).toNat)
    if at_ = 64 + 8 * k then pokeBit s1 sv.area (sv.addr + p + k / 8) (k % 8) (poiS r k) else s1
  else if k < 128 then
    let n := k - 64
    vwrite (vwrite s sv.area (sv.addr + 2048 + 512 * n) (leBytes 512 (getV r n).toNat)) sv.area (sv.addr + p + 8 + 4 * n)
      (leBytes 4 (poiV r n).toNat)
  else
    let n := k - 128
    pokeBit (vwrite s sv.area (sv.addr + 576 + 64 * n) (leBytes 64 (getM r n).toNat)) sv.area (sv.addr + 1691) n (poiM r n)

/-- Write pieces to the destination of a saved task's access, in its save area. -/
def portSaved (s : State) (id : Nat) (sv : Saved) (inFrame : Bool) (dests : List Nat) (ps : List Piece) : State :=
  let t := loadTask (readArea s sv.area sv.addr sv.task) sv.task
  let framed := inFrame && t.handler
  let word := fun (n : Nat) => BitVec.ofNat 64 (vreadNat s sv.area (sv.addr + 1424 + 8 * n) 8)
  let view := dests.foldl (fun r k =>
    if framed && decide (1 ≤ k) && decide (k ≤ 8) then putS r k (word (k + 7)) (t.framePoi.getLsbD (k + 7)) else r) t.regs
  let r := deliverRegs view dests false ps
  let s1 := dests.foldl (fun a k => pokeArea a sv r framed k) s
  modHub s1 (fun h => { h with saved := tabMod id (fun v => { v with task := { v.task with
    framePoi := dests.foldl (fun p k =>
      if framed && decide (1 ≤ k) && decide (k ≤ 8) then putBit p (k + 7) (poiS r k) else p) v.task.framePoi } }) h.saved })

/-- Where a victim is: in a slot, or saved. -/
inductive Victims where
  | resident (key : Nat) (t : Task)
  | saved (id : Nat) (sv : Saved)
  deriving DecidableEq, Repr

/-- The victim of an entry of a ring, with its reference. -/
def victimOf (s : State) (owner i : Nat) (gtid : Word) : Option (Victims × RetryRef) :=
  let pick := fun (t : Task) => if t.id.gtid = gtid then t.retry.find? (fun r => r.owner == owner && r.index == i) else none
  match s.tasks.findSome? (fun e => (pick e.2).map (fun r => (Victims.resident e.1 e.2, r))) with
  | some x => some x
  | none => s.hub.saved.findSome? (fun e => (pick e.2.task).map (fun r => (Victims.saved e.1 e.2, r)))

/-- The victim's task. -/
def Victims.task : Victims → Task
  | .resident _ t => t
  | .saved _ sv => sv.task

/-- Change the victim's task as the hub or its slot holds it. -/
def modVictim (s : State) (v : Victims) (f : Task → Task) : State :=
  match v with
  | .resident key _ => modTask s key f
  | .saved id _ => modHub s (fun h => { h with saved := tabMod id (fun x => { x with task := f x.task }) h.saved })

/-- A page of the save area or the trap frame in which a victim's register is to be written is not valid, writable and PIN
(R182): its address. -/
def victimPinned (s : State) (v : Victims) (r : RetryRef) : Option Nat :=
  match v with
  | .resident key t =>
    if r.inFrame && t.handler && r.dests.any (fun k => decide (1 ≤ k) && decide (k ≤ 8)) then
      pinnedFault s t.asid (trapFrameVa s t.asid key) 256
    else none
  | .saved _ sv => pinnedFault s sv.area sv.addr (saveBody sv.task)

/-- Write the pending marks and bit 7 of byte 41 of a saved victim anew. -/
def refreshArea (s : State) (v : Victims) : State :=
  match v with
  | .resident _ _ => s
  | .saved id _ =>
    match tabFind id s.hub.saved with
    | none => s
    | some sv =>
      let s1 := vwrite s sv.area (sv.addr + 1408)
        (bitBytes 8 (marked sv.task) ++ bitBytes 8 (fun i => marked sv.task (vKey i)))
      pokeBit s1 sv.area (sv.addr + 41) 7 (!sv.task.dataFaults.isEmpty)

/-- The destination part of an entry is written, the entry is freed, and its mark goes. -/
def closeEntry (s : State) (v : Victims) (r : RetryRef) (ps : List Piece) : State :=
  let s1 := if r.dests.isEmpty then s
    else match v with
      | .resident key t => portResident s key t r.inFrame r.dests ps
      | .saved id sv => portSaved s id sv r.inFrame r.dests ps
  let s2 := setRetryState s1 r.owner r.index 0
  refreshArea (modVictim s2 v (fun t => { t with
    retry := t.retry.filter (fun x => !(x.owner == r.owner && x.index == r.index)) })) v

/-- A number of `n` bytes that nothing determines, from the free value at index `i`. -/
def freeBytes (i n : Nat) : Nat :=
  (upTo ((n + 7) / 8)).foldl (fun a k => a + 2 ^ (64 * k) * (Config.freeWord (i + k)).toNat) 0 % 2 ^ (8 * n)

/-- RetryFail (R181): the destination part becomes poisoned (its value is a free value), nothing is stored, the entry is
freed, and the victim is marked. -/
def retryFail (s : State) (v : Victims) (r : RetryRef) (ps : List Piece) (x : LateFault) : State :=
  let bad := (ps.zip (upTo ps.length)).map (fun p => { p.1 with val := freeBytes (s.free + 64 * p.2) p.1.size, poi := true })
  let s1 := { s with free := s.free + 64 * ps.length }
  closeEntry (modVictim s1 v (fun t => { t with dataFaults := t.dataFaults ++ [x] })) v r bad

/-! ### Retry entries read back (R177, R311) -/

/-- The index of the entry at an address in the current domain's ring. -/
def entryIndex (s : State) (asid va : Nat) : Option Nat :=
  let base := retryVa s asid 0
  if va < base || (va - base) % 64 ≠ 0 then none
  else
    let i := (va - base) / 64
    if i < ringSize s asid then some i else none

/-- The poison of a byte of a domain's memory. -/
def vpoison (s : State) (asid va : Nat) : Bool := match vread s asid va 1 with | some (_, p) => p | none => false

/-- The bytes an entry covers, as offsets from ADDR: all 2^SZ, or those the byte-enable map has (R177). -/
def coveredBytes (s : State) (asid i : Nat) (e : RetryEntry) : List Nat :=
  if e.sz ≤ 5 then upTo (2 ^ e.sz)
  else
    let m := vreadNat s asid (retryDataVa s asid i + 512) 64
    (upTo (min (2 ^ e.sz) 512)).filter (fun k => natBit m k)

/-- A byte of an entry's data, with its poison: in DATA, or in the data slot. -/
def entryByte (s : State) (asid i : Nat) (e : RetryEntry) (k : Nat) : Nat × Bool :=
  let va := if e.sz ≤ 5 then retryVa s asid i + 32 + k else retryDataVa s asid i + k
  (vreadNat s asid va 1, vpoison s asid va)

/-- The operation an entry names; DATA holds `ch` for an operation that has one (R177, R311). -/
def entryOp (e : RetryEntry) : AccOp :=
  let ch := if e.op = 3 && (e.aop = 7 || e.aop = 8) then 0 else recField e.data 30 1 % 8
  match e.op with
  | 1 => .load
  | 2 => .store
  | 3 => .atomic e.aop ch
  | _ => .red ch

/-- The elements of an entry: a word for an atomic, single bytes for loads and stores. -/
def entryElems (s : State) (asid i : Nat) (e : RetryEntry) : List Elem :=
  match e.op with
  | 1 => (coveredBytes s asid i e).map (fun k => { ix := k, p := e.va + k, size := 1, roff := e.roff + k })
  | 2 => (coveredBytes s asid i e).map (fun k =>
      let b := entryByte s asid i e k
      { ix := k, p := e.va + k, size := 1, data := b.1, poi := b.2, roff := k })
  | _ =>
    let n := 2 ^ e.sz
    let w := recField e.data
    let d := retryVa s asid i + 32
    [{ p := e.va, size := n, roff := e.roff
       data := (if e.aop = 8 && e.op = 3 then w 16 16 else if e.aop = 7 && e.op = 3 then w 8 8 else w 0 16) % 2 ^ (8 * n)
       cmp := if e.op = 3 && (e.aop = 7 || e.aop = 8) then w 0 16 % 2 ^ (8 * n) else 0
       poi := vpoison s asid d || (decide (e.aop = 8) && vpoison s asid (d + 16)) }]

/-- Where an entry's elements lie now, in the ring owner's tables: all of them, or the first that does not translate. -/
def placeEntry (s : State) (asid : Nat) (need : Need) (win : Bool) (es : List Elem) : Except Xlat Placed :=
  es.foldr (fun e acc => match acc with
    | .error x => match xlatHub s asid e.p need false with
      | .ok _ _ => .error x
      | y => .error y
    | .ok ps => match xlatHub s asid e.p need false with
      | .ok pa l => .ok ((e, .mem asid e.p pa l win) :: ps)
      | y => .error y) (.ok [])

/-- What an entry's operation needs of its page. -/
def entryNeed (op : AccOp) : Need :=
  match op with
  | .load => .load
  | .store => .store
  | _ => .rmw

/-- The part of the destination an entry covers. -/
def entryPieces (es : List Elem) : List Piece := es.map (fun e => { roff := e.roff, size := e.size, val := 0, poi := true })

/-! ### Check values (R37) -/

/-- A block of HBM whose check value does not match when it is read: poisoned, and counted (R37). Data of a link that does
not match at ingress is poisoned where it is delivered, at egress where it leaves. -/
def poisonRead (s : State) (b : Nat) : State :=
  crcMismatch (if hbmEnd ≤ 64 * b then s
    else { s with mem := { s.mem with poison := (upTo 4).foldl (fun m i => tabPut false (4 * b + i) true m) s.mem.poison } })

/-- The data that leaves for the link from the blocks an arrival names: poisoned, and never sent as clean data (R37). -/
def soil (blocks : List Nat) (ps : Placed) : Placed :=
  ps.map (fun x => match x.2 with
    | .mem _ _ pa _ _ => if blocks.contains (pa / 64) then ({ x.1 with poi := true }, x.2) else x
    | _ => x)

/-! ### RetryComplete (R180) -/

/-- The umbra check and other findings of an entry performed now, as those of the access that faulted (R208). -/
def lateFindings (s : State) (t : Task) (r : RetryRef) (e : RetryEntry) (op : AccOp) (ps : Placed) : State × List Finding :=
  let tv := { t with depth := e.depth, asid := domAtDepth s t e.depth, icount := r.icount }
  let sv := { s with grp := { base := some e.pc } }
  -- Addresses as the instruction used them, and its width (R212).
  let qs : Placed := ps.map (fun x => ({ x.1 with p := r.used + (x.1.p - e.va) }, x.2))
  let rq : MemReq :=
    { op := op, need := entryNeed op, elems := qs.map (·.1), align := 1, contig := true, dests := [], plain := r.plain
      poison := false, width := r.width }
  let u := checkLines (linesIn sv qs) (r.core * 16) tv rq qs
  ({ u.1 with grp := s.grp }, sysFindings s rq qs ++ u.2)

/-- The metadata a late write leaves. -/
def lateMarks (s : State) (t : Task) (r : RetryRef) (e : RetryEntry) (op : AccOp) (ps : Placed) : State :=
  let tv := { t with depth := e.depth, asid := domAtDepth s t e.depth }
  let rq : MemReq :=
    { op := op, need := entryNeed op, elems := ps.map (·.1), align := 1, contig := true, dests := [], plain := r.plain
      poison := false }
  (checkedLines ps).foldl (fun a x => markLine a (r.core * 16) tv rq x.2) s

/-- The instruction ends with a code in s[d]. -/
def codeOut (s : State) (f : FmtY) (code : Nat) : Eff := .ok (writeS s f.d.toNat (BitVec.ofNat 64 code) false latSalu)

/-- A late fault as R171 lays out its frame: the address as the instruction used it, for a race the race record, for PERM
and ALIGN the width. -/
def lateFaultOf (r : RetryRef) (x : Finding) : LateFault :=
  { cause := x.cause, addr := r.used, record := x.record, info := if x.cause = .perm then r.width else 0 }

/-- The entry as a copy (R181). -/
def entryCopy (s : State) (asid i : Nat) : BitVec 512 := BitVec.ofNat 512 (vreadNat s asid (retryVa s asid i) 64)

/-- The room every owner's log has for an access performed late. -/
def lateRooms (s : State) (t : Task) (i : LateInfo) (op : AccOp) (ps : Placed) (va : Nat) : List Nat → (State → Eff) → Eff
  | [], go => go s
  | o :: rest, go =>
    if !(sysEntries s i op ps o).isEmpty && effectAhead s o then .holdIn (replayHalt s o 6)
    else withRoom s t o (lateNeeds s i op ps o) va (fun s1 => lateRooms s1 t i op ps va rest go)

/-- The value a `waita`'s entry completes with is for its condition. -/
def giveWait (s : State) (v : Victims) (r : RetryRef) (pc : Word) (ps : List Piece) : State :=
  if !r.wait then s
  else modVictim s v (fun t => { t with waitVal := some { val := overlay 0 ps, poi := ps.any (·.poi), pc := pc, depth := r.depth } })

/-- The access of an entry reaches its lines' slices, and leaves no L1 what it has written (R99, R222). -/
def lateTouch (s : State) (t : Task) (e : RetryEntry) (op : AccOp) (ps : Placed) : State :=
  let kind : SliceOp := match op with | .load => .read | .store => .write | .atomic _ _ => .atomic | .red _ => .red
  (linesTouched ps).foldl (fun a x => match x.2 with
    | .mem owner _ pa l _ =>
      l1Bypass (sliceLog a (domAtDepth s t e.depth) owner kind t.wtag.toNat pa l) pa (entryNeed op != .load)
    | _ => a) s

/-- A Format Y instruction as an access of Format M. -/
def portFmt (f : FmtY) : FmtM :=
  { mq := 0, d := f.d, a := f.a, x := 0, sz := 0, ord := 0, sc := 0, sp := .global, fe := 0, ch := 0, pc := 0, off := 0 }

/-- The access of an `rcmpl` to SYS pages goes out on the link, and its group is held until it comes to its end (R36). -/
def openPort (s : State) (t : Task) (f : FmtY) (ps : Placed) : State :=
  openHeld s t (portFmt f)
    { op := .load, need := .load, elems := ps.map (·.1), align := 1, contig := true, dests := [], plain := false, poison := false }
    ps .port

/-- How the access of the `rcmpl` that the task is at has ended on the link. -/
def portEnd (s : State) (t : Task) : Option LinkEnd := t.linkEnd.filter (fun x => x.pc == ownPc s t && x.depth == t.depth)

/-- The data of a completed access that came poisoned. -/
def portPieces (x : Option LinkEnd) (ps : Placed) (got : List Piece) : List Piece :=
  match x with
  | none => got
  | some x => (got.zip ps).map (fun y => { y.1 with poi := y.1.poi || match y.2.2 with
    | .mem _ _ pa _ _ => x.soiled.contains (pa / 64)
    | _ => false })

/-- PERFORM on a CLAIMED entry with its victim. An access through an unbound window, or one that the host fails, is a replayable
fault again, and its entry stays CLAIMED (R36, R90; log entry 96). -/
def completePerform (s : State) (t : Task) (f : FmtY) (asid i : Nat) (e : RetryEntry) (v : Victims) (r : RetryRef) : Eff :=
  let op := entryOp e
  let ended := portEnd s t
  let s := if ended.isSome then modCur s (fun u => { u with linkEnd := none }) else s
  let es := (entryElems s asid i e).map (fun x => { x with mpoi := r.mpoi })
  let vt := v.task
  match placeEntry s asid (entryNeed op) r.win es with
  | .error .replay => codeOut s f 2
  | .error x =>
    let s1 := match x with | .malformed lvl => notifyMalformed s asid e.va lvl | _ => s
    codeOut (retryFail s1 v r (entryPieces es) (lateFaultOf r { cause := .perm, addr := e.va })) f 3
  | .ok ps =>
    let u := lateFindings s vt r e op ps
    let bad := match ended with | some x => x.bad | none => []
    let out := if op = .load then ps else soil bad ps
    if ps.any (fun x => match x.2 with | .mem _ _ pa _ _ => unboundWindow s.hub.pkg pa | _ => false)
        || ended.any (fun x => !x.ok) then codeOut s f 2
    else match lowestFinding u.2 with
    | some x => codeOut (retryFail u.1 v r (entryPieces es) (lateFaultOf r x)) f 3
    | none =>
      if heldOut s then .hold
      else if ended.isNone && ps.any isDeferred then .holdIn (openPort s t f (ps.filter isDeferred))
      else match (if isRmw op then atomicTurns u.1 { vt with icount := r.icount } ps else some []) with
      | none => .hold
      | some turns =>
        let info : LateInfo := { wtag := vt.wtag.toNat, gtid := e.gtid, icount := r.icount }
        lateRooms u.1 t info op ps e.va (ownersOf ps) (fun s1 =>
          let p := performLate (lateTouch (lateMarks s1 vt r e op ps) vt e op ps) info op out
          let s2 := bad.foldl poisonRead (atomicsDone p.1 turns)
          let got := portPieces ended ps p.2
          codeOut (closeEntry (giveWait s2 v r e.pc got) v r got) f 0)

/-- The value SUPPLY gives: the entry's DATA or data slot, under its byte enables (R342). `mpoi`: the access's governing mask
is poisoned (R278). -/
def suppliedPieces (s : State) (asid i : Nat) (e : RetryEntry) (mpoi : Bool) : List Piece :=
  (coveredBytes s asid i e).map (fun k =>
    let b := entryByte s asid i e k
    { roff := e.roff + k, size := 1, val := b.1, poi := b.2 || mpoi })

/-- RetryComplete and RetryFail find their entry: in the ring of the current domain, CLAIMED, with a victim that waits for
it. The codes 1 VOID and 4 BAD stand before. -/
def withEntry (s : State) (t : Task) (f : FmtY) (go : Nat → RetryEntry → Victims → RetryRef → Eff) : Eff :=
  let r := srcRegs s t
  if poiS r f.a.toNat then trapOf s .poisonConsumed
  else match entryIndex s t.asid (getS r f.a.toNat).toNat with
    | none => codeOut s f 4
    | some i =>
      match (pinnedFault s t.asid (retryVa s t.asid i) 64).or (pinnedFault s t.asid (retryDataVa s t.asid i) 1024) with
      | some bad => .pinned s bad
      | none =>
        let e := readRetry s t.asid i
        if e.state = 3 then codeOut s f 1
        else if e.state ≠ 2 then codeOut s f 4
        else match victimOf s t.asid i e.gtid with
          | none => codeOut s f 4
          | some (v, ref) =>
            match victimPinned s v ref with
            | some bad => .pinned s bad
            | none => go i e v ref

/-! ### The instructions (R342) -/

/-- `rtake` (R179): the oldest QUEUED entry is claimed; entries are taken in index order from the ring's next one. -/
def execRtake (f : FmtY) (s : State) : Host.Outcome State Fault Refusal :=
  runIsa (.rtake f) s (fun t =>
    match domOf s t.asid with
    | none => .ok (writeS s f.d.toNat 0 false latSalu)
    | some d =>
      let n := ringSize s t.asid
      match (upTo n).map (fun k => (d.ringNext + k) % n) |>.find? (fun i =>
          (pinnedFault s t.asid (retryVa s t.asid i) 64).isSome || (readRetry s t.asid i).state == 1) with
      | none => .ok (writeS s f.d.toNat 0 false latSalu)
      | some i =>
        match (pinnedFault s t.asid (retryVa s t.asid i) 64).or (pinnedFault s t.asid d.place.ringVa 64) with
        | some bad => .pinned s bad
        | none =>
          .ok (writeS (setRetryState s t.asid i 2) f.d.toNat (BitVec.ofNat 64 (retryVa s t.asid i)) false latSalu))

/-- `rcmpl` (R180). -/
def execRcmpl (f : FmtY) (s : State) : Host.Outcome State Fault Refusal :=
  runIsa (.rcmpl f) s (fun t => withEntry s t f (fun i e v ref =>
    if f.fn = 0 then completePerform s t f t.asid i e v ref
    else if e.op ≠ 1 then codeOut s f 4
    else
      let ps := suppliedPieces s t.asid i e ref.mpoi
      codeOut (closeEntry (giveWait s v ref e.pc ps) v ref ps) f 0))

/-- `rfail` (R181): the victim is marked with DATA_FAULT, INFO the PC of the entry and RECORD its copy. -/
def execRfail (f : FmtY) (s : State) : Host.Outcome State Fault Refusal :=
  runIsa (.rfail f) s (fun t => withEntry s t f (fun i e v ref =>
    codeOut (retryFail s v ref (entryPieces (entryElems s t.asid i e))
      { cause := .dataFault, addr := ref.used, info := e.pc.toNat, record := entryCopy s t.asid i }) f 0))

/-- `tret` (R173). -/
def execTret (f : FmtY) (s : State) : Host.Outcome State Fault Refusal :=
  runIsa (.tret f) s (fun t =>
    if !t.handler then trapOf s .illegalInstr
    else match pinnedFault s t.asid (trapFrameVa s t.asid s.cur) 256 with
      | some bad => .pinned s bad
      | none => .placed (trapReturn (counted s) s.cur))

/-! ### Arrivals (R36, R37, R80) -/

/-- The leaf of a part's page, as far as the access's completion looks at it. -/
def partLeaf (q : SysPart) : Leaf :=
  { base := 0, size := 1, r := true, w := true, x := false, home := 3, cls := .loose, log := q.log, pin := false
    sys := true, aok := true, sealed := false, homeIdx := 0, region := 0 }

/-- The parts of an access as placed elements. -/
def partsPlaced (a : Access) : Placed :=
  a.parts.map (fun q =>
    ({ ix := q.ix, p := q.va, size := q.size, data := q.data.toNat, cmp := q.cmp.toNat, poi := q.poi, roff := q.roff, mpoi := q.mpoi },
     .mem q.owner q.va q.pa (partLeaf q) q.win))

/-- Room in every owner's log for an access that completes. -/
def arrivalRoom (i : LateInfo) (op : AccOp) (ps : Placed) (pc : Word) : List Nat → State → LogRoom
  | [], s => .ok s
  | o :: rest, s =>
    match logReserve s o (lateNeeds s i op ps o) with
    | .ok s1 => arrivalRoom i op ps pc rest s1
    | .stop s1 code =>
      .stop (logStop s1 o code i.gtid (match ps with | x :: _ => x.1.p | [] => 0) pc) code
    | x => x

/-- The access is over: its registers have arrived. -/
def closeAccess (s : State) (id : Nat) (a : Access) : State :=
  modTask (modHub s (fun h => { h with accesses := tabDel id h.accesses })) a.slot (fun t => { t with
    arriving := a.dests.foldl (fun m k => tabPut [] k ((tabGet [] k m).filter (· != id)) m) t.arriving })

/-- The value of an access's destination, as one number. -/
def destValue (r : Regs) : List Nat → Nat
  | [] => 0
  | [k] =>
    if k < 64 then (getS r k).toNat else if k < 128 then (getV r (k - 64)).toNat else (getM r (k - 128)).toNat
  | k :: k2 :: _ => (getS r k).toNat + 2 ^ 64 * (getS r k2).toNat

/-- The 64-byte blocks an access touches, in the order of its elements. -/
def blocksOf (a : Access) : List Nat :=
  let of := fun (pa n : Nat) => (upTo ((pa + n - 1) / 64 - pa / 64 + 1)).map (fun i => pa / 64 + i)
  (a.covers.flatMap (fun c => of c.1 c.2.1) ++ a.parts.flatMap (fun q => of q.pa q.size)).foldl
    (fun l b => if l.contains b then l else l ++ [b]) []

/-- The blocks of an access that a mask names. -/
def namedBlocks (a : Access) (mask : Nat) : List Nat :=
  ((blocksOf a).zipIdx.filter (fun b => natBit mask b.2)).map (·.1)

/-- The pieces of an access's destination that came from a block, poisoned. -/
def badPieces (a : Access) (r : Regs) (b : Nat) : List Piece :=
  let v := destValue r a.dests
  (a.covers.filter (fun c => overlaps c.1 c.2.1 (64 * b) 64)).map (fun c =>
    { roff := c.2.2, size := c.2.1, val := natBits v (8 * c.2.2) (8 * c.2.1), poi := true })

/-- An older access of the same task, outstanding or on the retry ring, has still to reach a line of this one's: it is
performed first (R114, R178). -/
def owedBefore (s : State) (id : Nat) (a : Access) : Bool :=
  s.hub.accesses.any (fun e => decide (e.1 < id) && e.2.gtid == a.gtid
    && e.2.parts.any (fun q => a.parts.any (fun p => p.pa / 128 == q.pa / 128)))
  || match taskAt s a.slot with
    | none => false
    | some t => t.retry.any (fun r => decide (r.icount < a.icount) && a.parts.any (fun p =>
        p.owner == r.owner && decide (r.line ≤ p.va / 128) && decide (p.va / 128 < r.line + r.lines)))

/-- The engine job an arrival or a failure names (log entry 72). -/
def hostJob (s : State) (n : Nat) (f : EngineJob → EngineJob) : State :=
  let c := (n - 2 ^ 40) / 2 ^ 16
  modHub s (fun h => { h with clusters := tabMod c (fun q => { q with
    jobs := q.jobs.map (fun j => if j.id = (n - 2 ^ 40) % 2 ^ 16 then f j else j) }) h.clusters })

/-- The access goes on with what is left of it, or is over. -/
def leaveParts (s : State) (id : Nat) (a : Access) (left : List SysPart) (covers : List (Nat × Nat × Nat)) : State :=
  if left.isEmpty && covers.isEmpty then closeAccess s id a
  else modHub s (fun h => { h with accesses := tabSet id { a with parts := left, covers := covers } h.accesses })

/-- A part of an access has failed, or no completion ever comes for it (R36, R90). -/
def partFailed (s : State) (q : SysPart) : Bool := q.failed || unboundWindow s.hub.pkg q.pa

/-- The task that an access which holds its group belongs to is still at that group. -/
def heldAt (a : Access) (t : Task) : Bool :=
  t.id.gtid == a.gtid && t.depth == a.depth && t.abort.isNone && (t.pc == a.pc || pcAfter t.pc 1 == a.pc)

/-- What the access of an `rcmpl` has come to on the link is kept for it (R36, R180). -/
def endPort (s : State) (a : Access) (ok : Bool) (bad soiled : List Nat) : State :=
  modTask s a.slot (fun t => if heldAt a t then { t with
    linkEnd := some { pc := a.pc, depth := a.depth, ok := ok, bad := bad, soiled := soiled } } else t)

/-- The value that the read of a wait brings is for its condition (R322). -/
def bringWait (s : State) (a : Access) (ps : List Piece) : State :=
  modTask s a.slot (fun t => if heldAt a t then { t with
    waitVal := some { val := overlay 0 ps, poi := ps.any (·.poi), pc := a.pc, depth := a.depth } } else t)

/-- An access arrives, but for its parts that have failed: `a` with the parts that complete. -/
def arriveParts (s : State) (m : AccessDone) (whole a : Access) (late : List SysPart) : State :=
  let info : LateInfo := { wtag := a.wtag.toNat, gtid := a.gtid, icount := a.icount }
  let bad := namedBlocks whole m.crcBad
  let soiled := bad ++ namedBlocks whole m.poisoned
  let ps := if a.op = .load then partsPlaced a else soil bad (partsPlaced a)
  match arrivalRoom info a.op ps a.pc (ownersOf ps) s with
  | .stall => s
  | .stop s1 _ => s1
  | .pinned va => pinnedContext s a.slot va 0 a.pc
  | .ok s1 =>
    let p := performLate s1 info a.op ps
    let got := (p.2.zip ps).map (fun x => { x.1 with poi := x.1.poi || match x.2.2 with
      | .mem _ _ pa _ _ => soiled.contains (pa / 64)
      | _ => false })
    let deliver := fun (s : State) (xs : List Piece) =>
      if a.use = .wait then (if xs.isEmpty then s else bringWait s a xs)
      else if a.dests.isEmpty || xs.isEmpty then s
      else modTask s a.slot (fun t => { t with regs := deliverRegs t.regs a.dests false xs })
    let s2 := bad.foldl (fun s b =>
      let s1 := poisonRead s b
      if a.use = .wait then s1
      else deliver s1 (badPieces a (match taskAt s a.slot with | some t => t.regs | none => {}) b)) (deliver p.1 got)
    leaveParts s2 m.id whole late []

/-- The job an arrival or a failure names. -/
def hostJobAt (s : State) (n : Nat) : Option EngineJob :=
  (tabFind ((n - 2 ^ 40) / 2 ^ 16) s.hub.clusters).bind (fun q => q.jobs.find? (fun j => j.id = (n - 2 ^ 40) % 2 ^ 16))

/-- The blocks of a job's host accesses whose check value does not match are counted, each one (R37). -/
def jobMismatch (s : State) (m : AccessDone) : State :=
  match hostJobAt s m.id with
  | none => s
  | some j => (hostNamed s j m.crcBad).foldl (fun a _ => crcMismatch a) s

/-- MEMORY_ACCESS_COMPLETE: what was left for a host link is performed, and the destination arrives; a full log of a
domain with STALL keeps it waiting, an older access of its task to the same line does, and no completion ever comes
through an unbound window (R90) or for a part that has failed (R36). -/
def execMemoryAccessComplete (m : AccessDone) (s : State) : Host.Outcome State Fault Refusal :=
  if 2 ^ 41 ≤ m.id then event (if m.crcBad ≠ 0 then poisonRead s (m.id - 2 ^ 41) else s)
  else if 2 ^ 40 ≤ m.id then
    event (hostJob (jobMismatch s m) m.id (fun j => { j with hostPoison := j.hostPoison ||| m.poisoned ||| m.crcBad }))
  else match tabFind m.id s.hub.accesses with
  | none => event s
  | some whole =>
    let late := whole.parts.filter (partFailed s)
    let a := { whole with parts := whole.parts.filter (fun q => !partFailed s q) }
    event (if owedBefore s m.id a || (a.parts.isEmpty && a.covers.isEmpty && !late.isEmpty) then s
      else if a.use = .port then
        let bad := namedBlocks whole m.crcBad
        closeAccess (endPort s a true bad (bad ++ namedBlocks whole m.poisoned)) m.id a
      else arriveParts s m whole a late)

/-- Group an access's host parts into retry entries: by page when it is contiguous, one by one otherwise (R176). -/
def partFaults (s : State) (a : Access) : List NewRetry :=
  groupFaults s a.contig ((partsPlaced a).zip a.parts |>.map (fun x => match x.1.2 with
    | .mem o va _ _ _ => ({ x.1.1 with p := x.2.used }, .fault o va)
    | y => (x.1.1, y)))

/-- Append entries as far as the rings have room: the state, the entries left over, and a pinned page that failed. -/
def retryAppendSome (v : Victim) : List NewRetry → State → State × List NewRetry × Option Nat
  | [], s => (s, [], none)
  | r :: rest, s =>
    match retryAppendFor s v r with
    | .ok s1 => retryAppendSome v rest s1
    | .pinned va => (s, r :: rest, some va)
    | _ => (s, r :: rest, none)

/-- The parts of an access that fail at the blocks named, with those that have failed before. -/
def failingParts (s : State) (a : Access) (blocks : Nat) : List SysPart :=
  let named := namedBlocks a blocks
  a.parts.filter (fun q => q.failed || (hostBacked s.hub.pkg q.pa && named.contains (q.pa / 64)))

/-- A host access fails, or goes through an unbound window (R36, R90): the parts that fail become entries of the retry ring,
and their registers are pending there. What finds no free entry waits for one, until the event comes again; the other parts
are still outstanding. -/
def hostAccessFails (s : State) (f : HostFail) : State :=
  if 2 ^ 40 ≤ f.access then hostJob s f.access (fun j => { j with hostFault := j.hostFault ||| f.blocks })
  else match tabFind f.access s.hub.accesses with
  | none => s
  | some a =>
    let gone := failingParts s a f.blocks
    if gone.isEmpty || owedBefore s f.access { a with parts := gone } then s
    else if a.use = .port then closeAccess (endPort s a false [] []) f.access a
    else
      let old := match taskAt s a.slot with | some t => t.retry | none => []
      let v : Victim :=
        { key := a.slot, gtid := a.gtid, pc := a.pc, op := a.op, ord := a.ord, sc := a.sc, dests := a.dests
          depth := a.depth, plain := a.plain, icount := a.icount }
      match retryAppendSome v (partFaults s { a with parts := gone }) s with
      | (s1, _, some va) => pinnedContext s1 a.slot va 0 a.pc
      | (s1, rest, none) =>
        let waits := fun (q : SysPart) => rest.any (fun r => r.elems.any (fun e => e.ix == q.ix))
        let s1 := if a.use = .wait then holdNew s1 a.slot old true else s1
        leaveParts s1 f.access a (a.parts.filterMap (fun q =>
          if !gone.contains q then some q else if waits q then some { q with failed := true } else none)) a.covers

/-- HOST_ACCESS_ERROR. -/
def execHostAccessError (f : HostFail) (s : State) : Host.Outcome State Fault Refusal := event (hostAccessFails s f)
/-- HOST_ACCESS_TIMEOUT. -/
def execHostAccessTimeout (f : HostFail) (s : State) : Host.Outcome State Fault Refusal := event (hostAccessFails s f)

end Sys2Proof.Machine
end

