-- ==== Sys2Proof/Machine/Wake.lean ====
section
/-!
DEFINITION. What ends a wait (R62): the full-empty, monitor, acquire and message wake-ups (R75, R78, R127, R317, R334),
the delivery of a marked fault (R181), the end of a register move (R160, R168), the end of a cleanup's reserve (R164);
and the arrival of code lines and the completion of invalidations (R76, R98).
-/

namespace Sys2Proof.Machine

/-- A slot whose awaited condition holds: READY, and its blocked group comes to its end next. -/
def wake (s : State) (key : Nat) : State := { modTask s key (fun t => { t with st := .ready }) with force := some key }

/-! ### Full-empty waiters (R75) -/

/-- A waiter's granules are in the state it waits for, and no older waiter of its kind waits on one of them, blocked or
released and not done. -/
def feMayGo (s : State) (key : Nat) (t : Task) : Bool :=
  t.st = .blkFe && match t.feWait with
    | none => false
    | some w =>
      bitsAre s w.grans (w.kind != 2) && (w.kind == 0 || !s.tasks.any (fun e =>
        e.1 != key && decide (e.2.waitSince < t.waitSince)
        && match e.2.feWait with
          | some x => x.kind == w.kind && x.grans.any (fun g => w.grans.contains g)
          | none => false))

/-- The waiter reconsidered first: wait-full loads, then wait-full-and-clear loads, then wait-empty-set-full stores, each
oldest first. -/
def feNext (s : State) : Option Nat :=
  let kind := fun (t : Task) => match t.feWait with | some w => w.kind | none => 3
  let first := fun (acc : Option (Nat × Task)) (e : Nat × Task) => match acc with
    | none => some e
    | some b =>
      if kind e.2 < kind b.2 || (kind e.2 == kind b.2 && decide (e.2.waitSince < b.2.waitSince)) then some e else some b
  ((s.tasks.filter (fun e => feMayGo s e.1 e.2)).foldl first none).map (·.1)

/-- FE_WAKE: a waiting full-empty access is issued again, its granules being as it waits for. -/
def execFeWake (slot : Nat) (s : State) : Host.Outcome State Fault Refusal :=
  match taskAt s slot with
  | some t => event (if feMayGo s slot t then wake s slot else s)
  | none => event s

/-! ### Monitors (R78, R127) -/

/-- A waiter whose monitor has seen its condition hold. -/
def monitorSeen (t : Task) (tabled : Bool) : Bool :=
  t.st = .blkMon && match t.mon with | some m => m.tabled == tabled && m.seen.isSome | none => false

/-- MONITOR_WAKE: a tabled waiter whose condition a write has made hold returns to READY. -/
def execMonitorWake (slot : Nat) (s : State) : Host.Outcome State Fault Refusal :=
  match taskAt s slot with
  | some t => event (if monitorSeen t true then wake s slot else s)
  | none => event s

/-- The swept waiter of a core that was armed first. -/
def firstSwept (s : State) (core : Nat) : Option (Nat × Monitor) :=
  (s.tasks.filterMap (fun e => match e.2.st, e.2.mon with
    | .blkMon, some m => if keyCore e.1 = core && !m.tabled then some (e.1, m) else none
    | _, _ => none)).foldl (fun acc e => match acc with
      | none => some e
      | some b => if e.2.order < b.2.order then some e else some b) none

/-- Swept waiters move into the table, in order of arming, while it has room. -/
def tableSwept (core : Nat) : Nat → State → State
  | 0, s => s
  | n + 1, s =>
    if monitorsTabled s core < 32 then
      match firstSwept s core with
      | some (k, m) => tableSwept core n (modTask s k (fun t => { t with mon := some { m with tabled := true } }))
      | none => s
    else s

/-- MONITOR_SWEEP: the core's swept addresses are read again; those whose condition holds return to READY, and others
move into the table as entries are free. -/
def execMonitorSweep (core : Nat) (s : State) : Host.Outcome State Fault Refusal :=
  let keys := (s.tasks.filter (fun e => keyCore e.1 == core && monitorSeen e.2 false)).map (·.1)
  event (tableSwept core 16 (keys.foldl (fun a k => modTask a k (fun t => { t with st := .ready })) s))

/-! ### Acquires and messages -/

/-- ACQ_RETRY_PASS: a waiting acquire makes another pass. -/
def execAcqRetryPass (slot : Nat) (s : State) : Host.Outcome State Fault Refusal :=
  match taskAt s slot with
  | some t => event (if t.st = .blkAcq then wake s slot else s)
  | none => event s

/-- The oldest USER message for a domain in a core's inbox (R334). -/
def userMsg (s : State) (core asid : Nat) : Option Msg :=
  (tabGet [] core s.cores.inbox).find? (fun m => decide (m.kind = .user) && m.asid == asid)

/-- No older waiter of the same domain waits on the core. -/
def oldestRecv (s : State) (key : Nat) (t : Task) : Bool :=
  !s.tasks.any (fun e => e.1 != key && keyCore e.1 == keyCore key && e.2.st = .blkRecv && e.2.asid == t.asid
    && decide (e.2.waitSince < t.waitSince))

/-- RECV_WAKE: the oldest waiter of its domain re-reads the queue when a message is there. -/
def execRecvWake (slot : Nat) (s : State) : Host.Outcome State Fault Refusal :=
  match taskAt s slot with
  | some t =>
    event (if t.st = .blkRecv && (userMsg s (keyCore slot) t.asid).isSome && oldestRecv s slot t then wake s slot else s)
  | none => event s

/-! ### Faults, moves and cleanups -/

/-- The slot is blocked. -/
def isBlocked : SlotState → Bool
  | .blkJob | .blkMon | .blkFe | .blkAcq | .blkRecv => true
  | _ => false

/-- DATA_FAULT_DELIVERY: a victim that is not in handler mode takes its fault at its next group boundary; a blocked one
returns to READY for it, and its instruction will be issued again (R181). A `waita` whose condition its monitor has
seen hold has its wake-up first (R127). -/
def execDataFaultDelivery (slot : Nat) (s : State) : Host.Outcome State Fault Refusal :=
  match taskAt s slot with
  | some t =>
    if t.dataFaults.isEmpty || t.handler then event s
    else if t.st = .ready then event { s with force := some slot }
    else if t.st = .blkMon && (monitorSeen t true || monitorSeen t false) then event (wake s slot)
    else if isBlocked t.st then
      event (wake (modTask s slot (fun u => { u with mon := none, feWait := none, waitSince := 0 })) slot)
    else event s
  | none => event s

/-- GATE_MOVE_DONE: a register move has ended, or the jobs an abort waits for have completed; a pre-emption that came
meanwhile is taken now (R62, R160, R168). -/
def execGateMoveDone (slot : Nat) (s : State) : Host.Outcome State Fault Refusal :=
  match taskAt s slot with
  | none => event s
  | some t =>
    if t.st ≠ .inCall || s.clock < t.moveUntil then event s
    else match t.abort with
      | some _ => event (unwindGo s slot)
      | none =>
        if t.preempt = 0 then event (modTask s slot (fun t => { t with st := .ready }))
        else if t.preempt = 0x20 && t.cancelled then event (endSlot s slot false true)
        else event (modTask s slot (fun t => { t with st := .preempting }))

/-- CLEANUP_RESERVE_OUT: the reserve of a cleanup has run out, and the cleanup is abandoned with outcome RESERVE_OUT
(R164, R165). -/
def execCleanupReserveOut (slot : Nat) (s : State) : Host.Outcome State Fault Refusal :=
  match taskAt s slot with
  | some t =>
    event (if t.clean && t.reserve == 0 && t.st != .ended && t.st != .preempting then endCleanup s slot 2 else s)
  | none => event s

/-! ### Code lines and translations -/

/-- ICACHE_FILL. -/
def execIcacheFill (l : LineFill) (s : State) : Host.Outcome State Fault Refusal :=
  event (icFill s l.core l.asid l.line)

/-- An access of the range is still to be performed, or a store to be acknowledged. -/
def rangeBusy (s : State) (r : VaRange) : Bool :=
  s.hub.accesses.any (fun e => e.2.spans.any (fun q => q.1 == r.asid && decide (q.2.1 < r.hi) && decide (r.lo < q.2.1 + q.2.2)))

/-- The monitors whose word lies in a range, and which have seen nothing yet: their `waita` or `ccnt` is issued anew, by the
new entry (R98). -/
def rearm (s : State) (r : VaRange) : State :=
  { s with tasks := tabMap (fun _ t => match t.mon with
      | some m =>
        if m.owner == r.asid && decide (m.va < r.hi) && decide (r.lo < m.va + m.size) && m.seen.isNone then
          { t with mon := none, st := if t.st = .blkMon then .ready else t.st }
        else t
      | none => t) s.tasks }

/-- TRANSLATION_INVALIDATE: once every access of the range is performed and acknowledged, every translation held for it is
discarded, and with them the code lines fetched through it; and no monitor watches it through the old entry (R98). -/
def execTranslationInvalidate (r : VaRange) (s : State) : Host.Outcome State Fault Refusal :=
  if rangeBusy s r then event s
  else
    let hit := fun (asid a n : Nat) => asid == r.asid && decide (a < r.hi) && decide (r.lo < a + n)
    let s := rearm (dropTranslations s hit) r
    event { s with
      tasks := tabMap (fun _ t => match t.fbuf with
        | some (a, _) => if hit t.asid a 64 then { t with fbuf := none } else t
        | none => t) s.tasks
      cores := { s.cores with
        icache := (s.cores.icache.map (fun e => (e.1, e.2.filter (fun l => !hit l.asid l.line 64)))).filter
          (fun e => !e.2.isEmpty) } }

end Sys2Proof.Machine
end

