-- ==== Sys2Proof/Machine/Messages.lean ====
section
/-!
DEFINITION. Messages and work from device code (R333 to R339): `send`, `recv`, `launch`, `graph`, `ccnt`, `cancel` and
`hnote`.
-/

namespace Sys2Proof.Machine

/-! ### `send` (R42, R333) -/

/-- The endpoint a handle names, when the domain holds the grant at the endpoint's revision (R42). -/
def handleEndpoint (s : State) (asid : Nat) (h : Word) : Option (Nat × Endpoint) :=
  let ix := natBits h.toNat 0 16
  let rev := natBits h.toNat 16 16
  let granted := match domOf s asid with
    | some d => d.endpoints.any (fun g => g.index == ix && g.rev == rev && g.tag.toNat == natBits h.toNat 32 32)
    | none => false
  let e := tabGet {} ix s.hub.endpoints
  if granted && e.valid && e.rev == rev then some (ix, e) else none

/-- USER messages a core's network interface still holds. -/
def heldByNi (s : State) (core : Nat) : Nat := (s.hub.msgs.filter (fun e => e.2.fromCore == some core)).length

/-- The message a `send` builds (R60, R333). -/
def userMessage (s : State) (t : Task) (f : FmtJ) (ix : Nat) (e : Endpoint) : Msg :=
  let r := srcRegs s t
  let w := fun (i : Nat) => (getS r (f.f.toNat + i)).toNat
  let pay := (upTo 6).foldl (fun a i => a + 2 ^ (64 * i) * w (i + 2)) 0
  { kind := .user, sender := keyCore s.cur, size := f.imm.toNat, stamp := s.clock, handler := getS r (f.f.toNat + 1)
    payload := BitVec.ofNat 384 (pay % 2 ^ (8 * f.imm.toNat)), core := e.core, asid := e.asid, ref := ix, rev := e.rev
    fromCore := some (keyCore s.cur), source := t.id.gtid }

/-- Bytes 0 to 7 of a message. -/
def msgHead (m : Msg) : Nat :=
  m.sender + 2 ^ 16 * m.size + 2 ^ 32 * (match m.kind with | .taskStart => 0 | .user => 1 | .resume => 2)

/-- The 72 bytes of a message (R60). -/
def msgBytes (m : Msg) : List Byte :=
  leBytes 8 (msgHead m) ++ leBytes 8 m.stamp ++ leBytes 8 m.handler.toNat ++ leBytes 48 m.payload.toNat

/-- The message leaves: towards a core, or on a link. -/
def postUser (s : State) (e : Endpoint) (m : Msg) : State :=
  match e.ualink with
  | some n => modHub s (fun h => { h with linkOut := (n, msgBytes m) :: h.linkOut })
  | none => (postMsg s m).2

/-- `send`. -/
def execSend (f : FmtJ) (s : State) : Host.Outcome State Fault Refusal :=
  runIsa (.send f) s (fun t =>
    let r := srcRegs s t
    let h := getS r f.f.toNat
    if !t.retry.isEmpty || (f.rl && !quiet s t) then .hold
    else if anyPoison ((upTo 8).map (fun i => poiS r (f.f.toNat + i))) then trapOf s .poisonConsumed
    else match handleEndpoint s t.asid h with
      | none => trapOf s .perm
      | some (ix, e) =>
        if e.ualink.isNone && !coreLive s.hub.pkg e.core then trapOf s .perm
        else if 4 ≤ heldByNi s (keyCore s.cur) then .hold
        else
          let out := e.ualink.isSome || e.asid != t.asid
          let done := fun (s1 : State) =>
            Eff.ok (writeS (postUser s1 e (userMessage s t f ix e)) f.d.toNat (BitVec.ofNat 64 s.clock) false latJob)
          if !out then done s
          else effectGate s t.asid (withRoom s t t.asid 1 0 (fun s1 =>
            done (logAppend s1 t.asid [irrevocableEntry t.wtag.toNat 0 t.id.gtid (ownIcount s t) 2 h.toNat]).1)))

/-! ### `recv` (R334) -/

/-- USER messages of a domain in a core's inbox, oldest first. -/
def userMsgs (s : State) (core asid : Nat) : List Msg :=
  (inboxAt s core).filter (fun m => decide (m.kind = .user) && m.asid == asid)

/-- Waiters of the domain on the core that are older than the acting task. -/
def olderRecv (s : State) (t : Task) : Nat :=
  (s.tasks.filter (fun e => e.1 != s.cur && keyCore e.1 == keyCore s.cur && e.2.st = .blkRecv && e.2.asid == t.asid
    && (t.waitSince == 0 || decide (e.2.waitSince < t.waitSince)))).length

/-- The message's registers: its STAMP, and the frame (R334). -/
def recvRegs (s : State) (f : FmtJ) (stamp head handler payload : Nat) : State :=
  let s1 := writeS s f.d.toNat (BitVec.ofNat 64 stamp) false latJob
  let s2 := writeS s1 f.f.toNat (BitVec.ofNat 64 head) false latJob
  let s3 := writeS s2 (f.f.toNat + 1) (BitVec.ofNat 64 handler) false latJob
  (upTo 6).foldl (fun a i => writeS a (f.f.toNat + 2 + i) (BitVec.ofNat 64 (natBits payload (64 * i) 64)) false latJob) s3

/-- The task takes a message from the inbox. -/
def takeUser (s : State) (t : Task) (f : FmtJ) (m : Msg) : State :=
  let core := keyCore s.cur
  let s1 := setInbox s core ((inboxAt s core).filter (fun x => x.order != m.order))
  let s2 := acctTaken s1 m
  let s3 := modCur s2 (fun u => { u with run := some (m.sender, t.asid, s.clock) })
  recvRegs s3 f m.stamp (msgHead m) m.handler.toNat m.payload.toNat

/-- `recv`: the oldest message that no older waiter is to take. The run of the message taken before ends here, whatever this
one finds (R221). -/
def execRecv (f : FmtJ) (s : State) : Host.Outcome State Fault Refusal :=
  runIsa (.recv f) s (fun t =>
    if !t.resident || t.depth ≠ 0 || t.clean then trapOf s .illegalInstr
    else
      let s1 := modCur (acctRun s t) (fun u => { u with run := none })
      match (userMsgs s (keyCore s.cur) t.asid)[olderRecv s t]? with
      | some m => .ok (takeUser s1 t f m)
      | none => if f.fn = 1 then .ok (recvRegs s1 f 0 0 0 0) else .block s1 .blkRecv)

/-! ### `launch` and `graph` (R335, R336) -/

/-! R323 gives `recv`, `launch` and `cancel` a variable latency, and `jwait`; the cycles their destinations take are DESIGN
CHOICE (log entry 93). -/

/-- What `launch` and `graph` wait for: every earlier access performed, and fewer than 256 waiting to start. -/
def handOver (s : State) (t : Task) : Bool := quiet s t && decide (deviceWaiting s t.asid < 256)

/-- `launch`: accepted in the current domain; s[d] is the GTID of its task 0. -/
def execLaunch (f : FmtJ) (s : State) : Host.Outcome State Fault Refusal :=
  runIsa (.launch f) s (fun t =>
    let r := srcRegs s t
    if poiS r f.f.toNat then trapOf s .poisonConsumed
    else if !handOver s t then .hold
    else
      let serial := match domOf s t.asid with | some d => d.serial | none => 0
      let a := acceptLaunch s t.asid (getS r f.f.toNat).toNat .none (decide (t.home ≠ t.asid)) true
      .ok (writeS a.2 f.d.toNat (gtidOf t.asid serial 0) false latSpad))

/-- A graph walker handed to the front end, not yet armed (R68, R336). -/
def acceptGraph (s : State) (w : Walker) : State :=
  let (id, s1) := freshId s
  modHub s1 (fun h => { h with walkers := tabSet id w h.walkers })

/-- `graph`. -/
def execGraph (f : FmtJ) (s : State) : Host.Outcome State Fault Refusal :=
  runIsa (.graph f) s (fun t =>
    let r := srcRegs s t
    if poiS r f.f.toNat || poiS r (f.f.toNat + 1) then trapOf s .poisonConsumed
    else if !handOver s t then .hold
    else .ok (acceptGraph s
      { asid := t.asid, first := (getS r f.f.toNat).toNat, block := (getS r (f.f.toNat + 1)).toNat, snap := f.fn == 1
        device := true, external := decide (t.home ≠ t.asid) }))

/-! ### Counters from device code (R337, R338) -/

/-- A Format J address as an access of Format M: an acquire-class read at device scope. -/
def counterFmt (f : FmtJ) : FmtM :=
  { mq := 0, d := f.d, a := f.f, x := 0, sz := 3, ord := 1, sc := 4, sp := .global, fe := 0, ch := 0, pc := 0, off := 0 }

/-- Findings of a counter's page: a BOUND one. -/
def counterFindings (ps : Placed) : List Finding := waitFindings ps

/-- The read of a counter's bytes 0 to 7; `ccnt` reports the 16 bytes of the counter it reads (DEDUCED). -/
def counterReq (r : Regs) (f : FmtJ) (align : Nat) (dests : List Nat) : MemReq :=
  { op := .load, need := .load, elems := [{ p := (getS r f.f.toNat).toNat, size := 8 }], align := align, contig := true
    width := if align = 16 then 16 else 0
    dests := dests, plain := false, poison := poiS r f.f.toNat, exempt := true }

/-- `ccnt.wait` at its counter: the value, once STATUS is not 0; until then an armed monitor and BLK_MON (R78). -/
def counterWait (s : State) (t : Task) (f : FmtJ) (rq : MemReq) (ps : Placed) (owner va pa : Nat) (l : Leaf) : Eff :=
  waitOn s t (counterFmt f) rq ps va pa 8 l 4 0 (fun s => modCur s (fun u => { u with
    waitVal := none
    mon := some { owner := owner, va := va, pa := pa, size := 8, cond := 4, comparand := 0
                  tabled := decide (monitorsTabled s (keyCore s.cur) < 32), order := s.hub.nextId } }))

/-- `ccnt`. -/
def execCcnt (f : FmtJ) (s : State) : Host.Outcome State Fault Refusal :=
  runIsa (.ccnt f) s (fun t =>
    let r := srcRegs s t
    let rq := counterReq r f 16 (scalarDests f.d.toNat false)
    if f.fn = 0 then loadMemWith counterFindings (counterFmt f) rq s t
    else
      match t.waitVal.filter (fun v => v.pc == ownPc s t && v.depth == t.depth && waitHolds 4 v.val 0) with
      | some v =>
        .ok (modCur (writeS s f.d.toNat (BitVec.ofNat 64 v.val) v.poi latSpad) (fun u => { u with waitVal := none }))
      | none =>
        match resolve s t (counterFmt f) rq counterFindings with
        | .error e => e
        | .ok (s1, ps) =>
          if lineBusy t ps || lineOwed s ps then .hold
          else match watchHit s t rq ps with
            | some x => watchStop s t x
            | none => match windowFails s ps with
              | [(_, .mem owner va pa l _)] => counterWait s1 t f rq ps owner va pa l
              | qs => objFault s1 t (counterFmt f) rq qs true)

/-- `cancel`: the level of the current domain whose counter lies there, unless its STATUS has left 0. A memory window names no
counter of the current domain. -/
def execCancel (f : FmtJ) (s : State) : Host.Outcome State Fault Refusal :=
  runIsa (.cancel f) s (fun t =>
    let rq := counterReq (srcRegs s t) f 1 []
    match resolve s t (counterFmt f) rq (fun _ => []) with
    | .error e => e
    | .ok (s1, ps) =>
      if lineBusy t ps || lineOwed s ps then .hold
      else match watchHit s t rq ps with
        | some x => watchStop s t x
        | none => match windowFails s ps with
          | [(_, .mem owner va _ _ _)] =>
            let c := if owner = t.asid then cancelAt s1 t.asid va else (s1, false)
            .ok (writeS c.1 f.d.toNat (BitVec.ofNat 64 (boolNat c.2)) false latSpad)
          | qs => objFault s1 t (counterFmt f) rq qs false)

/-! ### `hnote` (R339) -/

/-- The task's stores to SYS pages that have not been issued to the link. -/
def sysStoresOut (s : State) : Bool := (accessesOf s s.cur).any (fun a => a.2.isStore && !a.2.parts.isEmpty)

/-- `hnote`. -/
def execHnote (f : FmtJ) (s : State) : Host.Outcome State Fault Refusal :=
  runIsa (.hnote f) s (fun t =>
    let v := f.imm.toNat
    let granted := match domOf s t.asid with | some d => d.vectors.contains v | none => false
    if !t.retry.isEmpty then .hold
    else if v = 0 || !granted then trapOf s .perm
    else if sysStoresOut s then .hold
    else effectGate s t.asid (withRoom s t t.asid 1 0 (fun s1 =>
      .ok (countEvent
        (logAppend s1 t.asid [irrevocableEntry t.wtag.toNat 0 t.id.gtid (ownIcount s t) 3 v]).1 v))))

end Sys2Proof.Machine
end

