-- ==== Sys2Proof/Machine/Queue.lean ====
section
/-!
DEFINITION. The host's side of function 0 (R21 to R32): its registers, the submission queues with the fetch, the checks
and the consumption of their records, and the MSI-X vectors' timers, masks and messages.
-/

namespace Sys2Proof.Machine

/-! ### Host memory by bus address (R90) -/

/-- Where host bus address `b` lies: in the PCIe range of the physical map, or, beyond its 2^50 bytes, outside every
address a core can name. -/
def hostAddr (b : Nat) : Nat := if b < 2 ^ 50 then pcieBase + b else 2 ^ 64 + b

/-- `n` bytes of host memory, unless the completion carries poison. -/
def hostRead (s : State) (b n : Nat) : Option (List Byte) :=
  if poisonAt s.mem.poison (hostAddr b) n then none else some (physRead s.mem (hostAddr b) n)

/-- Write host memory. -/
def hostWriteAt (s : State) (b : Nat) (bs : List Byte) : State := { s with mem := physWrite s.mem (hostAddr b) bs false }

/-! ### Queues (R23, R24) -/

/-- Key of the administrative queue, after those of the 1,024 ASIDs. -/
def admQueue : Nat := 1024
/-- A queue. -/
def queueAt (s : State) (k : Nat) : Queue := tabGet {} k s.hub.queues
/-- Change a queue. -/
def modQueue (s : State) (k : Nat) (f : Queue → Queue) : State :=
  modHub s (fun h => { h with queues := tabPut {} k (f (tabGet {} k h.queues)) h.queues })

/-- Records in the ring: 2^SQ_LOG2, values below 4 acting as 4. -/
def Queue.size (q : Queue) : Nat := 2 ^ max q.log2 4

/-- The front end fetches the queue's next record: it is enabled, not stopped, waits for no counter, and SQ_HEAD has not
reached the latest SQ_TAIL. -/
def Queue.fetches (q : Queue) : Bool :=
  q.en && !q.stopped && q.waiting.isNone && q.head % q.size != q.tail % q.size

/-- The queue has been ended with its domain (R29). -/
def Queue.gone (q : Queue) : Bool := q.err == 8

/-- The queue stops on a record (R27). -/
def stopQueue (s : State) (k err tag : Nat) : State :=
  countEvent (modQueue s k (fun q => { q with stopped := true, err := err, errTag := tag % 2 ^ 24 })) 0

/-- The record is consumed (R24). -/
def consume (s : State) (k : Nat) : State := modQueue s k (fun q => { q with head := (q.head + 1) % q.size })

/-- The queue of a revoked or killed domain ends (R29, R41). -/
def endQueue (s : State) (k : Nat) : State :=
  modQueue s k (fun q => { q with
    en := false, head := q.tail % q.size, err := 8, openJob := none, waiting := none })

/-- A doorbell: the last value counts; dropped while READY is 0, and on an ended queue (R16, R24, R29). -/
def doorbell (s : State) (k v : Nat) : State :=
  if !s.hub.pkg.ready || (queueAt s k).gone then s else modQueue s k (fun q => { q with tail := v % 2 ^ 32 })

/-- SQ_TAIL_WRITE. -/
def execSqTailWrite (queue newTail : Nat) (s : State) : Host.Outcome State Fault Refusal :=
  event (doorbell s queue newTail)

/-- STOPPED is cleared by writing 1; fetch resumes at SQ_HEAD. -/
def clearStopped (s : State) (k : Nat) : State :=
  if !s.hub.pkg.ready then s else modQueue s k (fun q => { q with stopped := false })

/-- SQ_STOPPED_CLEAR. -/
def execSqStoppedClear (queue : Nat) (s : State) : Host.Outcome State Fault Refusal := event (clearStopped s queue)

/-! ### Registers (R16, R21, R23, R31) -/

/-- A write to a register of a queue page. SQ_BASE and SQ_LOG2 are written only while EN is 0. -/
def writeQueueReg (s : State) (k off : Nat) (v : Word) : State :=
  match off with
  | 0x000 => modQueue s k (fun q => if q.en then q else { q with base := v })
  | 0x008 => modQueue s k (fun q => if q.en then q else { q with log2 := natBits v.toNat 0 4 })
  | 0x010 => doorbell s k v.toNat
  | 0x020 =>
    let s1 := modQueue s k (fun q => { q with en := natBit v.toNat 0 })
    if natBit v.toNat 1 then clearStopped s1 k else s1
  | _ => s

/-- DEV_ID (R22). -/
def devId : Word := BitVec.ofNat 64 (2 ^ 16 * 0x0705 + 2 ^ 8 * Config.step.toNat + 1)

/-- SQ_STOPPED: word `n` holds the STOPPED bits of the queues of ASIDs 64 n to 64 n + 63 (R21). -/
def sqStopped (s : State) (n : Nat) : Word :=
  BitVec.ofNat 64 ((upTo 64).foldr (fun i acc => boolNat (queueAt s (64 * n + i)).stopped + 2 * acc) 0)

/-- MSIX_COAL of a vector (R31). -/
def MsixVec.coal (v : MsixVec) : Word := BitVec.ofNat 64 (v.thresh % 2 ^ 16 + 2 ^ 16 * v.pend + 2 ^ 32 * (v.timer % 2 ^ 16))

/-- What a register of a queue page reads as (R23). -/
def Queue.reg (q : Queue) (off : Nat) : Word :=
  match off with
  | 0x000 => q.base
  | 0x008 => BitVec.ofNat 64 q.log2
  | 0x010 => BitVec.ofNat 64 q.tail
  | 0x018 => BitVec.ofNat 64 q.head
  | 0x020 => BitVec.ofNat 64 (boolNat q.en + 2 * boolNat q.stopped)
  | 0x028 => BitVec.ofNat 64 (q.err + 2 ^ 8 * q.errTag)
  | _ => 0

/-- What a host's read of a register of function 0 gives (R16, R21): zero at an offset not listed and, PKG_STATUS apart,
while READY is 0. A read changes nothing. The registers are read and written whole, 64 bits at their own offsets; any other
offset, one inside a register among them, is not listed: DESIGN CHOICE (log entry 80). -/
def readReg (s : State) (bar off : Nat) : Word :=
  if bar = 0 ∧ off = 8 then pkgStatus s.hub.pkg
  else if s.hub.pkg.ready = false then 0
  else if bar = 0 then
    if off = 0 then devId
    else if 0x100 ≤ off ∧ off < 0x180 ∧ off % 8 = 0 then sqStopped s ((off - 0x100) / 8)
    else if off = 0x200 then BitVec.ofNat 64 s.hub.crcErrs
    else if 0x1000 ≤ off ∧ off < 0x1800 ∧ off % 8 = 0 then (tabGet {} ((off - 0x1000) / 8) s.hub.vecs).coal
    else 0
  else if bar = 2 ∧ off < 0x401000 then (queueAt s (off / 4096)).reg (off % 4096)
  else 0

/-- A write to a register of function 0; a read-only register, an offset not listed, and every register while READY is 0
drop it. SQ_STOPPED and CRC_ERRS are listed without an access code: a write is dropped: DESIGN CHOICE (log entry 80). -/
def writeReg (s : State) (w : BarWrite) : State :=
  if !s.hub.pkg.ready then s
  else if w.bar = 0 then
    if 0x1000 ≤ w.off && decide (w.off < 0x1800) && w.off % 8 == 0 then
      let n := (w.off - 0x1000) / 8
      modHub s (fun h => { h with vecs := tabPut {} n { tabGet {} n h.vecs with
        thresh := natBits w.val.toNat 0 16, timer := natBits w.val.toNat 32 16 } h.vecs })
    else s
  else if w.bar = 2 then
    if w.off < 0x401000 then writeQueueReg s (w.off / 4096) (w.off % 4096) w.val else s
  else s

/-- REGISTER_WRITE. -/
def execRegisterWrite (w : BarWrite) (s : State) : Host.Outcome State Fault Refusal := event (writeReg s w)

/-! ### Records (R25 to R28) -/

/-- A submission record (R25). -/
structure SqRecord where
  kind : Nat
  snapshot : Bool
  irq : Bool
  flags : Nat
  count : Nat
  tag : Nat
  addrA : Nat
  addrB : Nat
  vector : Nat
  rest : Nat
  deriving DecidableEq, Repr

/-- The record 64 bytes hold. -/
def SqRecord.ofBytes (b : List Byte) : SqRecord :=
  let f := recField b 1 1
  { kind := recField b 0 1, snapshot := natBit f 0, irq := natBit f 1, flags := f / 4, count := recField b 2 2
    tag := recField b 4 4, addrA := recField b 8 8, addrB := recField b 16 8, vector := recField b 24 2
    rest := recField b 26 38 }

/-- Row 2 of R27. -/
def SqRecord.reserved (r : SqRecord) : Bool :=
  r.flags != 0 || r.rest != 0 || (r.snapshot && r.kind != 3) || ((r.irq || r.count != 0) && r.kind != 1)
    || (r.vector != 0 && !(r.kind == 1 && r.irq)) || (r.addrB != 0 && r.kind != 3) || (r.addrA != 0 && r.kind == 0)

/-- Row 3 of R27. -/
def SqRecord.badAddr (r : SqRecord) : Bool :=
  r.addrA / 2 ^ 57 != 0 || r.addrB / 2 ^ 57 != 0 || (r.addrA == 0 && r.kind != 0) || (r.addrB == 0 && r.kind == 3)

/-- An MSI-X vector from 1 to 255 granted to a domain (R27, R30). -/
def vectorGranted (s : State) (asid v : Nat) : Bool :=
  decide (1 ≤ v) && decide (v ≤ 255) && match domOf s asid with | some d => d.vectors.contains v | none => false

/-- Row 9 of R27. -/
def counterReadable (s : State) (asid va : Nat) : Bool :=
  va % 16 == 0 &&
  match xlatHub s asid va .load false with
  | .ok _ l => l.cls != .bound
  | _ => false

/-- The reason a record fails, the lowest of R27; 0 when it passes. -/
def recordError (s : State) (asid : Nat) (q : Queue) (r : SqRecord) : Nat :=
  let item := r.kind == 2 || r.kind == 3
  if 5 < r.kind then 1
  else if r.reserved then 2
  else if r.badAddr then 3
  else if item != q.openJob.isSome then 4
  else if r.kind = 1 && (r.count == 0 || decide (1024 < r.count)) then 5
  else if r.kind = 1 && r.irq && !vectorGranted s asid r.vector then 6
  else if (r.kind = 4 || r.kind = 5) && !counterReadable s asid r.addrA then 9
  else 0

/-- The record's bytes at SQ_HEAD. -/
def recordBytes (s : State) (q : Queue) : Option (List Byte) := hostRead s (q.base.toNat + 64 * (q.head % q.size)) 64

/-- A live domain. -/
def liveDom (s : State) (asid : Nat) : Bool := match domOf s asid with | some d => d.state == .live | none => false

/-- The fetch of the next record of a domain's queue by the event for records of one kind: a record that fails a check
stops the queue whatever its kind, and a sound one of another kind is left to its own event. A FETCH stop has read no record,
and the spec does not say what ERR_TAG then holds: the model writes 0: DESIGN CHOICE (log entry 80). -/
def withRecord (s : State) (f : RecordFetch) (kind : Nat) (go : State → SqRecord → State) : State :=
  let q := queueAt s f.asid
  if !running s || 1024 ≤ f.asid || !liveDom s f.asid || !q.fetches then s
  else match (if f.readOk then recordBytes s q else none) with
    | none => stopQueue s f.asid 7 0
    | some b =>
      let r := SqRecord.ofBytes b
      let e := recordError s f.asid q r
      if e ≠ 0 then stopQueue s f.asid e r.tag
      else if r.kind ≠ kind then s
      else go (consume s f.asid) r

/-- SQ_NOP_RECORD. -/
def execSqNopRecord (q : RecordFetch) (s : State) : Host.Outcome State Fault Refusal :=
  event (withRecord s q 0 (fun s _ => s))

/-- A job opens (R28); one whose counter is not usable is told to the supervisor (R52). -/
def openJob (s : State) (asid : Nat) (r : SqRecord) : State :=
  let usable := counterUsable s asid r.addrA
  let (id, s1) := freshId s
  let j : HostJob :=
    { asid := asid, counter := r.addrA, usable := usable, left := r.count
      vector := if r.irq then some r.vector else none }
  let s2 := modQueue (modHub s1 (fun h => { h with jobs := tabSet id j h.jobs })) asid (fun q => { q with
    openJob := some (id, r.count) })
  if usable then counterWrite s2 asid r.addrA r.count 0 else notifyLaunch s2 asid 2 r.addrA

/-- SQ_JOB_RECORD. -/
def execSqJobRecord (q : RecordFetch) (s : State) : Host.Outcome State Fault Refusal :=
  event (withRecord s q 1 (fun s r => openJob s q.asid r))

/-- An item of the open job: the job, and the state that awaits one item fewer. -/
def withItem (s : State) (asid : Nat) (go : State → Nat → HostJob → State) : State :=
  match (queueAt s asid).openJob with
  | none => s
  | some (id, n) =>
    let s1 := modQueue s asid (fun q => { q with openJob := if n ≤ 1 then none else some (id, n - 1) })
    match tabFind id s1.hub.jobs with
    | none => s1
    | some j => go s1 id j

/-- SQ_LAUNCH_RECORD: the launch is accepted under the job; under a job whose counter is not usable it takes its serial
and never starts (R52, R57). -/
def execSqLaunchRecord (q : RecordFetch) (s : State) : Host.Outcome State Fault Refusal :=
  event (withRecord s q 2 (fun s r => withItem s q.asid (fun s1 id j =>
    if j.usable then (acceptLaunch s1 q.asid r.addrA (.job id) true false).2
    else jobItemDone (modDom s1 q.asid (fun d => { d with serial := (d.serial + 1) % 2 ^ 22 })) id true false)))

/-- SQ_GRAPH_RECORD: a walker is handed to the front end, which arms it (GRAPH_ARM). -/
def execSqGraphRecord (q : RecordFetch) (s : State) : Host.Outcome State Fault Refusal :=
  event (withRecord s q 3 (fun s r => withItem s q.asid (fun s1 id j =>
    if j.usable then acceptGraph s1
      { asid := q.asid, first := r.addrA, block := r.addrB, snap := r.snapshot, parent := .job id, external := true
        cancelled := j.dropped }
    else jobItemDone s1 id true false)))

/-- SQ_WAIT_RECORD: fetching stops until the counter has a status other than 0. -/
def execSqWaitRecord (q : RecordFetch) (s : State) : Host.Outcome State Fault Refusal :=
  event (withRecord s q 4 (fun s r =>
    if counterStatus s q.asid r.addrA ≠ 0 then s else modQueue s q.asid (fun x => { x with waiting := some r.addrA })))

/-- SQ_WAIT_DONE. -/
def execSqWaitDone (queue : Nat) (s : State) : Host.Outcome State Fault Refusal :=
  match (queueAt s queue).waiting with
  | none => event s
  | some va =>
    if counterStatus s queue va = 0 then event s else event (modQueue s queue (fun q => { q with waiting := none }))

/-- SQ_CANCEL_RECORD. -/
def execSqCancelRecord (q : RecordFetch) (s : State) : Host.Outcome State Fault Refusal :=
  event (withRecord s q 5 (fun s r => (cancelAt s q.asid r.addrA).1))

/-! ### MSI-X (R31, R32) -/

/-- Change a vector. -/
def modVec (s : State) (n : Nat) (f : MsixVec → MsixVec) : State :=
  modHub s (fun h => { h with vecs := tabPut {} n (f (tabGet {} n h.vecs)) h.vecs })

/-- MSIX_UNMASK: the vector's mask bit is written; a vector unmasked with its pending bit set sends one message. While
READY is 0 a write to function 0's table, vectors 0 to 255, is dropped (R16). -/
def execMsixUnmask (vector : Nat) (mask : Bool) (s : State) : Host.Outcome State Fault Refusal :=
  if vector < 256 ∧ s.hub.pkg.ready = false then event s
  else event (modVec s vector (fun v =>
    if mask then { v with masked := true }
    else if v.pendingBit then msixDue (sysOutstanding s) { v with masked := false, pendingBit := false }
    else { v with masked := false }))

/-- MSIX_TIMER_EXPIRY: with events pending, a message is due. -/
def execMsixTimerExpiry (vector : Nat) (s : State) : Host.Outcome State Fault Refusal :=
  event (modVec s vector (fun v =>
    if v.running && decide (0 < v.pend) then msixDue (sysOutstanding s) { v with running := false } else v))

/-- MSIX_MESSAGE_ISSUED: the message is on the link, after every SYS store it waits for; the next one, when due, is being
sent. -/
def execMsixMessageIssued (vector : Nat) (s : State) : Host.Outcome State Fault Refusal :=
  event (modVec s vector (fun v =>
    if !v.sending || v.after.any (fun i => (tabFind i s.hub.accesses).isSome) then v
    else
      let v1 := { v with sending := false, sent := v.sent + 1, after := [], dueNext := false }
      if v.dueNext && decide (0 < v.pend) then msixDue (sysOutstanding s) v1 else v1))

end Sys2Proof.Machine
end

