-- ==== Sys2Proof/Machine/Graph.lean ====
section
/-!
DEFINITION. Graph walkers (R68 to R71, R360): arming, the nodes, and what faults a graph. One event carries out one node;
a node that faults does so whatever kind of node event comes.
-/

namespace Sys2Proof.Machine

/-! ### Arming (R52, R68, R70) -/

/-- A parameter block's header (R68). -/
structure GraphHead where
  len : Nat
  snapAddr : Nat
  deriving DecidableEq, Repr

/-- The header at a block's address, when it reads and breaks no rule of R68. A LEN that R68 does not allow faults the graph
as a reserved byte does: DESIGN CHOICE (log entry 15). -/
def readHead (s : State) (w : Walker) : Option GraphHead :=
  match cleanRead s w.asid w.block 64 with
  | none => none
  | some b =>
    let len := recField b 16 4
    if w.block % 64 ≠ 0 || len % 64 != 0 || decide (65536 < len) || recField b 20 4 != 0 || recField b 32 32 != 0 then none
    else some { len := len, snapAddr := recField b 24 8 }

/-- Every byte of a range translates writable. -/
def writableRange (s : State) (asid va n : Nat) : Bool :=
  (chunksOf va n).all (fun c => match xlatHub s asid c.1 .store false with | .ok _ _ => true | _ => false)

/-- The copy of an arm under SNAPSHOT: LEN bytes of parameters to SNAPADDR; none where either does not translate, nor, DESIGN
CHOICE (log entry 15), where SNAPADDR is misaligned or the parameters read poisoned. -/
def armCopy (s : State) (w : Walker) (h : GraphHead) : Option State :=
  if !w.snap then some s
  else if h.snapAddr % 64 ≠ 0 then none
  else if h.len = 0 then some s
  else match cleanRead s w.asid (w.block + 64) h.len with
    | none => none
    | some b => if writableRange s w.asid h.snapAddr h.len then some (vwrite s w.asid h.snapAddr b) else none

/-- A graph whose counter is not usable: it never starts, and counts as a faulted item of its job (R52). -/
def graphUnusable (s : State) (id : Nat) (w : Walker) : State :=
  let s1 := notifyLaunch (modHub s (fun h => { h with walkers := tabDel id h.walkers })) w.asid 2 w.block
  match w.parent with
  | .job j => jobItemDone s1 j true false
  | _ => s1

/-- An arm past the counter's checks: the header, the copy, and the walker before its next node. -/
def armWalker (s : State) (id : Nat) (w : Walker) : State :=
  match readHead s w with
  | none => stopWalker s id true
  | some h =>
    match armCopy s w h with
    | none => stopWalker s id true
    | some s1 => modWalker s1 id (fun w => { w with
        state := .atNode, arms := w.arms + 1, len := h.len, snapAddr := h.snapAddr })

/-- The domain has been rewound and its replay does not run (R199, R201). -/
def rewoundStopped (s : State) (asid : Nat) : Bool :=
  match domOf s asid with | some d => d.logStopped && replaying s asid | none => true

/-- The walkers of a halted domain pause (R216), and those of one rewound until it replays (R199). -/
def walkerPaused (s : State) (asid : Nat) : Bool :=
  !running s || rewoundStopped s asid || match domOf s asid with | some d => d.halted | none => true

/-- GRAPH_ARM: the first arm writes the graph's counter; one cancelled before it stops at once. A job's graph arms after the
items before it have been dispatched (R28). -/
def execGraphArm (graphId : Nat) (s : State) : Host.Outcome State Fault Refusal :=
  match walkerAt s graphId with
  | none => event s
  | some w =>
    if w.state ≠ .arming || walkerPaused s w.asid || itemAhead s w.parent graphId && w.arms == 0 then event s
    else if w.arms ≠ 0 then event (armWalker s graphId w)
    else if !counterUsable s w.asid w.block then event (graphUnusable s graphId w)
    else
      let s1 := modWalker (counterWrite s w.asid w.block 1 0) graphId (fun w => { w with
        counter := w.block, usable := true, left := 1 })
      if w.cancelled then event (stopWalker s1 graphId false) else event (armWalker s1 graphId w)

/-! ### Nodes (R69) -/

/-- A node record (R69). -/
structure Node where
  kind : Nat
  pa : Bool
  pv : Bool
  target : Nat
  addr : Nat
  value : Nat
  cmp : Nat
  width : Nat
  vector : Nat
  clean : Bool
  deriving DecidableEq, Repr

/-- The node 64 bytes hold; `clean` when every reserved field and flag is zero. -/
def Node.ofBytes (b : List Byte) : Node :=
  let f := recField b 1 1
  { kind := recField b 0 1, pa := natBit f 0, pv := natBit f 1, target := recField b 4 4, addr := recField b 8 8
    value := recField b 16 8, cmp := recField b 24 1, width := recField b 25 1, vector := recField b 26 2
    clean := f / 4 == 0 && recField b 2 2 == 0 && recField b 28 4 == 0 && recField b 32 32 == 0
      && !(natBit f 1 && recField b 0 1 != 3) }

/-- The node at a walker's position, unless it faults the graph. -/
def readNode (s : State) (w : Walker) : Option Node :=
  match cleanRead s w.asid (w.first + 64 * w.pos) 64 with
  | none => none
  | some b =>
    let n := Node.ofBytes b
    if w.first % 64 == 0 && n.clean && decide (1 ≤ n.kind) && decide (n.kind ≤ 5)
        && (n.kind != 3 || (decide (n.cmp ≤ 3) && decide (n.width ≤ 1))) then some n
    else none

/-- Parameters after the header as the node finds them: the copy's length under SNAPSHOT, or LEN as it reads now (R71). -/
def paramLen (s : State) (w : Walker) : Option Nat := if w.snap then some w.len else (readHead s w).map (·.len)

/-- The address of an offset under PA or PV, for `n` bytes aligned to `al` (R69). -/
def paramAddr (s : State) (w : Walker) (o n al : Nat) : Option Nat :=
  match paramLen s w with
  | none => none
  | some len =>
    if o < 64 || decide (64 + len < o + n) || o % al != 0 then none
    else some (if w.snap then w.snapAddr + (o - 64) else w.block + o)

/-- The address a node's ADDR names, for an operand of `n` bytes aligned to `al`. -/
def nodeAddr (s : State) (w : Walker) (nd : Node) (n al : Nat) : Option Nat :=
  if nd.pa then paramAddr s w nd.addr n al
  else if nd.addr % al = 0 then some nd.addr else none

/-- What a node comes to: the walker has gone on, it faults the graph, or nothing happens yet. -/
inductive NodeDone where
  | go (s : State)
  | fault
  | later (s : State)

/-- Carry out a node of one kind; a sound node of another kind is left to its own event. -/
def withNode (s : State) (id kind : Nat) (act : Walker → Node → NodeDone) : State :=
  match walkerAt s id with
  | none => s
  | some w =>
    if w.state ≠ .atNode || walkerPaused s w.asid then s
    else match readNode s w with
      | none => stopWalker s id true
      | some nd =>
        if nd.kind ≠ kind then s
        else match act w nd with
          | .go s1 => s1
          | .later s1 => s1
          | .fault => stopWalker s id true

/-- The walker's position. -/
def walkTo (s : State) (id pos : Nat) : State := modWalker s id (fun w => { w with pos := pos })

/-! ### LAUNCH -/

/-- The graph counts one launch more, or one fewer. -/
def graphCount (s : State) (id : Nat) (up : Bool) : State :=
  match walkerAt s id with
  | none => s
  | some w =>
    counterAdd (modWalker s id (fun w => { w with left := if up then w.left + 1 else w.left - 1 })) w.asid w.counter
      (if up then 1 else -1)

/-- The launch a LAUNCH node names, accepted and started (R52, R56, R70). One with no usable counter that fails adds
nothing to REMAINING and marks the graph. -/
def nodeLaunch (s : State) (id : Nat) (w : Walker) (va : Nat) : NodeDone :=
  let a := acceptLaunch (graphCount (walkTo s id (w.pos + 1)) id true) w.asid va (.graph id) w.external false
  match startLaunch a.2 a.1 with
  | .started s1 => .go s1
  | .failed s1 true => .go (parentDone s1 (.graph id) true false)
  | .failed s1 false => .go (modWalker (graphCount s1 id false) id (fun w => { w with faulted := true }))
  | .waits f => .later (f s)

/-- GRAPH_NODE_LAUNCH: a record that does not translate, or an ADDR not a multiple of 64, faults the graph; a launch whose record
reads poisoned fails with READ (R56). -/
def execGraphNodeLaunch (graphId : Nat) (s : State) : Host.Outcome State Fault Refusal :=
  event (withNode s graphId 1 (fun w nd =>
    match (nodeAddr s w nd 128 64).filter (fun va => (vread s w.asid va 128).isSome) with
    | none => .fault
    | some va => nodeLaunch s graphId w va))

/-! ### WAIT (R360) -/

/-- GRAPH_NODE_WAIT: the walker waits at the node's counter. One that reads poisoned faults the graph: DESIGN CHOICE (log
entry 15). -/
def execGraphNodeWait (graphId : Nat) (s : State) : Host.Outcome State Fault Refusal :=
  event (withNode s graphId 2 (fun w nd =>
    match nodeAddr s w nd 16 16 with
    | none => .fault
    | some va =>
      if (cleanRead s w.asid va 16).isNone then .fault
      else .go (modWalker s graphId (fun w => { w with state := .waiting va }))))

/-- GRAPH_WAIT_DONE: the read finds STATUS other than 0 and ends the node; a cancelled walker stops after it. -/
def execGraphWaitDone (graphId : Nat) (s : State) : Host.Outcome State Fault Refusal :=
  match walkerAt s graphId with
  | none => event s
  | some w =>
    match w.state with
    | .waiting va =>
      -- The WAIT node is the current one: a halted domain's walker pauses after it (R216).
      if !running s || rewoundStopped s w.asid then event s
      else match cleanRead s w.asid va 16 with
        | none => event (stopWalker s graphId true)
        | some b =>
          if recField b 4 4 = 0 then event s
          else if w.cancelled then event (stopWalker s graphId false)
          else event (modWalker s graphId (fun w => { w with state := .atNode, pos := w.pos + 1 }))
    | _ => event s

/-! ### COND, HOST, END -/

/-- A COND node's test, unsigned (R69). -/
def graphCondHolds (cmp x v : Nat) : Bool :=
  match cmp with
  | 0 => x == v
  | 1 => x != v
  | 2 => decide (x < v)
  | _ => decide (v ≤ x)

/-- A COND node's comparand. -/
def condValue (s : State) (w : Walker) (nd : Node) : Option Nat :=
  if !nd.pv then some nd.value
  else match paramAddr s w nd.value 8 8 with
    | none => none
    | some va => (cleanRead s w.asid va 8).map leNat

/-- GRAPH_NODE_COND: a jump to its own index or below arms the graph again. A word or comparand that reads poisoned faults the
graph: DESIGN CHOICE (log entry 15). -/
def execGraphNodeCond (graphId : Nat) (s : State) : Host.Outcome State Fault Refusal :=
  event (withNode s graphId 3 (fun w nd =>
    let n := if nd.width = 1 then 8 else 4
    match nodeAddr s w nd n n, condValue s w nd with
    | some va, some v =>
      match cleanRead s w.asid va n with
      | none => .fault
      | some b =>
        if !graphCondHolds nd.cmp (leNat b) (v % 2 ^ (8 * n)) then .go (walkTo s graphId (w.pos + 1))
        else if w.pos < nd.target then .go (walkTo s graphId nd.target)
        else .go (modWalker s graphId (fun w => { w with state := .arming, pos := nd.target }))
    | _, _ => .fault))

/-- GRAPH_NODE_HOST: one event on the node's vector. -/
def execGraphNodeHost (graphId : Nat) (s : State) : Host.Outcome State Fault Refusal :=
  event (withNode s graphId 4 (fun w nd =>
    if !vectorGranted s w.asid nd.vector then .fault
    else .go (countEvent (walkTo s graphId (w.pos + 1)) nd.vector)))

/-- GRAPH_NODE_END: the walker removes its 1. -/
def execGraphNodeEnd (graphId : Nat) (s : State) : Host.Outcome State Fault Refusal :=
  event (withNode s graphId 5 (fun _ _ => .go (stopWalker s graphId false)))

end Sys2Proof.Machine
end

