-- ==== Sys2Proof/Machine/Domains.lean ====
section
/-!
DEFINITION. The end of a domain (R29, R41, R150, R163, R167, R201): what a revocation or a kill does at once, what is
left of the domain's work, the wipe of its pages, and its destruction.
-/

namespace Sys2Proof.Machine

/-! ### Adits and endpoints -/

/-- The next revision: it wraps from 0xFFFF to 1 (R150). -/
def nextRev (r : Nat) : Nat := r % 0xFFFF + 1

/-- ADIT_REVOKE of an index (R150, R167). -/
def revokeAdit (s : State) (i : Nat) : State :=
  modHub s (fun h => { h with
    adits := tabMod i (fun a => { a with valid := false, rev := nextRev a.rev }) h.adits
    doms := tabMap (fun _ d => { d with grants := d.grants.filter (fun g => g.index != i) }) h.doms })

/-- Indices of the valid adits a domain publishes. -/
def aditsOf (s : State) (asid : Nat) : List Nat :=
  (s.hub.adits.filter (fun e => e.2.valid && e.2.publisher == asid)).map (·.1)

/-- Every endpoint whose receiver is the domain gets its next revision (R41). -/
def raiseEndpoints (s : State) (asid : Nat) : State :=
  modHub s (fun h => { h with endpoints := tabMap (fun _ e =>
    if e.valid && e.asid == asid && e.ualink.isNone then { e with rev := nextRev e.rev } else e) h.endpoints })

/-- The USER messages queued for a domain and not yet received are discarded (R41, R42). -/
def dropUser (s : State) (asid : Nat) : State :=
  dropMsgs s (fun m => decide (m.kind = .user) && m.asid == asid)

/-! ### The domain's work (R41, R67) -/

/-- The items of the open job that will never come are cancelled (R29, R41). -/
def dropItems (s : State) (asid : Nat) : State :=
  match (queueAt s asid).openJob with
  | none => s
  | some (id, n) => (upTo n).foldl (fun a _ => jobItemDone a id false true) s

/-- Cancel every job, graph and launch of a domain; its saved tasks are kept to be unwound. -/
def cancelDomain (s : State) (asid : Nat) : State :=
  let s1 := ((s.hub.jobs.filter (fun e => e.2.asid == asid)).map (·.1)).foldl (fun a i => cancelJob a true i) s
  let s2 := ((s1.hub.walkers.filter (fun e => e.2.asid == asid)).map (·.1)).foldl (fun a i => cancelWalker a true i) s1
  ((s2.hub.launches.filter (fun e => e.2.asid == asid)).map (·.1)).foldl (fun a i => cancelLaunch a true i) s2

/-! ### Replays that end (R201) -/

/-- The number of the last bench in a log (R193). -/
def lastBench (s : State) (asid : Nat) : Nat :=
  let c := readLog s asid
  (upTo (logUsed c)).foldl (fun n i =>
    let e := readEntry s asid c ((c.headSeq + i) % seqMod)
    if e.kind = kBench then recField e.body 0 4 else n) c.curBench

/-- Forget a replay: STATE becomes LIVE, CURBENCH is the last bench opened (R193), and the stop list is freed. -/
def leaveReplay (s : State) (asid : Nat) : State :=
  let c := readLog s asid
  let s1 := savePoolFree s asid c.stopList
  let s2 := writeLog s1 asid { c with state := 0, stopList := 0, histEnd := 0, curBench := lastBench s asid }
  modDom s2 asid (fun d => { d with replay := none, replayFrom := 0, replayDone := [] })

/-- Every entry goes, and with them every bench; a new one opens, with no snapshot (R201, log entry 30). -/
def restartLog (s : State) (asid : Nat) : State :=
  let c := readLog s asid
  let s1 := freeSnapshots s asid c (logUsed c) 0
  let n := c.curBench + 1
  let s2 := writeLog s1 asid { c with headSeq := c.nextSeq, headSlot := c.nextSlot, oldBench := n }
  openBench s2 asid 0 n 0 0 0 0

/-- A revocation ends a domain's replay where it stands. -/
def endReplay (s : State) (asid : Nat) : State :=
  let s1 := match (domOf s asid).bind (·.replay) with
    | some g => modHub s (fun h => { h with
        sessions := tabMod g.session (fun x => { x with status := 5, busy := none }) h.sessions })
    | none => s
  modDom (restartLog (leaveReplay s1 asid) asid) asid (fun d => { d with logStopped := false })

/-- The domains in replay one of whose tasks a revocation of `x` must unwind. -/
def replaysHit (s : State) (x : Nat) : List Nat :=
  (s.hub.doms.map (·.1)).filter (fun a => (domOf s a).isSome && replaying s a
    && (allTasks s).any (fun t => t.home == a && (stackDoms s t).contains x))

/-! ### Revocation and kill (R41, R163) -/

/-- A saved task marked to be unwound when its stack holds X. -/
def markSaved (s : State) (x why : Nat) (v : Saved) : Saved :=
  if (depthOf s v.task x).isSome then { v with task := markUnwind v.task x why } else v

/-- Every task whose stack holds X is unwound: a resident one at once, a saved one at its resume. -/
def unwindAll (s : State) (x why : Nat) : State :=
  let s1 := modHub s (fun h => { h with saved := tabMap (fun _ v => markSaved s x why v) h.saved })
  (s1.tasks.map (·.1)).foldl (fun a k => startUnwind a k x why) s1

/-- DOM_REVOKE (why 1) or DOM_KILL (why 2) of a domain. A kill of a domain already revoked makes its cleanups in
progress end as KILLED, and what is still marked to be unwound is unwound as killed. -/
def endDomain (s : State) (x why : Nat) : State :=
  let again := !liveDom s x
  let s1 := modDom s x (fun d => { d with
    state := if why = 2 then .killed else .revoked, wipePending := d.wipePending || decide (why = 2), benchQ := [] })
  if again then unwindAll s1 x why
  else
    let hit := replaysHit s1 x
    let s2 := raiseEndpoints s1 x
    let s3 := (aditsOf s2 x).foldl revokeAdit s2
    let s4 := dropUser (endQueue (dropItems s3 x) x) x
    let s5 := unwindAll (cancelDomain s4 x) x why
    modDom (hit.foldl endReplay s5) x (fun d => { d with logStopped := false })

/-! ### The wipe (R41) -/

/-- A task belongs to the domain, or runs on a stack that holds it. -/
def taskHolds (s : State) (x : Nat) (t : Task) : Bool := t.home == x || (stackDoms s t).contains x

/-- Work of the domain is left: a task, a launch, graph or job, or an engine job in its memory. -/
def workLeft (s : State) (x : Nat) : Bool :=
  (allTasks s).any (taskHolds s x) || s.hub.launches.any (fun e => e.2.asid == x)
    || s.hub.walkers.any (fun e => e.2.asid == x) || s.hub.jobs.any (fun e => e.2.asid == x)
    || s.hub.clusters.any (fun c => c.2.jobs.any (fun j => j.asid == x))

/-- The pages tables map, from one table of a level down. -/
def tableLeaves (m : Memory) (pools : List (Nat × Nat × Nat)) : List (Nat × Nat × Nat × Bool) → Nat → List Leaf
  | [], _ => []
  | (lvl, lo, n, leafOk) :: rest, table =>
    (upTo (2 ^ n)).foldr (fun i acc =>
      let e := table + 16 * i
      let w0 := physNat m e 8
      let w1 := physNat m (e + 8) 8
      if !natBit w0 0 || (lvl == 5 && decide (apertureBase ≤ i * 2 ^ lo)) then acc
      else if natBit w0 1 then
        if !leafOk || leafMalformed pools (2 ^ lo) w0 w1 then acc else leafOf (2 ^ lo) w0 w1 :: acc
      else if lvl == 1 || natBits w0 52 12 != 0 || natBits w0 2 7 != 0 || w1 != 0 then acc
      else tableLeaves m pools rest (natBits w0 9 43 * 512) ++ acc) []

/-- The pages of HBM a domain's tables map. -/
def domPages (s : State) (x : Nat) : List Leaf :=
  match domOf s x with
  | none => []
  | some d => (tableLeaves (plainView s) s.mem.pools walkLevels d.place.root).filter (fun l => !l.sys)

/-- A physical address lies in one of some pages. -/
def inPages (ls : List Leaf) (pa : Nat) : Bool := ls.any (fun l => decide (l.base ≤ pa) && decide (pa < l.base + l.size))

/-- Pages become zero, clean of poison and of umbra metadata (R41, R205). -/
def wipePages (m : Memory) (ls : List Leaf) : Memory :=
  { m with
    bytes := ls.foldl (fun b l => match metaAddr m l.base with
      | some a => tabClear a (a + l.size / 16) b
      | none => b) (m.bytes.filter (fun e => !inPages ls e.1))
    poison := m.poison.filter (fun e => !inPages ls (16 * e.1))
    umbra := m.umbra.filter (fun e => !inPages ls (128 * e.1))
    keys := m.keys.filter (fun e => !inPages ls (128 * e.1)) }

/-- Wipe every page of a domain. -/
def wipeDomain (s : State) (x : Nat) : State :=
  modDom { s with mem := wipePages s.mem (domPages s x) } x (fun d => { d with wipePending := false })

/-- Killed domains whose work has ended are wiped (R41): done after every step. -/
def killWipes (s : State) : State :=
  ((s.hub.doms.filter (fun e => e.2.wipePending)).map (·.1)).foldl (fun a x => if workLeft a x then a else wipeDomain a x) s

/-! ### Destruction (R29, R41) -/

/-- A shared cluster that no domain holds any more goes to the lowest ASID of those it waits for (R43). -/
def handOn (s : State) (cs : List Nat) : State :=
  cs.foldl (fun a c =>
    let held := a.hub.doms.any (fun e => e.2.allot.contains c && !e.2.evicted.contains c)
    match (if held then none else (a.hub.doms.filter (fun e => e.2.allot.contains c)).head?) with
    | some e => modDom a e.1 (fun d => { d with evicted := d.evicted.filter (· != c) })
    | none => a) s

/-- A session without what names a domain: its breakpoints and watchpoints, and a slice filter or its ring. -/
def Session.without (v : Session) (x : Nat) : Session :=
  let slog := natBits v.slogFilter.toNat 43 10 == x || v.slogAsid == x
  { v with
    bps := v.bps.filter (fun e => e.2.asid != x), wps := v.wps.filter (fun e => e.2.asid != x)
    slogFilter := if slog then 0 else v.slogFilter, slogRing := if slog then 0 else v.slogRing
    slogAsid := if slog then 0 else v.slogAsid, slogSkip := if slog then 0 else v.slogSkip }

/-- What the hub's and the cores' tables hold of a domain goes: its sessions' units and filters, its snapshots, the keys an MXE
holds, its translations and code lines, and the packets of its tail. -/
def forgetDomain (s : State) (x : Nat) : State :=
  let mine := fun (k : Nat) => k / 2 ^ 57 == x
  let s1 := dropTranslations (modHub s (fun h => { h with
    doms := tabDel x h.doms
    sessions := tabMap (fun _ v => v.without x) h.sessions
    snaps := h.snaps.filter (fun e => !mine e.1), snapLaunches := h.snapLaunches.filter (fun e => !mine e.1)
    snapWalkers := h.snapWalkers.filter (fun e => !mine e.1)
    clusters := tabMap (fun _ q => { q with keys := q.keys.filter (fun e => e.1 / 16 != x) }) h.clusters })) (fun a _ _ => a == x)
  { s1 with cores := { s1.cores with
    icache := (s1.cores.icache.map (fun e => (e.1, e.2.filter (fun l => l.asid != x)))).filter (fun e => !e.2.isEmpty)
    tailBuf := (s1.cores.tailBuf.map (fun e => (e.1, e.2.filter (fun p => p.1 != x)))).filter (fun e => !e.2.isEmpty)
    tailLost := s1.cores.tailLost.filter (fun e => e.1 % 1024 != x) } }

/-- DOM_DESTROY: what remains is wiped, its pages, and the scratchpads, L1 lines and MXE keys of the clusters that it holds; the
keys go, and the ASID is free. No core and no session holds anything of it any more. -/
def destroyDomain (s : State) (x : Nat) : State :=
  match domOf s x with
  | none => s
  | some d =>
    let held := d.allot.filter (fun c => !d.evicted.contains c)
    handOn (held.foldl clearCluster (forgetDomain (wipeDomain s x) x)) d.allot

end Sys2Proof.Machine
end

