-- ==== Sys2Proof/Machine/Engines.lean ====
section
/-!
DEFINITION. The engine instructions (R323, R324, R331, R332) and the events of the cluster job queue and its engines
(R84 to R86, R329, R331).
-/

namespace Sys2Proof.Machine

/-! ### The queue -/

/-- A cluster's queue. -/
def clusterAt (s : State) (c : Nat) : Cluster := tabGet {} c s.hub.clusters
/-- Change a cluster's queue. -/
def modCluster (s : State) (c : Nat) (f : Cluster → Cluster) : State :=
  modHub s (fun h => { h with clusters := tabPut {} c (f (tabGet {} c h.clusters)) h.clusters })
/-- Change one job of a cluster. -/
def modJob (s : State) (c id : Nat) (f : EngineJob → EngineJob) : State :=
  modCluster s c (fun q => { q with jobs := q.jobs.map (fun j => if j.id = id then f j else j) })
/-- A job of a cluster's queue. -/
def jobAt (s : State) (c id : Nat) : Option EngineJob := (clusterAt s c).jobs.find? (fun j => j.id == id)

/-- The key slot a sealed MXE job keeps (R47, R324). -/
def jobKey (s : State) (t : Task) (copy : Bool) (frame : List Word) : Option KeySlot :=
  let w := fun (i : Nat) => ((frame[i]?).getD 0).toNat
  if copy || !natBit (w 4) 16 then none
  else match domOf s t.asid with
    | some d => tabFind (natBits (w 7) 52 4) d.keys
    | none => none

/-- The job a submission becomes (R324). -/
def newJob (s : State) (t : Task) (f : FmtJ) (copy : Bool) (id : Nat) : EngineJob :=
  let frame := (upTo 8).map (fun i => getS (srcRegs s t) (f.f.toNat + i))
  { id := id, copy := copy, core := keyCore s.cur, gtid := t.id.gtid, depth := t.depth, asid := t.asid, frame := frame
    fn := f.fn.toNat, aq := f.aq, rl := f.rl, aqs := f.aqs.toNat, rls := f.rls.toNat, st := f.st, imm := f.imm.toNat
    pc := ownPc s t, icount := ownIcount s t, sbase := t.sbase, scratch := t.scratch, key := jobKey s t copy frame }

/-- `mxj` and `cpj` (R84, R324): held until the queue has chosen this submission, then a job. Every access before it happens
before the job's reads, so that it waits for those on their way to a SYS page (R122, log entry 70). -/
def submitJob (copy : Bool) (f : FmtJ) (s : State) (t : Task) : Eff :=
  let r := srcRegs s t
  if !t.retry.isEmpty || (accessesOf s s.cur).any (fun a => !a.2.parts.isEmpty) then .hold
  else if anyPoison ((upTo 8).map (fun i => poiS r (f.f.toNat + i))) then trapOf s .poisonConsumed
  else if !t.jobGrant then .holdIn (modCur s (fun u => { u with wantsJob := true }))
  else
    let c := coreCluster (keyCore s.cur)
    let id := (clusterAt s c).nextId
    let j := newJob s t f copy id
    let core := keyCore s.cur % 8
    let s1 := modCluster s c (fun q => { q with
      jobs := q.jobs ++ [j], nextId := id % 65535 + 1, lastCore := core
      lastQuad := tabPut 3 core (s.cur % 16 / 4) q.lastQuad, acceptedAt := tabPut 0 core (s.clock + 1) q.acceptedAt })
    let s2 := modCur s1 (fun u => { u with
      wantsJob := false, jobGrant := false
      jobTags := if t.depth = 0 then u.jobTags else u.jobTags ++ [(j.tag, t.depth)] })
    .ok (writeS s2 f.d.toNat (BitVec.ofNat 64 id) false latJob)

/-- `mxj`. -/
def execMxj (f : FmtJ) (s : State) : Host.Outcome State Fault Refusal := runIsa (.mxj f) s (submitJob false f s)
/-- `cpj`. -/
def execCpj (f : FmtJ) (s : State) : Host.Outcome State Fault Refusal := runIsa (.cpj f) s (submitJob true f s)

/-- The task's own jobs that `jpoll`, `jwait` and `jcan` name (R331). -/
def ownJobs (s : State) (t : Task) (all : Bool) (id : Nat) : List EngineJob :=
  (clusterAt s (coreCluster (keyCore s.cur))).jobs.filter (fun j =>
    j.gtid == t.id.gtid && j.depth == t.depth && (all || j.id == id))

/-- The identifier a job instruction reads is poisoned, and with it what it writes (R107). -/
def jobPoison (s : State) (t : Task) (f : FmtJ) : Bool := f.fn == 0 && poiS (srcRegs s t) f.d.toNat

/-- Jobs counted by fn. -/
def jobCount (s : State) (t : Task) (f : FmtJ) : Nat :=
  (ownJobs s t (f.fn == 1) ((getS (srcRegs s t) f.d.toNat).toNat % 2 ^ 16)).length

/-- `jpoll` (R331). -/
def execJpoll (f : FmtJ) (s : State) : Host.Outcome State Fault Refusal :=
  runIsa (.jpoll f) s (fun t => .ok (writeS s f.d.toNat (BitVec.ofNat 64 (jobCount s t f)) (jobPoison s t f) latJob))

/-- `jwait` (R331). -/
def execJwait (f : FmtJ) (s : State) : Host.Outcome State Fault Refusal :=
  runIsa (.jwait f) s (fun t =>
    if jobCount s t f = 0 then .ok (writeS s f.d.toNat 0 (jobPoison s t f) latSalu) else .block s .blkJob)

/-- A job can still be stopped (R332): it has not passed its transfer, and has not failed. -/
def stoppable (j : EngineJob) : Bool := j.code == 0 && !j.cancel && !j.noRecord && !j.passed

/-- What `jcan` makes of a job: one that has not started or waits at its acquire ends at once; one in its transfer stops
at a granule boundary. -/
def stopJob (j : EngineJob) : EngineJob :=
  match j.phase with
  | .running => { j with cancel := true }
  | _ => { j with phase := .running, code := 9 }

/-- `jcan` (R332). -/
def execJcan (f : FmtJ) (s : State) : Host.Outcome State Fault Refusal :=
  runIsa (.jcan f) s (fun t =>
    match (ownJobs s t false ((getS (srcRegs s t) f.d.toNat).toNat % 2 ^ 16)).find? stoppable with
    | none => .ok (writeS s f.d.toNat 0 (jobPoison s t f) latJob)
    | some j =>
      .ok (writeS (modJob s (coreCluster (keyCore s.cur)) j.id stopJob) f.d.toNat 1 (jobPoison s t f) latJob))

/-- A job of a quarantined cluster: it ends with HWERR, and performs no release (R20). One that has performed its release, and waits
for log room for its record alone, ends with its own code, DESIGN CHOICE (log entry 22). -/
def failJob (j : EngineJob) : EngineJob :=
  if j.released then j
  else match j.phase with
    | .running => if j.code = 0 && !j.passed then { j with cancel := true, hwerr := true } else { j with code := 10, detail := 0 }
    | _ => { j with phase := .running, code := 10 }

/-! ### Acceptance (R84) -/

/-- Jobs of a core accepted and not complete. -/
def coreJobs (q : Cluster) (core : Nat) : Nat := (q.jobs.filter (fun j => j.core == core)).length

/-- The submissions of a core that compete, of quadrants that have not issued in this cycle (R63). -/
def competing (s : State) (core : Nat) : List Nat :=
  (s.tasks.filter (fun e => keyCore e.1 == core && e.2.wantsJob && e.2.st = .ready
    && tabGet 0 (keyQuad e.1) s.cores.issuedAt != s.clock + 1)).map (·.1)

/-- The first of `n` places, in rotating order after `last`, that `ok` holds of. -/
def rotate (n last : Nat) (ok : Nat → Bool) : Option Nat := ((upTo n).map (fun i => (last + 1 + i) % n)).find? ok

/-- JOB_ACCEPT: the next submission of the cluster's competing ones is chosen, and its slot issues. Of several slots of
one quadrant that wait to submit, the lowest is chosen: DESIGN CHOICE (log entry 66), the spec orders cores and quadrants
only. The rotations move on when the job is accepted (`submitJob`). -/
def execJobAccept (cluster : Nat) (s : State) : Host.Outcome State Fault Refusal :=
  let q := clusterAt s cluster
  let core := fun (i : Nat) => cluster * 8 + i
  let ok := fun (i : Nat) => !(competing s (core i)).isEmpty && decide (coreJobs q (core i) < 16)
    && tabGet 0 i q.acceptedAt != s.clock + 1
  if 64 ≤ q.jobs.length then event s
  else match rotate 8 q.lastCore ok with
    | none => event s
    | some i =>
      let slots := competing s (core i)
      match rotate 4 (tabGet 3 i q.lastQuad) (fun k => slots.any (fun e => e % 16 / 4 == k)) with
      | none => event s
      | some k =>
        match slots.find? (fun e => e % 16 / 4 == k) with
        | none => event s
        | some key =>
          event { modTask s key (fun t => { t with jobGrant := true }) with force := some key }

/-! ### Start (R86, R329) -/

/-- Jobs in flight in an engine. -/
def inFlight (q : Cluster) (copy : Bool) : List EngineJob :=
  q.jobs.filter (fun j => j.copy == copy && j.phase != .queued && j.code != 9 && j.code != 10)

/-- The engine takes another job. -/
def engineOpen (q : Cluster) (copy : Bool) : Bool :=
  if copy then decide ((inFlight q true).length < 8)
  else decide ((inFlight q false).length < 2) && !(inFlight q false).any (fun j => j.phase == .acquiring)

/-- Where the MXE of a cluster keeps a sealed job's key: ASID × 16 + slot. -/
def EngineJob.keyAt (j : EngineJob) : Nat := j.asid * 16 + natBits (j.word 7) 52 4

/-- The MXE of a job's cluster holds the key slot of a sealed job, from its start until it ends (R43, R47; log entry 19). -/
def holdKey (s : State) (j : EngineJob) : State :=
  match j.key with
  | some k => modCluster s j.cluster (fun q => { q with keys := tabSet j.keyAt k q.keys })
  | none => s

/-- A job leaves its cluster's queue, and the MXE its key, unless another job in flight uses it. -/
def leaveQueue (q : Cluster) (j : EngineJob) : Cluster :=
  let jobs := q.jobs.filter (fun x => x.id != j.id)
  let used := jobs.any (fun x => x.key.isSome && x.phase == .running && x.keyAt == j.keyAt)
  { q with jobs := jobs, keys := if j.key.isNone || used then q.keys else tabDel j.keyAt q.keys }

/-- FAULT and PERM of RangeCheck (R329, R330) over some ranges of a job: the record first, then the ranges; none where they
pass. A malformed table entry that decides it is noticed (R96). -/
def rangeFinding (s : State) (j : EngineJob) (rs : List EngRange) : Option (State × EngineJob) :=
  if j.rec_ ≠ 0 && !j.noRecord && !recOk s j then
    some (match engPlace s j j.rec_ 64 .store with
      | some (o, a, _) => (match engXlat s j o a .store false with | .malformed lvl => notifyMalformed s o a lvl | _ => s)
      | none => s, { j with code := 5, noRecord := true })
  else (firstFail (rs.flatMap (rangeFails s j))).map (fun x =>
    (match x.bad with | some (o, a, lvl) => notifyMalformed s o a lvl | none => s, { j with code := x.code, detail := x.addr }))

/-- RangeCheck (R329) for a job past its acquire: the record and the ranges, then umbra with ENGINE_PENDING. -/
def rangeCheck (s0 : State) (j : EngineJob) : State × EngineJob :=
  let s := engFill s0 j
  let run := { j with phase := .running }
  match rangeFinding s run (engRanges j) with
  | some r => r
  | none =>
    let r := engUmbra (holdKey s j) run
    match r.2.2 with
    | some va => (r.1, { r.2.1 with code := 7, detail := va })
    | none => (r.1, r.2.1)

/-- A job put back in its queue. -/
def putJob (s : State) (c : Nat) (j : EngineJob) : State := modJob s c j.id (fun _ => j)

/-- An acquire pass of a job, and its range check once granted. -/
def acquireStep (s : State) (c : Nat) (j : EngineJob) : State :=
  match engAcquire s j with
  | .granted s1 e =>
    let r := rangeCheck s1 { j with held := some e }
    putJob r.1 c r.2
  | .wait s1 => putJob s1 c { j with phase := .acquiring }
  | .fail s1 code detail => putJob s1 c { j with phase := .running, code := code, detail := detail }

/-- The first steps of EngineJob. -/
def startJob (s : State) (c : Nat) (j0 : EngineJob) : State :=
  let (order, s1) := freshId s
  let j := { j0 with started := order }
  let st := if j.copy then staticCopy j else staticMxe j
  if st.1 ≠ 0 then
    putJob s1 c { j with phase := .running, code := st.1, detail := st.2, noRecord := j.rec_ % 64 != 0 }
  else if j.rec_ % 64 ≠ 0 then putJob s1 c { j with phase := .running, code := 3, noRecord := true }
  else if j.aq then acquireStep s1 c j
  else
    let r := rangeCheck s1 j
    putJob r.1 c r.2

/-- ENGINE_JOB_START: the engine (0 MXE, 1 copy unit) takes the oldest waiting job of the next core. -/
def execEngineJobStart (cluster engine : Nat) (s : State) : Host.Outcome State Fault Refusal :=
  let q := clusterAt s cluster
  let copy := engine != 0
  let waiting := q.jobs.filter (fun j => j.copy == copy && j.phase == .queued)
  if !engineOpen q copy then event s
  else match rotate 8 ((q.lastStart[boolNat copy]?).getD 7) (fun i => waiting.any (fun j => j.core % 8 == i)) with
    | none => event s
    | some i =>
      match waiting.find? (fun j => j.core % 8 == i) with
      | none => event s
      | some j =>
        event (startJob (modCluster s cluster (fun q => { q with lastStart := q.lastStart.set (boolNat copy) i })) cluster j)

/-- ENGINE_ACQUIRE_GRANTED: a waiting job passes over its object again. -/
def execEngineAcquireGranted (cluster job : Nat) (s : State) : Host.Outcome State Fault Refusal :=
  match jobAt s cluster job with
  | some j => event (if j.phase = .acquiring then acquireStep s cluster j else s)
  | none => event s

/-! ### Completion (R329) -/

/-- The runs a cancelled or failing job has still written: a prefix, up to a granule, whose length nothing fixes (R332). -/
def cancelRuns (s : State) (j : EngineJob) (rs : List EngRun) : List EngRun :=
  let x := (Config.freeWord s.free).toNat
  let n := j.pos + x % (rs.length - j.pos + 1)
  rs.take n ++ match rs[n]? with
    | some r => if x / 2 ^ 62 = 0 then [] else [{ r with bytes := r.bytes.take (16 * (x / 2 ^ 62)) }]
    | none => []

/-- The transfer of a job that has passed its checks: what it writes, and its code. -/
def transferOf (s : State) (j : EngineJob) : Transfer :=
  if j.code ≠ 0 || j.passed then { runs := [], code := j.code }
  else
    let x := if j.copy then copyTransfer s j else mxeTransfer s j
    if j.cancel then
      let runs := x.runs.filter (fun r => match runLeaf s j r with
        | some (pa, _) => !unboundWindow s.hub.pkg pa
        | none => true)
      { runs := cancelRuns s j runs, code := if j.hwerr then 10 else 9 }
    else if x.code ≠ 0 then { x with runs := cancelRuns s j x.runs }
    else x

/-- The last steps of a job whose writes are done, with its code (R329): conversion, record and stamp, and completion. A full
log leaves the job with what is still to be written of its record. -/
def finishJob (s : State) (c : Nat) (j : EngineJob) (code : Nat) (counts : Nat × Nat × Nat) : State :=
  let s1 := if code = 0 && j.rl then releaseMarks s j else convertPending s j
  match writeRuns j ((recRuns s1 j code counts).drop j.recPos) s1 j.recPos with
  | (s2, k, .stalled) => putJob s2 c { j with code := code, marked := [], recPos := k }
  | (s2, _, _) => modCluster s2 c (fun q => leaveQueue q j)

/-- The release, when the job is to make one, and the last steps; a stall leaves the job for a later completion, its
transfer done. -/
def releaseJob (s : State) (c : Nat) (j : EngineJob) (code : Nat) (counts : Nat × Nat × Nat) : State :=
  if code = 0 && j.rl && !j.released then
    match engRelease s j with
    | .done s1 0 _ =>
      let j1 := { j with released := true }
      finishJob (putJob s1 c j1) c j1 0 counts
    | .done s1 rc detail => finishJob s1 c { j with detail := detail } rc counts
    | .stall s1 => s1
  else finishJob s c j code counts

/-- The code a job will end with, its release looked at ahead: what decides whether it writes its stamp. -/
def endCode (s : State) (j : EngineJob) (code : Nat) : Nat :=
  if code = 0 && j.rl && !j.released then
    match engRelease s j with
    | .done _ rc _ => rc
    | .stall _ => 0
  else code

/-- A failed host access ends a job as an address that does not translate does, one of its record as a REC that does not
(R36, R96, R329, R330; log entry 72). -/
def hostFailed (s : State) (j : EngineJob) : EngineJob :=
  let bad := hostNamed s j j.hostFault
  if bad.any (·.record) then { j with code := 4, noRecord := true }
  else match bad.foldl (fun a b => match a with | none => some b.va | some v => some (min v b.va)) none with
    | some va => { j with code := 4, detail := va }
    | none => j

/-- What a job meets on its way besides its transfer: a host access that has failed, or a page that no longer translates as it
did when the job started (R36, R96, R98). -/
def metAnew (s : State) (j : EngineJob) : State × EngineJob :=
  if j.code ≠ 0 || j.passed || j.cancel then (s, j)
  else
    let h := hostFailed s j
    if h.code ≠ 0 then (s, h)
    else (rangeFinding s j ((engRanges j).filter (fun r => r.loc.space == 0))).getD (s, j)

/-- ENGINE_JOB_COMPLETE's work on a running job. A SYS page written makes the effect irrevocable: one entry in the log of
each domain whose page it is, and in a replay the domain stops before it (R189, R201). No access through an unbound window
completes (R90). A job that cannot log a write because the log's page is not pinned ends with PERM (R182, log entry 22). -/
def completeJob (s0 : State) (c : Nat) (j0 : EngineJob) : State :=
  let (s, j) := metAnew s0 j0
  if j.code = 0 && !j.passed && !j.cancel && goesUnbound s j then s
  else
    let x := transferOf s j
    let counts := j.counts.getD x.counts
    let s0 := if j.cancel || x.code = 8 || x.code = 1 then { s with free := s.free + 1 } else s
    let sys := if j.sysLogged then [] else sysBytes s0 j (x.runs ++ recRuns s0 j (endCode s0 j x.code) counts)
    match sys.find? (fun e => effectAhead s0 e.1) with
    | some e => replayHalt s0 e.1 6
    | none =>
      let j1 := { j with counts := some counts }
      sysRooms j (fun s1 =>
        let s2 := sys.foldl (fun a e =>
          (logAppend a e.1 [irrevocableEntry j.tag e.2.1 j.gtid j.icount 1 e.2.2]).1) s1
        let j2 := { j1 with sysLogged := j.sysLogged || !sys.isEmpty }
        match writeRuns j (x.runs.drop j.pos) s2 j.pos with
        | (s3, k, .stalled) => putJob s3 c { j2 with pos := k }
        | (s3, k, .pinned va) => endAt s3 { j2 with pos := k } va
        | (s3, k, .all) =>
          let j3 := { j2 with pos := k, passed := true, code := x.code }
          releaseJob (putJob s3 c j3) c j3 x.code counts) (fun s1 => putJob s1 c j1) (fun va s1 => endAt s1 j1 va) sys s0
where
  /-- The job ends with PERM, the address of the write that could not be logged in DETAIL. -/
  endAt (s : State) (j : EngineJob) (va : Nat) : State :=
    let j1 := { j with passed := true, code := 5, detail := va }
    releaseJob (putJob s c j1) c j1 5 (0, 0, 0)

/-- MXE jobs complete in start order (R86). -/
def mayComplete (q : Cluster) (j : EngineJob) : Bool :=
  j.phase == .running && (j.copy || j.code == 9 || j.code == 10
    || (inFlight q false).all (fun k => decide (j.started ≤ k.started)))

/-- ENGINE_JOB_COMPLETE. -/
def execEngineJobComplete (cluster job : Nat) (s : State) : Host.Outcome State Fault Refusal :=
  match jobAt s cluster job with
  | some j => event (if mayComplete (clusterAt s cluster) j then completeJob s cluster j else s)
  | none => event s

/-- JOB_WAIT_DONE: a slot in BLK_JOB re-reads its count. -/
def execJobWaitDone (slot : Nat) (s : State) : Host.Outcome State Fault Refusal :=
  match taskAt s slot with
  | some t => event (if t.st = .blkJob then { setTask s slot { t with st := .ready } with force := some slot } else s)
  | none => event s

end Sys2Proof.Machine
end

