-- ==== Sys2Proof/Machine/Package.lean ====
section
/-!
DEFINITION. The package (R7, R10, R13, R15 to R20): device resets with their wipe, bring-up, the die links, the power
and thermal limiters, and quarantine at run time.
-/

namespace Sys2Proof.Machine

/-! ### Reset (R15) -/

/-- Memory after the wipe: HBM zero and clean; host memory and the UALink space are not the device's. -/
def wipeHbm (m : Memory) : Memory :=
  { bytes := m.bytes.filter (fun e => decide (hbmEnd ≤ e.1)), poison := m.poison.filter (fun e => decide (hbmEnd ≤ 16 * e.1)) }

/-- What of the package a device reset keeps: the lifecycle, the identity, the serial of the token that unlocked the part
and the hub's store of quarantined units (R18, R44, R45, R49). -/
def keptPackage (p : Package) : Package :=
  { lifecycle := p.lifecycle, identity := p.identity, unlockSerial := p.unlockSerial, quarCores := p.quarCores
    quarClusters := p.quarClusters, quarSlices := p.quarSlices, resetHeld := true }

/-- A device reset, which a wipe follows: every SRAM and HBM zero, READY 0, WIPING 1. One that comes during a wipe restarts
it. What the outside has been sent, and what it does next, are not the part's. -/
def deviceReset (s : State) : State :=
  { mem := wipeHbm s.mem, hub := { pkg := keptPackage s.hub.pkg, linkOut := s.hub.linkOut }
    agenda := s.agenda, free := s.free }

/-- POWER_ON. -/
def execPowerOn (s : State) : Host.Outcome State Fault Refusal := event (deviceReset s)
/-- PERST_ASSERT. -/
def execPerstAssert (s : State) : Host.Outcome State Fault Refusal := event (deviceReset s)
/-- PCIE_HOT_RESET. -/
def execPcieHotReset (s : State) : Host.Outcome State Fault Refusal := event (deviceReset s)
/-- FUNCTION_LEVEL_RESET_F0. -/
def execFunctionLevelResetF0 (s : State) : Host.Outcome State Fault Refusal := event (deviceReset s)
/-- SUPERVISOR_RESET. -/
def execSupervisorReset (s : State) : Host.Outcome State Fault Refusal := event (deviceReset s)
/-- FUNCTION_LEVEL_RESET_F1 ends the debug sessions and nothing else. -/
def execFunctionLevelResetF1 (s : State) : Host.Outcome State Fault Refusal :=
  event (modHub s (fun h => { h with sessions := [] }))

/-- RESET_RELEASE: the reset is released, and the cycle count starts (R270). -/
def execResetRelease (s : State) : Host.Outcome State Fault Refusal :=
  if s.hub.pkg.resetHeld then event { modPkg s (fun p => { p with resetHeld := false }) with clock := 0 } else event s

/-- WIPE_COMPLETE. -/
def execWipeComplete (s : State) : Host.Outcome State Fault Refusal :=
  if s.hub.pkg.resetHeld then event s else event (modPkg s (fun p => { p with wiping := false }))

/-! ### Bring-up (R16, R18) -/

/-- A list with the members of another that it lacks. -/
def addAll (l m : List Nat) : List Nat := m.foldl (fun a x => if a.contains x then a else a ++ [x]) l

/-- Some unit is quarantined. -/
def anyQuarantine (p : Package) : Bool := !p.quarCores.isEmpty || !p.quarClusters.isEmpty || !p.quarSlices.isEmpty

/-- The store of quarantined units a bring-up starts from: cleared on request, which MANUFACTURE alone allows. -/
def clearedStore (b : BringUp) (p : Package) : Package :=
  if b.clearStore && decide (p.lifecycle = .manufacture) then { p with quarCores := [], quarClusters := [], quarSlices := [] }
  else p

/-- BRINGUP_COMPLETE: units that failed self-test are quarantined, the supervisor has started, READY is 1. -/
def execBringupComplete (b : BringUp) (s : State) : Host.Outcome State Fault Refusal :=
  if s.hub.pkg.resetHeld || s.hub.pkg.wiping || s.hub.pkg.ready then event s
  else
    event { modPkg s (fun q =>
      let p := clearedStore b q
      let p1 : Package := { p with
        quarCores := addAll p.quarCores b.failCores, quarClusters := addAll p.quarClusters b.failClusters
        quarSlices := addAll p.quarSlices b.failSlices, aop32 := b.aop32, aop64 := b.aop64, aop128 := b.aop128
        uaWindows := b.uaWindows, ready := true }
      { p1 with replReq := anyQuarantine p1 }) with mem := { s.mem with pools := b.pools } }

/-! ### Links (R7, R8, R10) -/

/-- FLIT_CRC_ERROR: the link layer retransmits the flit, and nothing else comes of it. -/
def execFlitCrcError (link : Nat) (s : State) : Host.Outcome State Fault Refusal :=
  event (modHub s (fun h => { h with pkg := { h.pkg with
    retransmits := tabPut 0 link (tabGet 0 link h.pkg.retransmits + 1) h.pkg.retransmits } }))

/-- LINK_RETRAIN_FAIL: the link leaves routing; a die whose hub link has gone has no path to the hub (R8). -/
def execLinkRetrainFail (link : Nat) (s : State) : Host.Outcome State Fault Refusal :=
  event (modPkg s (fun p => { p with
    linksDown := addAll p.linksDown [link], fatal := p.fatal || decide (4 ≤ link) }))

/-! ### Clock ceilings (R13) -/

/-- Steps of 53.125 MHz from 850 MHz to the floor of 425 MHz. -/
def floorSteps : Nat := 8

/-- POWER_LIMIT_STEP at a measured power, under the limit the supervisor has set: one between 1,200 W and 2,800 W
replaces the one before. -/
def execPowerLimitStep (r : PowerReading) (s : State) : Host.Outcome State Fault Refusal :=
  event (modPkg s (fun q =>
    let p := if 1200 ≤ r.limit ∧ r.limit ≤ 2800 then { q with powerLimit := r.limit } else q
    if p.powerLimit < r.watts then { p with powerSteps := min (p.powerSteps + 1) floorSteps }
    else if 100 * r.watts < 97 * p.powerLimit then { p with powerSteps := p.powerSteps - 1 }
    else p))

/-- THERMAL_LIMIT_STEP at the hottest sensor's reading. -/
def execThermalLimitStep (hottest : Nat) (s : State) : Host.Outcome State Fault Refusal :=
  event (modPkg s (fun p =>
    if 100 ≤ hottest then { p with thermSteps := min (p.thermSteps + 1) floorSteps }
    else if hottest < 95 then { p with thermSteps := p.thermSteps - 1 }
    else p))

/-- THERMAL_TRIP: at 110 °C every core and engine stops. -/
def execThermalTrip (hottest : Nat) (s : State) : Host.Outcome State Fault Refusal :=
  if 110 ≤ hottest then event (modPkg s (fun p => { p with tripped := true })) else event s

/-! ### Quarantine at run time (R18 to R20) -/

/-- A task whose state cannot be read back ends faulted, and the supervisor is told. -/
def loseTask (s : State) (key : Nat) : State :=
  match taskAt s key with
  | none => s
  | some t =>
    if t.st = .ended then s
    else endSlot (notify s
      { kind := 1, code := 3, asid := t.asid, gtid := t.id.gtid, pc := t.pc, depth := t.depth }) key true true

/-- The tasks of some cores leave them: pre-empted whole, or lost; the messages their dispatchers sent there go back. -/
def evacuate (s : State) (cores : Nat → Bool) (unreadable : List Nat) : State :=
  let keys := (s.tasks.filter (fun e => cores (keyCore e.1))).map (·.1)
  recallMsgs (keys.foldl (fun a k => if unreadable.contains k then loseTask a k else startPreempt a k 0x22) s) none cores

/-- UNIT_QUARANTINE. An uncorrectable error in HBM poisons its granule instead (R107). -/
def execUnitQuarantine (q : QuarantineIn) (s : State) : Host.Outcome State Fault Refusal :=
  match q.unit with
  | .core =>
    if s.hub.pkg.quarCores.contains q.index then event s
    else event (evacuate (modPkg s (fun p => { p with quarCores := p.quarCores ++ [q.index], replReq := true }))
      (fun c => c == q.index) q.unreadable)
  | .cluster =>
    if s.hub.pkg.quarClusters.contains q.index then event s
    else
      let s1 := modPkg s (fun p => { p with quarClusters := p.quarClusters ++ [q.index], replReq := true })
      let s2 := modCluster s1 q.index (fun c => { c with jobs := c.jobs.map failJob })
      event (evacuate s2 (fun c => coreCluster c == q.index) q.unreadable)
  | .slice =>
    if s.hub.pkg.quarSlices.contains q.index then event s
    else event (migrateLines (modPkg s (fun p => { p with quarSlices := p.quarSlices ++ [q.index], replReq := true })) q.index)
  | .hbmGranule =>
    event { s with mem := { s.mem with poison := tabPut false q.index true s.mem.poison } }

end Sys2Proof.Machine
end

