-- ==== Sys2Proof/Machine/Admin.lean ====
section
/-!
DEFINITION. The administrative queue (R39 to R41): the fetch and checks of its records, their results, and the fourteen
commands, with attestation and the lifecycle (R43 to R51, R149 to R151).
-/

namespace Sys2Proof.Machine

/-! ### Records and results (R39) -/

/-- STATUS values (R39). -/
inductive AdmStatus where
  | ok | badArg | noAsid | badDomain | badState | auth | fetch
  deriving DecidableEq, Repr

/-- The value of a STATUS. -/
def AdmStatus.code : AdmStatus → Nat
  | .ok => 0 | .badArg => 1 | .noAsid => 2 | .badDomain => 3 | .badState => 4 | .auth => 5 | .fetch => 6

/-- An administrative record. -/
structure AdminRecord where
  kind : Nat
  irq : Bool
  asid : Nat
  tag : Nat
  result : Nat
  argA : Nat
  argB : Nat
  argC : Nat
  reserved : Bool
  deriving DecidableEq, Repr

/-- The record 64 bytes hold. -/
def AdminRecord.ofBytes (b : List Byte) : AdminRecord :=
  let a := recField b 2 2
  { kind := recField b 0 1, irq := natBit (recField b 1 1) 0, asid := a % 1024, tag := recField b 4 4
    result := recField b 8 8, argA := recField b 16 8, argB := recField b 24 8, argC := recField b 32 8
    reserved := recField b 1 1 / 2 != 0 || a / 1024 != 0 || recField b 40 24 != 0 }

/-- The reason a record stops the queue; 0 when it passes. -/
def AdminRecord.error (r : AdminRecord) : Nat :=
  if r.kind < 0x10 || decide (0x1D < r.kind) then 1
  else if r.reserved || ((r.kind == 0x10 || r.kind == 0x1C || r.kind == 0x1D) && r.asid != 0) then 2
  else if r.result % 16 ≠ 0 then 3
  else 0

/-- What a command comes to: its result, or it is not complete yet. -/
inductive AdmDone where
  | done (s : State) (st : AdmStatus) (value : Nat)
  /-- Done, and once the result is written something follows. -/
  | doneThen (s : State) (after : State → State)
  | wait

/-- The result is written, with an event on vector 0 when the record asks for one. -/
def writeResult (s : State) (r : AdminRecord) (st : AdmStatus) (value : Nat) : State :=
  let s1 := hostWriteAt s r.result (leBytes 8 st.code ++ leBytes 8 value)
  if r.irq then countEvent s1 0 else s1

/-- The next administrative record, when it is one of a kind: a record that fails a check stops the queue whatever its
kind; in RETIRED only the nonce and attestation commands are accepted (R49). -/
def withAdmin (s : State) (f : AdminFetch) (kind : Nat) (go : State → AdminRecord → AdmDone) : State :=
  let q := queueAt s admQueue
  if !running s || !q.fetches then s
  else match (if f.ringOk then recordBytes s q else none) with
    | none => stopQueue s admQueue 7 0
    | some b =>
      let r := AdminRecord.ofBytes b
      if r.error ≠ 0 then stopQueue s admQueue r.error r.tag
      else if r.kind ≠ kind then s
      else if s.hub.pkg.lifecycle = .retired && decide (kind < 0x1B) then
        writeResult (consume s admQueue) r .badState 0
      else match go (consume s admQueue) r with
        | .done s1 st v => writeResult s1 r st v
        | .doneThen s1 after => after (writeResult s1 r .ok 0)
        | .wait => s

/-- A command on a live domain that is not being revoked. -/
def onDomain (s : State) (r : AdminRecord) (go : Domain → AdmDone) : AdmDone :=
  match domOf s r.asid with
  | some d => if d.state = .live then go d else .done s .badDomain 0
  | none => .done s .badDomain 0

/-- Host memory a command reads; STATUS FETCH where it fails. -/
def withHost (s : State) (f : AdminFetch) (b n : Nat) (go : List Byte → AdmDone) : AdmDone :=
  match (if f.argOk then hostRead s b n else none) with
  | some bs => go bs
  | none => .done s .fetch 0

/-- Use up one free value. -/
def useFree (s : State) : State := { s with free := s.free + 1 }

/-- A 256-bit value of 32 bytes, byte 0 the least significant. -/
def hashOf (b : List Byte) : BitVec 256 := BitVec.ofNat 256 (leNat (b.take 32))
/-- Its bytes. -/
def hashBytes (h : BitVec 256) : List Byte := leBytes 32 h.toNat

/-! ### Domains (R38, R40, R41) -/

/-- The flags of DOM_CREATE are legal. -/
def flagsOk (a : Nat) : Bool :=
  a / 2 ^ 13 == 0 && natBits a 3 2 != 3 && natBits a 5 2 != 3 && decide (20 ≤ natBits a 7 6) && decide (natBits a 7 6 ≤ 36)

/-- DOM_CREATE: the lowest free ASID, a fresh import key pair, its areas where the supervisor places them, bench 0 in its
log, and its queue page as after reset. -/
def execDomCreate (f : AdminFetch) (place : DomPlace) (s : State) : Host.Outcome State Fault Refusal :=
  event (withAdmin s f 0x10 (fun s r =>
    if !flagsOk r.argA then .done s .badArg 0
    else match (upTo 1024).find? (fun a => (domOf s a).isNone) with
      | none => .done s .noAsid 0
      | some asid => withHost s f r.argB 32 (fun cred =>
        let d : Domain :=
          { state := .live, flags := BitVec.ofNat 64 r.argA, cred := hashOf cred, kemPub := Config.freeKemPublic s.free
            xts := if natBit r.argA 0 then some (Config.freeXts s.free) else none, place := place }
        let s1 := modQueue (useFree (modHub s (fun h => { h with doms := tabSet asid d h.doms }))) asid (fun _ => {})
        .done (initLog s1 asid (natBits r.argA 7 6) (natBits r.argA 5 2)) .ok asid)))

/-- DOM_REVOKE. An argument that R40 does not list for a command is ignored: DESIGN CHOICE (log entry 18). -/
def execDomRevoke (f : AdminFetch) (s : State) : Host.Outcome State Fault Refusal :=
  event (withAdmin s f 0x11 (fun s r => onDomain s r (fun _ => .done (endDomain s r.asid 1) .ok 0)))

/-- DOM_KILL: of a live or a revoked domain; of a killed one it has no further effect. -/
def execDomKill (f : AdminFetch) (s : State) : Host.Outcome State Fault Refusal :=
  event (withAdmin s f 0x12 (fun s r =>
    match domOf s r.asid with
    | none => .done s .badDomain 0
    | some d => if d.state = .killed then .done s .ok 0 else .done (endDomain s r.asid 2) .ok 0))

/-- DOM_DESTROY: complete once nothing of the domain's work is left (log entry 31). -/
def execDomDestroy (f : AdminFetch) (s : State) : Host.Outcome State Fault Refusal :=
  event (withAdmin s f 0x13 (fun s r =>
    match domOf s r.asid with
    | none => .done s .badDomain 0
    | some d =>
      if d.state = .live then .done s .badState 0
      else if workLeft s r.asid then .wait
      else .done (destroyDomain s r.asid) .ok 0))

/-! ### Adits (R149 to R151) -/

/-- The adit a record image holds, and whether a reserved field, REVISION or VALID is non-zero. -/
def aditOf (b : List Byte) : Adit × Bool :=
  let p := recField b 0 2
  let fl := recField b 4 4
  let w := recField b 32 8
  ({ publisher := p % 1024, logged := natBit fl 0, rewindOk := natBit fl 1, reentrant := natBit fl 2
     entry := BitVec.ofNat 64 (recField b 8 8), cleanup := BitVec.ofNat 64 (recField b 16 8), vmax := recField b 24 1
     smax := recField b 25 1, mperm := recField b 26 1 % 4, vneed := recField b 27 1, reserve := recField b 28 4
     mwmax := w % 2 ^ 48 },
   p / 1024 != 0 || recField b 2 2 != 0 || fl / 8 != 0 || recField b 26 1 / 4 != 0 || w / 2 ^ 48 != 0
     || recField b 40 24 != 0)

/-- An entry PC of an adit: its form, and executable in the publisher's domain. -/
def entryOk (s : State) (asid : Nat) (pc : Word) : Bool := pcForm pc && executable s asid (pcLine pc)

/-- The image is one ADIT_PUBLISH accepts (R150). -/
def aditOk (s : State) (asid : Nat) (a : Adit) : Bool :=
  a.publisher == asid && decide (a.vmax ≤ 16) && decide (a.smax ≤ 8) && decide (a.vneed ≤ 64) && a.mwmax % 64 == 0
    && entryOk s asid a.entry && entryOk s asid a.cleanup

/-- Extend a domain's measurement by an image (R45). -/
def extendMeas (s : State) (asid : Nat) (image : List Byte) : State :=
  modDom s asid (fun d => { d with
    meas := Config.shake256 (hashBytes d.meas ++ hashBytes (Config.shake256 image)) })

/-- ADIT_PUBLISH: the lowest free index; its revision is what the last ADIT_REVOKE left, or 1. With no free index the answer is
BAD_ARG: DESIGN CHOICE (log entry 81). -/
def execAditPublish (f : AdminFetch) (s : State) : Host.Outcome State Fault Refusal :=
  event (withAdmin s f 0x14 (fun s r => onDomain s r (fun _ =>
    match (if r.argA % 64 = 0 then cleanRead s r.asid r.argA 64 else none) with
    | none => .done s .badArg 0
    | some b =>
      let (a, bad) := aditOf b
      if bad || !aditOk s r.asid a then .done s .badArg 0
      else match (upTo 4096).find? (fun i => !(tabGet {} i s.hub.adits).valid) with
        | none => .done s .badArg 0
        | some i =>
          let rev := max (tabGet {} i s.hub.adits).rev 1
          let s1 := modHub s (fun h => { h with adits := tabSet i { a with rev := rev, valid := true } h.adits })
          .done (extendMeas s1 r.asid b) .ok i)))

/-- A handle (R40). -/
def handleOf (ix rev : Nat) (tag : BitVec 32) : Nat := ix + 2 ^ 16 * rev + 2 ^ 32 * tag.toNat

/-- ADIT_GRANT: a grant with a fresh tag in the grantee's table. -/
def execAditGrant (f : AdminFetch) (s : State) : Host.Outcome State Fault Refusal :=
  event (withAdmin s f 0x15 (fun s r => onDomain s r (fun d =>
    let a := tabGet {} r.argA s.hub.adits
    if 4096 ≤ r.argA || !a.valid then .done s .badArg 0
    else if !liveDom s a.publisher then .done s .badDomain 0
    else if 1024 ≤ d.grants.length then .done s .badArg 0
    else
      let tag := Config.freeTag s.free
      let s1 := modDom (useFree s) r.asid (fun d => { d with
        grants := d.grants ++ [{ index := r.argA, rev := a.rev, tag := tag }] })
      .done s1 .ok (handleOf r.argA a.rev tag))))

/-- ADIT_REVOKE, of an adit the target publishes. -/
def execAditRevoke (f : AdminFetch) (s : State) : Host.Outcome State Fault Refusal :=
  event (withAdmin s f 0x16 (fun s r => onDomain s r (fun _ =>
    let a := tabGet {} r.argA s.hub.adits
    if 4096 ≤ r.argA || !a.valid || a.publisher ≠ r.asid then .done s .badArg 0
    else .done (revokeAdit s r.argA) .ok 0)))

/-! ### Endpoints, vectors, clusters (R30, R40, R42, R43) -/

/-- The endpoint of a table entry is the one wanted. -/
def sameEndpoint (e w : Endpoint) : Bool := e.valid && e.core == w.core && e.asid == w.asid && e.ualink == w.ualink

/-- The endpoint ARG_A names; none where it is out of range. -/
def wantedEndpoint (a : Nat) : Option Endpoint :=
  if natBit a 63 then
    if a % 2 ^ 63 / 2 ^ 16 = 0 then some { rev := 1, ualink := some (a % 2 ^ 16), valid := true } else none
  else if a / 2 ^ 26 = 0 && natBits a 11 5 == 0 && decide (a % 2 ^ 11 < 1280) then
    some { rev := 1, core := a % 2 ^ 11, asid := natBits a 16 10, valid := true }
  else none

/-- EP_GRANT: the endpoint's entry in the device table, made when it is new, and a grant of it. With no free entry the answer
is BAD_ARG: DESIGN CHOICE (log entry 81). -/
def execEpGrant (f : AdminFetch) (s : State) : Host.Outcome State Fault Refusal :=
  event (withAdmin s f 0x17 (fun s r => onDomain s r (fun _ =>
    match wantedEndpoint r.argA with
    | none => .done s .badArg 0
    | some w =>
      if w.ualink.isNone && !liveDom s w.asid then .done s .badDomain 0
      else
        let found := (s.hub.endpoints.find? (fun e => sameEndpoint e.2 w)).map (·.1)
        match found.or ((upTo 4096).find? (fun i => !(tabGet {} i s.hub.endpoints).valid)) with
        | none => .done s .badArg 0
        | some i =>
          let e := if found.isSome then tabGet {} i s.hub.endpoints else w
          let tag := Config.freeTag s.free
          let s1 := modHub (useFree s) (fun h => { h with endpoints := tabSet i e h.endpoints })
          .done (modDom s1 r.asid (fun d => { d with endpoints := d.endpoints ++ [{ index := i, rev := e.rev, tag := tag }] }))
            .ok (handleOf i e.rev tag))))

/-- VEC_GRANT. ARG_B and ARG_C are ignored, as every argument that R40 does not list (log entry 18). -/
def execVecGrant (f : AdminFetch) (s : State) : Host.Outcome State Fault Refusal :=
  event (withAdmin s f 0x18 (fun s r => onDomain s r (fun _ =>
    if r.argA = 0 || decide (255 < r.argA) then .done s .badArg 0
    else .done (modDom s r.asid (fun d => { d with vectors := addAll d.vectors [r.argA] })) .ok 0)))

/-- The clusters of SET_ALLOT's arguments. -/
def allotOf (r : AdminRecord) : List Nat :=
  let v := r.argA + 2 ^ 64 * r.argB + 2 ^ 128 * (r.argC % 2 ^ 32)
  (upTo 160).filter (fun i => natBit v i)

/-- Other domains' claims on a cluster refuse the request. -/
def allotTaken (s : State) (asid : Nat) (sliced : Bool) (c : Nat) : Bool :=
  let others := s.hub.doms.filter (fun e => e.1 != asid && e.2.allot.contains c)
  if sliced then others.any (fun e => !e.2.timesliced) || decide (8 ≤ others.length) else !others.isEmpty

/-- The allotment takes effect: a newcomer on a shared cluster waits for a slice to end there, and clusters removed are
left at once. -/
def setAllotment (s : State) (asid : Nat) (cs : List Nat) (sliced : Bool) (slice : Nat) (d : Domain) : State :=
  let removed := d.allot.filter (fun c => !cs.contains c)
  let shared := cs.filter (fun c => !d.allot.contains c && s.hub.doms.any (fun e => e.1 != asid && e.2.allot.contains c))
  let s1 := modDom s asid (fun d => { d with
    allot := cs, timesliced := sliced, sliceUs := slice, evicted := d.evicted.filter (fun c => cs.contains c) ++ shared })
  handOn ((removed.filter (fun c => !d.evicted.contains c)).foldl clearCluster (leaveClusters s1 asid removed)) removed

/-- SET_ALLOT. -/
def execSetAllot (f : AdminFetch) (s : State) : Host.Outcome State Fault Refusal :=
  event (withAdmin s f 0x19 (fun s r => onDomain s r (fun d =>
    let sliced := natBit r.argC 63
    let slice := natBits r.argC 40 16
    let cs := allotOf r
    if natBits r.argC 32 8 ≠ 0 || natBits r.argC 56 7 != 0 || (sliced && decide (slice < 100))
        || cs.any (allotTaken s r.asid sliced) then .done s .badArg 0
    else .done (setAllotment s r.asid cs sliced slice d) .ok 0)))

/-! ### Keys (R47) -/

/-- The bytes of "TW5-SLOT". -/
def slotLabel : List Byte := [0x54, 0x57, 0x35, 0x2D, 0x53, 0x4C, 0x4F, 0x54]

/-- The weight key a blob wraps for the import key pair of a public key: the shared secret gives the wrapping key, under
which bytes 1628 to 1675 are authenticated and WRAPPED is decrypted. -/
def unwrapKey (pub b : List Byte) : Option (BitVec 256) :=
  let z := Config.decapsulate pub (b.take 1568)
  let wrapping := Config.shake256 (hashBytes z ++ slotLabel)
  let bytes := fun (lo n : Nat) => (b.drop lo).take n
  (Config.gcmOpen wrapping (BitVec.ofNat 96 (recField b 1568 12)) (bytes 1628 48) (bytes 1580 32) (bytes 1612 16)).map hashOf

/-- KEY_IMPORT: the slot's key and binding, once the blob unwraps under the domain's import key. -/
def execKeyImport (f : AdminFetch) (s : State) : Host.Outcome State Fault Refusal :=
  event (withAdmin s f 0x1A (fun s r => onDomain s r (fun d =>
    if 16 ≤ r.argB then .done s .badArg 0
    else withHost s f r.argA 1676 (fun b =>
      let base := recField b 1628 8
      let len := recField b 1636 8
      let tags := recField b 1644 8
      let bad := base % 4096 != 0 || len % 4096 != 0 || tags % 16 != 0 || recField b 1656 20 != 0
      match (if bad then none else unwrapKey d.kemPub b) with
      | none => .done s .auth 0
      | some key =>
        let slot : KeySlot :=
          { key := key, base := base, len := len, tagTab := tags, set := BitVec.ofNat 32 (recField b 1652 4) }
        .done (modDom s r.asid (fun d => { d with keys := tabSet r.argB slot d.keys })) .ok 0))))

/-! ### Attestation (R44, R45) -/

/-- The lifecycle's value (R49). -/
def Lifecycle.code : Lifecycle → Nat
  | .manufacture => 0 | .provisioned => 1 | .deployed => 2 | .debugUnlocked => 3 | .retired => 4

/-- Exactly `n` bytes: cut, or padded with zeros. -/
def fitBytes (n : Nat) (b : List Byte) : List Byte := (b ++ List.replicate (n - b.length) 0).take n

/-- A firmware measurement as reports carry it: replaced in DEBUG_UNLOCKED. -/
def reportedMeas (p : Package) (m : BitVec 256) : BitVec 256 :=
  if p.lifecycle = .debugUnlocked then Config.shake256 (hashBytes m ++ leBytes 8 p.unlockSerial.toNat) else m

/-- Bytes 0 to 1,711 of a report, of a domain or of the device alone. The spec does not say what DOM_FLAGS holds in a
device-only report: zero: DESIGN CHOICE (log entry 81). -/
def reportBody (s : State) (dom : Option (Nat × Domain)) (nonce : List Byte) : List Byte :=
  let p := s.hub.pkg
  let dbg := match dom with | some (_, d) => s.hub.sessions.any (fun e => reaches p e.2 d) | none => false
  leBytes 4 1 ++ leBytes 1 p.lifecycle.code ++ leBytes 1 (boolNat dbg)
    ++ leBytes 2 (match dom with | some (a, _) => a | none => 0xFFFF) ++ fitBytes 32 nonce
    ++ hashBytes (reportedMeas p Config.measSecurity) ++ hashBytes (reportedMeas p Config.measSupervisor)
    ++ (match dom with
        | some (_, d) => hashBytes d.meas ++ leBytes 8 d.flags.toNat ++ fitBytes 1568 d.kemPub
        | none => List.replicate (32 + 8 + 1568) 0)

/-- ATTEST: the report with its signature under the device identity; unsigned in RETIRED, where only the device alone is
reported. ARG_C bit 0, which leaves the domain out, with an ASID other than 0x3FF answers BAD_ARG, DESIGN CHOICE (log entry 18). -/
def execAttest (f : AdminFetch) (s : State) : Host.Outcome State Fault Refusal :=
  event (withAdmin s f 0x1B (fun s r =>
    let p := s.hub.pkg
    let device := r.asid == 0x3FF && natBit r.argC 0
    let retired := decide (p.lifecycle = .retired)
    if !device && retired then .done s .badState 0
    else if r.argC / 2 ≠ 0 || (natBit r.argC 0 && !device) then .done s .badArg 0
    else
      let report := fun (dom : Option (Nat × Domain)) => withHost s f r.argB 32 (fun nonce =>
        let body := reportBody s dom nonce
        match p.identity with
        | none =>
          if retired then .done (hostWriteAt s r.argA (body ++ List.replicate 1280 0)) .ok 2992 else .done s .badState 0
        | some id => .done (hostWriteAt s r.argA (body ++ fitBytes 1280 (Config.sign id body))) .ok 2992)
      if device then report none else onDomain s r (fun d => report (some (r.asid, d)))))

/-! ### Nonces and the lifecycle (R49, R50) -/

/-- GET_NONCE. -/
def execGetNonce (f : AdminFetch) (s : State) : Host.Outcome State Fault Refusal :=
  event (withAdmin s f 0x1C (fun s r =>
    let n := Config.freeNonce s.free
    let s1 := modHub (useFree s) (fun h => { h with pkg := { h.pkg with nonce := some n } })
    .done (hostWriteAt s1 r.argA (hashBytes n)) .ok 0))

/-- NONCE_EXPIRY. -/
def execNonceExpiry (s : State) : Host.Outcome State Fault Refusal :=
  event (modHub s (fun h => { h with pkg := { h.pkg with nonce := none } }))

/-- The transitions of R49. -/
def lifecycleStep : Lifecycle → Nat → Option Lifecycle
  | .manufacture, 1 => some .provisioned
  | .manufacture, 4 => some .retired
  | .provisioned, 2 => some .deployed
  | .provisioned, 4 => some .retired
  | .deployed, 3 => some .debugUnlocked
  | .deployed, 4 => some .retired
  | .debugUnlocked, 2 => some .deployed
  | .debugUnlocked, 4 => some .retired
  | _, _ => none

/-- A debug-unlock token for this device, under its latest nonce (R50). One whose VERSION is not 1 or whose reserved bytes are
not zero fails too: DESIGN CHOICE (log entry 81). -/
def tokenOk (p : Package) (b : List Byte) : Bool :=
  recField b 0 4 == 1 && recField b 4 4 == 0 && some (hashOf (b.drop 8)) == p.identity
    && some (hashOf (b.drop 40)) == p.nonce && Config.tokenSigned b

/-- A transition, its result written: the device resets into the new state. -/
def enterLifecycle (l : Lifecycle) (serial : Word) (s : State) : State :=
  let id := if l = .provisioned then some (Config.freeIdentity s.free)
    else if l = .retired then none else s.hub.pkg.identity
  useFree (modHub (deviceReset s) (fun h => { h with pkg := { h.pkg with
    lifecycle := l, identity := id, unlockSerial := serial } }))

/-- What LIFECYCLE's checks find: a STATUS that refuses it, or the state to enter and the token's serial. Without the token
that a transition requires the answer is AUTH: DESIGN CHOICE (log entry 81). -/
def lifecycleCheck (s : State) (f : AdminFetch) (r : AdminRecord) : AdmStatus × Option (Lifecycle × Word) :=
  match lifecycleStep s.hub.pkg.lifecycle r.argA with
  | none => (.badState, none)
  | some .debugUnlocked =>
    if r.argB = 0 then (.auth, none)
    else match (if f.argOk then hostRead s r.argB 1360 else none) with
      | none => (.fetch, none)
      | some b =>
        if tokenOk s.hub.pkg b then (.ok, some (.debugUnlocked, BitVec.ofNat 64 (recField b 72 8))) else (.auth, none)
  | some l => (.ok, some (l, 0))

/-- LIFECYCLE: a nonce is valid for one such command. -/
def execLifecycle (f : AdminFetch) (s : State) : Host.Outcome State Fault Refusal :=
  event (withAdmin s f 0x1D (fun s r =>
    let s1 := modHub s (fun h => { h with pkg := { h.pkg with nonce := none } })
    match lifecycleCheck s f r with
    | (_, some (l, serial)) => .doneThen s1 (enterLifecycle l serial)
    | (st, none) => .done s1 st 0))

end Sys2Proof.Machine
end

