-- ==== Sys2Proof/Machine/Debug.lean ====
section
/-!
DEFINITION. The debug function's commands (R50, R51, R215 to R217, R221, R222): sessions, halting and resuming, reading
and writing stopped state, breakpoints and watchpoints, the tail's switch and its LOST packets (R218 to R220), delay
accounting and the slice filter.
-/

namespace Sys2Proof.Machine

/-! ### Sessions and commands (R51, R215) -/

/-- A session. -/
def sessionAt (s : State) (k : Nat) : Option Session := tabFind k s.hub.sessions
/-- Change a session. -/
def modSession (s : State) (k : Nat) (f : Session → Session) : State :=
  modHub s (fun h => { h with sessions := tabMod k f h.sessions })

/-- RESULT of a session. -/
def answer (s : State) (k status value : Nat) : State :=
  modSession s k (fun x => { x with status := status, value := BitVec.ofNat 64 value })

/-- RESULT of a command for which the spec states no VALUE: STATUS as given, VALUE a free value. -/
def answerOpen (s : State) (k status : Nat) : State :=
  let t := answer s k status (Config.freeWord s.free).toNat
  { t with free := s.free + 1 }

/-- STATUS of R215 and R198. -/
def stOk : Nat := 0
/-- See `stOk`. -/
def stNotStopped : Nat := 1
/-- See `stOk`. -/
def stNoBench : Nat := 2
/-- See `stOk`. -/
def stIrrevocable : Nat := 3
/-- See `stOk`. -/
def stNotMapped : Nat := 4
/-- See `stOk`. -/
def stNotReached : Nat := 5
/-- See `stOk`. -/
def stActiveCall : Nat := 7
/-- See `stOk`. -/
def stDenied : Nat := 8
/-- See `stOk`. -/
def stBadArg : Nat := 9
/-- See `stOk`. -/
def stNotHalted : Nat := 10
/-- See `stOk`. -/
def stLogFull : Nat := 11

/-- DEBUG_SESSION_OPEN: in DEPLOYED, with a key whose hash is the credential hash of some domain, debuggable or not (R51); in
DEBUG_UNLOCKED, with the authority's. -/
def execDebugSessionOpen (d : SessionOpen) (s : State) : Host.Outcome State Fault Refusal :=
  let x : Session := { keyHash := d.keyHash, authority := d.authority }
  let ok := match s.hub.pkg.lifecycle with
    | .deployed => s.hub.doms.any (fun e => decide (e.2.state ≠ .absent) && e.2.cred == d.keyHash)
    | .debugUnlocked => d.authority
    | _ => false
  if running s && ok then event (modHub s (fun h => { h with sessions := tabSet d.session x h.sessions })) else event s

/-- The CMD register as a command's operation and operands fill it. -/
def cmdBits (op : Nat) (c : DebugCmd) : BitVec 512 :=
  BitVec.ofNat 512 (op % 256 + 2 ^ 8 * c.byte1.toNat + 2 ^ 16 * (c.asid % 65536) + 2 ^ 32 * c.bytes4.toNat
    + 2 ^ 64 * c.gtid.toNat + 2 ^ 128 * c.addr.toNat + 2 ^ 192 * c.arg.toNat + 2 ^ 256 * c.len.toNat
    + 2 ^ 320 * c.buf.toNat + 2 ^ 384 * c.bytes48.toNat)

/-- A bit of CMD that R215 gives no name is set. -/
def cmdSpare (c : DebugCmd) : Bool := c.byte1 != 0 || c.bytes4 != 0 || c.bytes48 != 0

/-- CMD is written. -/
def writeCmd (s : State) (op : Nat) (c : DebugCmd) : State := modSession s c.session (fun x => { x with cmd := cmdBits op c })

/-- What the registers of a session read as, by 8-byte offset: CMD, RESULT and STOPEVT. -/
def Session.reg (x : Session) (off : Nat) : Word :=
  if off < 0x40 then x.cmd.extractLsb' (8 * off) 64
  else match off with
    | 0x48 => BitVec.ofNat 64 x.status
    | 0x50 => x.value
    | 0x58 => x.stopGtid
    | 0x60 => BitVec.ofNat 64 x.stopCause
    | _ => 0

/-- A command written to CMD and its DOORBELL: the DOORBELL is dropped while another command of the session runs, and the
command is DENIED on a domain outside the session. -/
def withSession (s : State) (op : Nat) (c : DebugCmd) (denied : State) (go : Session → Domain → State) : State :=
  match sessionAt s c.session with
  | none => s
  | some x => writeCmd
    (if x.busy.isSome || !s.hub.pkg.ready then s
    else match domOf s c.asid with
      | some d => if reaches s.hub.pkg x d then go x d else denied
      | none => denied) op c

/-! ### Halting (R216) -/

/-- A task is selected by HALT or RESUME: one of the domain's, or one that runs in it; or the task of a GTID among those. -/
def selected (asid : Nat) (gtid : Option Word) (t : Task) : Bool :=
  (t.home == asid || t.asid == asid) && match gtid with | some g => t.id.gtid == g | none => true

/-- The GTID a HALT or RESUME names, when ARG bit 0 is set. -/
def cmdTask (c : DebugCmd) : Option Word := if natBit c.arg.toNat 0 then some c.gtid else none

/-- RESUME messages on their way to selected tasks go back, and the tasks are withheld. -/
def withholdSaved (s : State) (asid : Nat) (gtid : Option Word) : State :=
  let ids := (s.hub.saved.filter (fun e => selected asid gtid e.2.task)).map (·.1)
  modHub (dropMsgs s (fun m => decide (m.kind = .resume) && ids.contains m.ref)) (fun h => { h with
    saved := tabMap (fun _ v => if selected asid gtid v.task then { v with withheld := true, sent := false } else v) h.saved })

/-- Every selected task is saved and its engine jobs are complete. -/
def haltDone (s : State) (asid : Nat) (gtid : Option Word) : Bool :=
  !s.tasks.any (fun e => selected asid gtid e.2 && !(decide (e.2.st = .ended)))
    && (allTasks s).all (fun t => !selected asid gtid t || !jobsInFlight s t.id.gtid 0)

/-- HALT: each selected task stops after its current group and is pre-empted, its RESUME withheld; the command completes
once all are saved (`haltsDone`). -/
def haltTasks (s : State) (c : DebugCmd) : State :=
  let g := cmdTask c
  let keys := (s.tasks.filter (fun e => selected c.asid g e.2 && !(decide (e.2.st = .ended)))).map (fun e => (e.1, e.2.id.gtid))
  let s1 := keys.foldl (fun a e => startPreempt (debugStop a c.session e.2 0x23) e.1 0x23) s
  let s2 := withholdSaved s1 c.asid g
  let s3 := if g.isSome then s2
    else recallMsgs (modDom s2 c.asid (fun d => { d with halted := true })) (some c.asid) (fun _ => true)
  modSession s3 c.session (fun x => { x with busy := some (.halting c.asid g) })

/-- HALT. A GTID that names no task of the domain is BAD_ARG. -/
def execHalt (c : DebugCmd) (s : State) : Host.Outcome State Fault Refusal :=
  event (withSession s 0x01 c (answerOpen s c.session stDenied) (fun _ _ =>
    if (cmdTask c).isSome && !(allTasks s).any (selected c.asid (cmdTask c)) then answerOpen s c.session stBadArg else haltTasks s c))

/-- HALT commands whose tasks are all saved complete: done after every step. -/
def haltsDone (s : State) : State :=
  s.hub.sessions.foldl (fun a e => match e.2.busy with
    | some (.halting asid g) =>
      if haltDone a asid g then answerOpen (modSession a e.1 (fun x => { x with busy := none })) e.1 stOk else a
    | _ => a) s

/-- The withheld RESUMEs of selected tasks are released. -/
def releaseSaved (s : State) (asid : Nat) (gtid : Option Word) : State :=
  modHub s (fun h => { h with saved := tabMap (fun _ v => if selected asid gtid v.task then { v with withheld := false } else v) h.saved })

/-- The launches a REWIND restored are dispatched anew: their counters are written as at start (R354). What had finished when the
bench opened is not taken off again: the launch ends by the hub's own count (log entry 38). -/
def redispatch (s : State) (asid : Nat) : State :=
  match domOf s asid with
  | none => s
  | some d =>
    if !d.rewound then s
    else
      let s1 := (domLaunches s asid).foldl (fun a e =>
        let total := e.2.grid.foldl (· * ·) 1
        if e.2.started && counterUsable a asid e.2.counter then
          counterWrite a asid e.2.counter total 0
        else a) s
      modDom s1 asid (fun d => { d with rewound := false })

/-- A stopped domain runs on: a log-full stop is lifted, a halt ends, and in a replay the goal is set. -/
def runDomain (s : State) (asid : Nat) (goal : Option ReplayGoal) : State :=
  let c := readLog s asid
  let s1 := if c.state = 1 then writeLog s asid { c with state := 0 } else redispatch s asid
  releaseSaved (modDom s1 asid (fun d => { d with halted := false, logStopped := false, replay := goal })) asid none

/-- RESUME. In STATE REPLAY the domain replays on to the end of its history (R201). -/
def execDebugResume (c : DebugCmd) (s : State) : Host.Outcome State Fault Refusal :=
  event (withSession s 0x02 c (answerOpen s c.session stDenied) (fun _ _ =>
    match cmdTask c with
    | some g =>
      if (allTasks s).any (selected c.asid (some g)) then answerOpen (releaseSaved s c.asid (some g)) c.session stOk
      else answerOpen s c.session stBadArg
    | none =>
      let goal : Option ReplayGoal := if replaying s c.asid then
          some { gtid := 0, count := 0, force := false, toEnd := true, session := c.session }
        else none
      answerOpen (runDomain s c.asid goal) c.session stOk))

/-! ### Stopped state and memory (R215) -/

/-- Copy bytes to the session's host buffer; each byte's poison leaves with it (R37, R107). -/
def toBuffer (s : State) (buf : Word) (bs : List (Byte × Bool)) : State :=
  { s with mem := physStore s.mem ((bs.zip (upTo bs.length)).map (fun b => (hostAddr buf.toNat + b.2, b.1))) }

/-- Bytes of a domain's memory, each with its poison. -/
def vreadFlags (s : State) (asid va n : Nat) : Option (List (Byte × Bool)) :=
  (vread s asid va n).map (fun b => b.1.zip (poiFlags s asid va n))

/-- Clean bytes. -/
def cleanBytes (bs : List Byte) : List (Byte × Bool) := bs.map (fun b => (b, false))

/-- READ_TASK: the save area of a halted task, in the domain that holds it. -/
def execReadTask (c : DebugCmd) (s : State) : Host.Outcome State Fault Refusal :=
  event (withSession s 0x03 c (answerOpen s c.session stDenied) (fun _ _ =>
    match (s.hub.saved.find? (fun e => e.2.task.id.gtid == c.gtid && e.2.withheld)).map (·.2) with
    | none => answerOpen s c.session stNotHalted
    | some v =>
      if v.area ≠ c.asid then answerOpen s c.session stDenied
      else match vreadFlags s v.area v.addr ((saveBody v.task + 63) / 64 * 64) with
        | some bs => answerOpen (toBuffer (hubCounts s v.area v.addr ((saveBody v.task + 63) / 64 * 64)) c.buf bs) c.session stOk
        | none => answerOpen s c.session stNotMapped))

/-- READ_MEM. -/
def execReadMem (c : DebugCmd) (s : State) : Host.Outcome State Fault Refusal :=
  event (withSession s 0x04 c (answerOpen s c.session stDenied) (fun _ _ =>
    match vreadFlags s c.asid c.addr.toNat c.len.toNat with
    | some bs => answerOpen (toBuffer (hubCounts s c.asid c.addr.toNat c.len.toNat) c.buf bs) c.session stOk
    | none => answerOpen s c.session stNotMapped))

/-- Physical place and leaf of each chunk of a range that translates writable; none where one does not. -/
def writePlaces (s : State) (asid va n : Nat) : Option (List (Nat × Nat × Nat × Leaf)) :=
  (chunksOf va n).foldr (fun ch acc =>
    match acc, xlatHub s asid ch.1 .store false with
    | some rest, .ok pa l => some ((ch.1, ch.2, pa, l) :: rest)
    | _, _ => none) (some [])

/-- Addresses of a range, rising. -/
def addrRange (va n : Nat) : List Nat := (upTo n).map (fun i => va + i)

/-- The STORE entries a debugger's write needs, under the debug function's tag (R189, R206). -/
def debugEntries (s : State) (places : List (Nat × Nat × Nat × Leaf)) : List NewEntry :=
  places.flatMap (fun p =>
    if p.2.2.2.log then
      (logRuns (addrRange p.1 p.2.1)).map (fun r => runEntry s kStore debugTag r.1 (p.2.2.1 + (r.1 - p.1)) r.2)
    else [])

/-- Room for a debugger's entries, after the releases RECYCLE makes; STATE does not change. -/
def debugRoom (s : State) (asid n : Nat) : State × Bool :=
  let c := readLog s asid
  let s1 := if c.policy = 1 && !logRoom s asid n then recycle s asid n (c.curBench - c.oldBench + 1) else s
  (s1, n == 0 || (logRoom s1 asid n && (pinnedFault s1 asid (entryVa s1 asid (readLog s1 asid).nextSlot) 64).isNone))

/-- Lines of the written pages become CLEAN on BOUND and ATOMIC pages. -/
def cleanLines (m : Memory) (places : List (Nat × Nat × Nat × Leaf)) : Memory :=
  places.foldl (fun m p =>
    if p.2.2.2.cls = .loose then m
    else (linesOf p.2.2.1 p.2.1).foldl (fun m pa => writeMeta m pa cleanMeta) m) m

/-- WRITE_MEM: all or nothing. -/
def execWriteMem (c : DebugCmd) (s : State) : Host.Outcome State Fault Refusal :=
  event (withSession s 0x05 c (answerOpen s c.session stDenied) (fun _ _ =>
    let va := c.addr.toNat
    let n := c.len.toNat
    if replaying s c.asid then answerOpen s c.session stNotStopped
    else match writePlaces s c.asid va n with
      | none => answerOpen s c.session stNotMapped
      | some ps =>
        let es := debugEntries s ps
        let (s1, room) := debugRoom s c.asid es.length
        if !room then answerOpen s1 c.session stLogFull
        else
          let src := hostAddr c.buf.toNat
          let bs := physRead s1.mem src n
          let poi := (upTo n).map (fun i => tabGet false ((src + i) / 16) s1.mem.poison)
          let s2 := (logAppend s1 c.asid es).1
          let s3 := vwritePoi s2 c.asid va bs poi
          answerOpen { s3 with mem := cleanLines s3.mem ps } c.session stOk))

/-! ### Breakpoints and watchpoints (R217) -/

/-- The unit a SET_BP or SET_WP describes, GTID and mask in the buffer's first 16 bytes. -/
def unitOf (s : State) (c : DebugCmd) : DebugUnit :=
  let b := physRead s.mem (hostAddr c.buf.toNat) 16
  { asid := c.asid, gtid := BitVec.ofNat 64 (recField b 0 8), gmask := BitVec.ofNat 64 (recField b 8 8), addr := c.addr
    len := c.len }

/-- SET_BP. -/
def execSetBp (c : DebugCmd) (s : State) : Host.Outcome State Fault Refusal :=
  event (withSession s 0x06 c (answerOpen s c.session stDenied) (fun _ _ =>
    let n := c.arg.toNat % 8
    let u := { unitOf s c with len := 0, isTrap := natBit c.arg.toNat 8 }
    answerOpen (modSession s c.session (fun x => { x with
      bps := if natBit c.arg.toNat 10 then tabSet n u x.bps else tabDel n x.bps })) c.session stOk))

/-- SET_WP: base and length multiples of 8, the length at most 2 MiB. -/
def execSetWp (c : DebugCmd) (s : State) : Host.Outcome State Fault Refusal :=
  event (withSession s 0x07 c (answerOpen s c.session stDenied) (fun _ _ =>
    let n := c.arg.toNat % 4
    let u := { unitOf s c with onRead := natBit c.arg.toNat 8, onWrite := natBit c.arg.toNat 9 }
    if !natBit c.arg.toNat 10 then answerOpen (modSession s c.session (fun x => { x with wps := tabDel n x.wps })) c.session stOk
    else if c.addr.toNat % 8 ≠ 0 || c.len.toNat % 8 != 0 || decide (2 ^ 21 < c.len.toNat) then
      answerOpen s c.session stBadArg
    else answerOpen (modSession s c.session (fun x => { x with wps := tabSet n u x.wps })) c.session stOk))

/-! ### The tail (R218, R220) -/

/-- TAIL: the ring's LOG2 is 8 to 24. A header that does not translate answers NOT_MAPPED, and another LOG2 BAD_ARG: DESIGN
CHOICE (log entry 91). -/
def execTail (c : DebugCmd) (s : State) : Host.Outcome State Fault Refusal :=
  event (withSession s 0x08 c (answerOpen s c.session stDenied) (fun _ _ =>
    let lg := vreadNat s c.asid c.addr.toNat 4
    if !natBit c.arg.toNat 0 then answerOpen (modDom s c.asid (fun d => { d with tail := none })) c.session stOk
    else if (vread s c.asid c.addr.toNat 64).isNone then answerOpen s c.session stNotMapped
    else if lg < 8 || decide (24 < lg) then answerOpen s c.session stBadArg
    else answerOpen (modDom s c.asid (fun d => { d with
      tail := some { ring := c.addr.toNat, session := c.session } })) c.session stOk))

/-- Count packets of a domain's tail lost on a core. -/
def countLost (s : State) (core asid n : Nat) : State :=
  let k := core * 1024 + asid
  { s with cores := { s.cores with tailLost := tabPut 0 k (tabGet 0 k s.cores.tailLost + n) s.cores.tailLost } }

/-- A packet goes from its core's buffer to its domain's ring, or is lost where that is full. -/
def drainPacket (core : Nat) (s : State) (p : Nat × BitVec 128) : State :=
  match (domOf s p.1).bind (·.tail) with
  | none => s
  | some t =>
    match ringAppend s p.1 t.ring 16 p.2.toNat with
    | some s1 => s1
    | none => countLost s core p.1 1

/-- The core buffers drain into the rings: done after every step. -/
def drainTails (s : State) : State :=
  s.cores.tailBuf.foldl (fun a e => e.2.foldl (drainPacket e.1) a) { s with cores := { s.cores with tailBuf := [] } }

/-- A domain's LOST packet for a core, once its ring has space, and SYNC packets of its tasks there. -/
def lostOne (s : State) (core asid : Nat) : State :=
  let k := core * 1024 + asid
  let n := tabGet 0 k s.cores.tailLost
  match (domOf s asid).bind (·.tail) with
  | none => { s with cores := { s.cores with tailLost := tabDel k s.cores.tailLost } }
  | some t =>
    let into := fun (a : Option State) (p : BitVec 128) => a.bind (fun b => ringAppend b asid t.ring 16 p.toNat)
    match (tailWords s core 0 7 (n % 2 ^ 32)).foldl into (some s) with
    | none => s
    | some s1 =>
      let s2 := { s1 with cores := { s1.cores with
        tailLost := tabDel k s1.cores.tailLost, tailLast := tabPut 0 core s1.clock s1.cores.tailLast } }
      (s2.tasks.filter (fun e => keyCore e.1 == core && e.2.asid == asid && !(decide (e.2.st = .ended)))).foldl
        (fun a e => tailSync a e.1 e.2.pc) s2

/-- TAIL_LOST_PACKET. -/
def execTailLostPacket (core : Nat) (s : State) : Host.Outcome State Fault Refusal :=
  event (((s.cores.tailLost.filter (fun e => e.1 / 1024 == core)).map (fun e => e.1 % 1024)).foldl
    (fun a asid => lostOne a core asid) s)

/-! ### Delay accounting and slice logging (R221, R222) -/

/-- The 64 bytes of an entry. -/
def AcctEntry.bytes (e : AcctEntry) : List Byte :=
  leBytes 2 e.sender ++ leBytes 2 0 ++ leBytes 4 e.count ++ leBytes 8 e.sumT ++ leBytes 8 e.sumQ ++ leBytes 8 e.sumR
    ++ leBytes 4 e.maxT ++ leBytes 4 e.maxQ ++ leBytes 4 e.maxR ++ leBytes 20 0

/-- ACCT: LEN gives the bytes of sender values in the buffer (log entry 33). -/
def execAcct (c : DebugCmd) (s : State) : Host.Outcome State Fault Refusal :=
  event (withSession s 0x09 c (answerOpen s c.session stDenied) (fun _ d =>
    if natBit c.arg.toNat 0 then
      if 32 < c.len.toNat || c.len.toNat % 2 ≠ 0 then answerOpen s c.session stBadArg
      else
        let b := physRead s.mem (hostAddr c.buf.toNat) c.len.toNat
        let es : List AcctEntry := (upTo (c.len.toNat / 2)).map (fun i => { sender := recField b (2 * i) 2 })
        answerOpen (modDom s c.asid (fun d => { d with acct := es })) c.session stOk
    else answerOpen (toBuffer s c.buf (cleanBytes (d.acct.foldr (fun e a => e.bytes ++ a) []))) c.session stOk))

/-- SLOG: the domain whose accesses match must lie in the session, as the one that holds the ring does. A filter with a Reserved bit
of 41:0 set (R3, R222) answers BAD_ARG and writes nothing, DESIGN CHOICE (log entry 98). -/
def execSlog (c : DebugCmd) (s : State) : Host.Outcome State Fault Refusal :=
  event (withSession s 0x0A c (answerOpen s c.session stDenied) (fun x _ =>
    let f := c.arg.toNat
    if f % 2 ^ 42 ≠ 0 then answerOpen s c.session stBadArg
    else
      let ok := !natBit f 63 || match domOf s (natBits f 43 10) with | some d => reaches s.hub.pkg x d | none => false
      if !ok then answerOpen s c.session stDenied
      else answerOpen (modSession s c.session (fun x => { x with
        slogFilter := c.arg, slogRing := c.addr.toNat, slogAsid := c.asid, slogSkip := 0 })) c.session stOk))

end Sys2Proof.Machine
end

