-- ==== Sys2Proof/Machine/Control.lean ====
section
/-!
DEFINITION. The control instructions (R260 to R267): targets and their checks (R226, R261), conditions (R262), and the
instructions.
-/

namespace Sys2Proof.Machine

/-- The line at an address as a transfer's BT check sees it (R226): the task's fetch buffer, the core's instruction
cache, or memory where it translates as executable, which a cached line that fails its check would be fetched from again
(R225); none where it does not translate or memory's copy fails too (the fetch itself then traps). -/
def targetLine (s : State) (key : Nat) (t : Task) (line : Nat) : Option (BitVec 512) :=
  let found : Option (BitVec 512) :=
    match t.fbuf with
    | some (a, l) => if a = line then some l else none
    | none => none
  match found with
  | some l => some l
  | none =>
    let good := fun (l : BitVec 512) (poi : Bool) => if !poi && parityOk l then some l else none
    match (icLookup s (keyCore key) t.asid line).bind (fun c => good c.data c.poisoned) with
    | some l => some l
    | none => match xlatFetch s (keyCore key) t.asid line with
      | .ok pa _ => good (BitVec.ofNat 512 (physNat s.mem pa 64)) (poisonAt s.mem.poison pa 64)
      | _ => none

/-- A target lies outside the address space, names no slot, or its slot's BT bit is clear (R226, R261). -/
def targetBad (s : State) (t : Task) (z : Int) : Bool :=
  if z < 0 || (2 ^ 57 : Int) ≤ z then true
  else
    let pc := BitVec.ofNat 64 z.toNat
    !pcForm pc || decide (5 ≤ pcSlot pc) ||
      match targetLine s s.cur t (pcLine pc) with
      | some l => !btBit l (pcSlot pc)
      | none => false

/-- DirectTarget (R261). -/
def directTarget (s : State) (t : Task) (f : FmtB) : Int :=
  (pcLine (ownPc s t) : Int) + 64 * f.loff.toInt + f.slot.toNat

/-- Transfer to a target that has been checked, or raise CONTROL. -/
def jumpTo (s0 s : State) (t : Task) (z : Int) : Eff :=
  if targetBad s0 t z then trapOf s0 .control else .goto s (BitVec.ofNat 64 z.toNat)

/-- CommitCheck of a conditional branch (R108, R262): CONTROL of a bad target, taken, has the lower rank (R169). -/
def checkedBranch (s : State) (t : Task) (poi taken : Bool) (z : Int) (go : Eff) : Eff :=
  if poi then (if taken && targetBad s t z then trapOf s .control else trapOf s .poisonConsumed) else go

/-- Lanes a mask condition covers (R262). -/
def condLanes (r : Regs) (f : FmtB) : Nat := if f.a = 0 then 512 else min (getS r f.a.toNat).toNat 512

/-- Cond (R262). -/
def condHolds (r : Regs) (f : FmtB) : Bool :=
  let v := getS r f.a.toNat
  let m := (getM r f.msk.toNat).toNat
  let n := condLanes r f
  match f.cc.toNat with
  | 0 => true
  | 1 => v == 0
  | 2 => v != 0
  | 3 => v.getLsbD 63
  | 4 => !v.getLsbD 63
  | 5 => m % 2 ^ n != 0
  | _ => m % 2 ^ n == 2 ^ n - 1

/-- Poison of what a condition tests (R108, R262). -/
def condPoison (r : Regs) (f : FmtB) : Bool :=
  (f.cc != 0 && poiS r f.a.toNat) || ((f.cc == 5 || f.cc == 6) && poiM r f.msk.toNat)

/-- `br` (R262). -/
def execBr (f : FmtB) (s : State) : Host.Outcome State Fault Refusal :=
  runIsa (.br f) s (fun t =>
    let r := srcRegs s t
    let taken := condHolds r f
    let s1 := if f.cc = 0 then s else tailOutcome s taken
    checkedBranch s t (condPoison r f) taken (directTarget s t f)
      (if taken then jumpTo s s1 t (directTarget s t f) else .ok s1))

/-- `jmp` (R262). -/
def execJmp (f : FmtB) (s : State) : Host.Outcome State Fault Refusal :=
  runIsa (.jmp f) s (fun t => jumpTo s s t (directTarget s t f))

/-- The state with NextPC in s62 (R263). -/
def linkTo (s : State) (t : Task) : State := writeS s 62 (nextPc s t) false latSalu

/-- `call` (R263). -/
def execCall (f : FmtB) (s : State) : Host.Outcome State Fault Refusal :=
  runIsa (.call f) s (fun t => jumpTo s (linkTo s t) t (directTarget s t f))

/-- `calli` (R263). -/
def execCalli (f : FmtB) (s : State) : Host.Outcome State Fault Refusal :=
  runIsa (.calli f) s (fun t =>
    let r := srcRegs s t
    let v := getS r f.a.toNat
    if targetBad s t v.toNat then trapOf s .control
    else if poiS r f.a.toNat then trapOf s .poisonConsumed
    else .goto (tailIndirect (linkTo s t) s.cur t.asid v 0) v)

/-- `ret` (R263): its target is not checked against BT. -/
def execRet (f : FmtB) (s : State) : Host.Outcome State Fault Refusal :=
  runIsa (.ret f) s (fun t =>
    let r := srcRegs s t
    let v := getS r f.a.toNat
    if !pcForm v || decide (5 ≤ pcSlot v) then trapOf s .control
    else if poiS r f.a.toNat then trapOf s .poisonConsumed
    else .goto (tailIndirect s s.cur t.asid v 0) v)

/-- `loop` (R264). -/
def execLoop (f : FmtB) (s : State) : Host.Outcome State Fault Refusal :=
  runIsa (.loop f) s (fun t =>
    let r := srcRegs s t
    let v := getS r f.a.toNat - 1
    let s1 := tailOutcome (writeS s f.a.toNat v false latSalu) (v != 0)
    checkedBranch s t (poiS r f.a.toNat) (v != 0) (directTarget s t f)
      (if v ≠ 0 then jumpTo s s1 t (directTarget s t f) else .ok s1))

/-- `end` (R265). -/
def execEndTask (f : FmtB) (s : State) : Host.Outcome State Fault Refusal :=
  runIsa (.endTask f) s (fun t =>
    if t.depth ≠ 0 || t.clean then trapOf s .illegalInstr
    else if !t.retry.isEmpty then .hold
    else .placed (endSlot (counted s) s.cur false false))

/-- `pfi` (R266): request lines into the instruction cache (R77). -/
def execPfi (f : FmtB) (s : State) : Host.Outcome State Fault Refusal :=
  runIsa (.pfi f) s (fun t =>
    let first : Int := (pcLine (ownPc s t) : Int) + 64 * f.loff.toInt
    .ok ((upTo (f.msk.toNat + 1)).foldl (fun a (j : Nat) =>
      let z : Int := first + 64 * j
      if z < 0 || (2 ^ 57 : Int) ≤ z then a
      else match xlatFetch a (keyCore s.cur) t.asid z.toNat with
        | .ok _ _ => icRequest a (keyCore s.cur) t.asid z.toNat
        | _ => a) s))

/-- `trap` (R267). -/
def execTrap (f : FmtB) (s : State) : Host.Outcome State Fault Refusal :=
  runIsa (.trap f) s (fun _ => trapOf s .software)

/-- `bpt` (R267); while the domain is being sealed it is deferred and the pre-emption proceeds (R184). -/
def execBpt (f : FmtB) (s : State) : Host.Outcome State Fault Refusal :=
  runIsa (.bpt f) s (fun t =>
    if t.preempt = 0x21 then
      .holdIn (modCur s (fun u => { u with deferredBp := some (ownPc s t), st := .preempting }))
    else trapOf s .breakpoint)

end Sys2Proof.Machine
end

