-- ==== Sys2Proof/Machine/Gates.lean ====
section
/-!
DEFINITION. The gates between domains (R149 to R168, R340, R341): `gcall`, `gret`, `gdone` and `dinfo`.
-/

namespace Sys2Proof.Machine

/-! ### Handles (R151) -/

/-- The adit a handle names, when the domain holds the grant, the entry is valid at that revision, and its publisher is
live. -/
def handleAdit (s : State) (asid : Nat) (h : Word) : Option (Nat × Adit) :=
  let ix := natBits h.toNat 0 16
  let rev := natBits h.toNat 16 16
  let granted := match domOf s asid with
    | some d => d.grants.any (fun g => g.index == ix && g.rev == rev && g.tag.toNat == natBits h.toNat 32 32)
    | none => false
  let a := tabGet {} ix s.hub.adits
  let live := match domOf s a.publisher with | some d => decide (d.state = .live) | none => false
  if granted && a.valid && a.rev == rev && live then some (ix, a) else none

/-! ### Windows (R156, R157) -/

/-- A memory window: its owner's depth, its base in the owner's space, length and permissions. -/
structure MemWin where
  depth : Nat
  base : Nat
  len : Nat
  perm : Nat
  deriving DecidableEq, Repr

/-- The memory window a `gcall` names by the pair at mw (R156); none where it breaks R156. -/
def memWindow (s : State) (t : Task) (r : Regs) (mw : Nat) : Option MemWin :=
  let base := (getS r mw).toNat
  let w := (getS r (mw + 1)).toNat
  let len := natBits w 0 48
  let perm := natBits w 48 2
  if base % 64 ≠ 0 || 2 ^ 57 ≤ base || natBits w 50 14 ≠ 0 || len = 0 || len % 64 ≠ 0 then none
  else if base < apertureBase then
    if base + len ≤ apertureBase then some { depth := t.depth, base := base, len := len, perm := perm } else none
  else if t.depth = 0 then none
  else
    let f := readFrame s t t.depth
    let o := base - apertureBase
    if f.wv && decide (o + len ≤ f.mwLen) && perm &&& f.mwPerm == perm then
      some { depth := f.wdep, base := f.mwBase + o, len := len, perm := perm }
    else none

/-- The register windows fit (R157). -/
def windowsFit (a : Adit) (t : Task) (f : FmtG) : Bool :=
  let vn := f.vn.toNat
  let sn := f.sn.toNat
  decide (vn ≤ a.vmax) && decide (sn ≤ a.smax) && decide (a.vneed ≤ t.vregs) && decide (f.vw.toNat + vn ≤ t.vregs)
    && !(decide (0 < sn) && f.sw == 0) && (sn == 0 || decide (f.sw.toNat + sn ≤ 64))

/-- The memory window fits (R157): none named, or one that keeps R156 within MWMAX and MPERM. -/
def windowOf (s : State) (a : Adit) (t : Task) (r : Regs) (f : FmtG) : Option (Option MemWin) :=
  if f.mw = 63 then some none
  else match memWindow s t r f.mw.toNat with
    | none => none
    | some w => if a.mwmax ≠ 0 && decide (w.len ≤ a.mwmax) && w.perm &&& a.mperm == w.perm then some (some w) else none

/-- Poison of the registers a `gcall` passes (R108). -/
def gatePoison (r : Regs) (vregs : Nat) (f : FmtG) : Bool :=
  poiS r f.h.toNat
    || (upTo f.vn.toNat).any (fun i => decide (f.vw.toNat + i < vregs) && poiV r (f.vw.toNat + i) != 0)
    || (upTo f.sn.toNat).any (fun i => decide (f.sw.toNat + i < 64) && poiS r (f.sw.toNat + i))
    || (f.mw != 63 && (poiS r f.mw.toNat || poiS r (f.mw.toNat + 1)))

/-- An adit is on a task's stack. -/
def aditOnStack (s : State) (t : Task) (ix : Nat) : Bool := (upTo t.depth).any (fun i => (readFrame s t (i + 1)).adit == ix)

/-! ### `gcall` (R157) -/

/-- A register of the task has not its value yet. -/
def registersOut (s : State) (t : Task) : Bool :=
  !t.retry.isEmpty || !t.arriving.isEmpty || t.pend.any (fun e => decide (s.clock < e.2))

/-- The end of a `gcall` that fails. -/
def gateFail (s : State) (t : Task) (f : FmtG) (code : Nat) : Eff :=
  .ok (writeS s f.st.toNat (statusWord code t.depth 0) false latSalu)

/-- The callee's registers (R155). -/
def calleeRegs (r : Regs) (f : FmtG) : Regs :=
  let r1 := (upTo f.vn.toNat).foldl (fun a i => putV a i (getV r (f.vw.toNat + i)) 0) ({} : Regs)
  (upTo f.sn.toNat).foldl (fun a i => putS a (i + 1) (getS r (f.sw.toNat + i)) false) r1

/-- Entries of a log, one after the other, each with room for it. -/
def withLogs (s : State) (t : Task) : List Nat → (State → Eff) → Eff
  | [], go => go s
  | a :: rest, go => withRoom s t a ((rest.filter (· == a)).length + 1) 0 (fun s1 => withLogs s1 t rest go)

/-- GateCall past its checks: the frame, the seal block and the markers, and the callee's state (R153 to R157). -/
def gateEnter (s : State) (t : Task) (f : FmtG) (ix : Nat) (a : Adit) (win : Option MemWin) (sealVa : Nat) : State :=
  let r := srcRegs s t
  let k := t.depth + 1
  let marker := aditEntry t.wtag.toNat a.entry.toNat t.id.gtid k ix
  let c := if a.logged then logAppend s a.publisher [marker] else (s, 0)
  let w := match win with
    | some w => if a.logged && natBit w.perm 1 then logAppend c.1 (domAtDepth s t w.depth) [marker] else (c.1, 0)
    | none => (c.1, 0)
  let fr : Frame :=
    { caller := t.asid, depth := k, logged := a.logged, rewindOk := a.rewindOk, reentrant := a.reentrant, adit := ix
      rev := a.rev, retPc := nextPc s t, fs := t.fs, srs := t.srs, budget := BitVec.ofNat 64 (countWord t.budget), vw := f.vw.toNat
      vn := f.vn.toNat, sw := f.sw.toNat, sn := f.sn.toNat, st := f.st.toNat, mw := f.mw.toNat
      mwBase := (win.map (·.base)).getD 0, mwLen := (win.map (·.len)).getD 0, mwPerm := (win.map (·.perm)).getD 0
      sealVa := sealVa, markC := c.2, markW := w.2, acqBits := acqMap t.acq (fun _ => true), wdep := (win.map (·.depth)).getD 0
      wv := win.isSome }
  let s1 := writeFrame w.1 t k fr
  let s2 := writeSeal s1 t.asid sealVa (zeroWindow r f.vw.toNat f.vn.toNat f.sw.toNat f.sn.toNat) t.vregs
  let s3 := modTask (detachAccesses s2 s.cur) s.cur (fun u => { u with
    regs := calleeRegs r f, fs := 0, fsPoi := false, srsPoi := false
    srs := BitVec.ofNat 64 (seedSR (t.id.gtid.toNat ^^^ (k * 2 ^ 32))), asid := a.publisher, depth := k, pc := a.entry
    entryCheck := true, fbuf := none, tagMarks := tabPut 0 k u.jobTags.length u.tagMarks })
  tailIndirect (enterMove s3 s.cur) s.cur t.asid a.entry 1

/-- GateCall with its adit and windows checked: a free seal block, the pinned areas, and room in the logs. -/
def gatePush (s : State) (t : Task) (f : FmtG) (ix : Nat) (a : Adit) (win : Option MemWin) : Eff :=
  if (!a.reentrant && aditOnStack s t ix) then gateFail s t f 5
  else match sealTake s t.asid with
    | none => gateFail s t f 5
    | some (va, _) =>
      if replaying s a.publisher && t.asid != a.publisher then
        .holdIn (modCur s (fun u => { u with st := .inCall, moveUntil := s.clock }))
      else match (pinnedFault s t.home (frameVa s t (t.depth + 1)) 256).or (pinnedFault s t.asid va sealLen) with
        | some bad => .pinned s bad
        | none =>
          let h := (getS (srcRegs s t) f.h.toNat).toNat
          let eff := if a.rewindOk then [] else [t.asid]
          let marks := if !a.logged then []
            else a.publisher :: (match win with
              | some w => if natBit w.perm 1 then [domAtDepth s t w.depth] else []
              | none => [])
          let go : Eff := withLogs s t (eff ++ marks) (fun s1 =>
            let s2 := if a.rewindOk then s1
              else (logAppend s1 t.asid [irrevocableEntry t.wtag.toNat 0 t.id.gtid (ownIcount s t) 4 h]).1
            match sealTake s2 t.asid with
            | none => .hold
            | some (va, s3) => .placed (gateEnter (counted s3) t f ix a win va))
          if a.rewindOk then go else effectGate s t.asid go

/-- `gcall`. -/
def execGcall (f : FmtG) (s : State) : Host.Outcome State Fault Refusal :=
  runIsa (.gcall f) s (fun t =>
    let r := srcRegs s t
    if registersOut s t then .hold
    else if gatePoison r t.vregs f then trapOf s .poisonConsumed
    else if t.handler || t.clean then trapOf s .gateState
    else if t.depth = 8 then gateFail s t f 5
    else match handleAdit s t.asid (getS r f.h.toNat) with
      | none => gateFail s t f 4
      | some (ix, a) =>
        match stackPinned s t, windowOf s a t r f with
        | some bad, _ => .pinned s bad
        | none, none => gateFail s t f 6
        | none, some win => if windowsFit a t f then gatePush s t f ix a win else gateFail s t f 6)

/-! ### `gret` (R159) -/

/-- GateReturn past its checks. -/
def gateLeave (s : State) (t : Task) : State :=
  let k := t.depth
  let f := readFrame s t k
  let r := t.regs
  let r0 := readSeal s f.caller f.sealVa t.vregs
  let r1 := (upTo f.vn).foldl (fun a i => putV a (f.vw + i) (getV r i) 0) r0
  let r2 := (upTo f.sn).foldl (fun a i => putS a (f.sw + i) (getS r (i + 1)) false) r1
  let r3 := putS r2 f.st (statusWord 0 k 0) false
  let s1 := writeFrame (sealFree (hubCounts s f.caller f.sealVa sealLen) f.caller f.sealVa) t k { f with wv := false, wdep := 0 }
  let s2 := modTask (detachAccesses s1 s.cur) s.cur (fun u => { u with
    regs := r3, fs := f.fs, fsPoi := false, srs := f.srs, srsPoi := false, asid := f.caller, depth := k - 1, pc := f.retPc
    fbuf := none, jobTags := (leaveTags u k).jobTags, tagMarks := (leaveTags u k).tagMarks })
  tailIndirect (enterMove s2 s.cur) s.cur t.asid f.retPc 2

/-- `gret`. -/
def execGret (f : FmtG) (s : State) : Host.Outcome State Fault Refusal :=
  runIsa (.gret f) s (fun t =>
    if t.depth = 0 || t.handler || t.clean then trapOf s .gateState
    else if registersOut s t || jobsInFlight s t.id.gtid t.depth then .hold
    else match pinnedFault s t.home (frameVa s t t.depth) 256 with
    | some bad => .pinned s bad
    | none =>
      let fr := readFrame s t t.depth
      let r := srcRegs s t
      if (upTo fr.vn).any (fun i => poiV r i != 0) || (upTo fr.sn).any (fun i => poiS r (i + 1)) then
        trapOf s .poisonConsumed
      else if t.acq.any (fun e => e.depth == t.depth) then trapOf s .gateState
      else match pinnedFault s fr.caller fr.sealVa sealLen with
        | some bad => .pinned s bad
        | none => .placed (gateLeave (counted s) t))

/-! ### `gdone` and `dinfo` (R340, R341) -/

/-- `gdone`. -/
def execGdone (f : FmtG) (s : State) : Host.Outcome State Fault Refusal :=
  runIsa (.gdone f) s (fun t =>
    if t.clean then .placed (endCleanup (counted s) s.cur (if t.handler then 3 else 1))
    else if t.handler && decide (0 < t.depth) then
      match pinnedFault s t.asid (trapFrameVa s t.asid s.cur) 256 with
      | some bad => .pinned s bad
      | none => .placed (beginAbort (counted s) s.cur
        { j := t.depth, why := 3, cause := natBits (frameWord s t s.cur 3).toNat 0 8 })
    else trapOf s .gateState)

/-- The value a `dinfo` selector names. -/
def dinfoValue (s : State) (t : Task) (imm : Nat) (h : Word) : Word :=
  match domOf s t.asid with
  | none => 0
  | some d =>
    if imm = 0 then d.flags
    else if imm ≤ 4 then BitVec.ofNat 64 (natBits d.cred.toNat (64 * (imm - 1)) 64)
    else if imm = 5 then
      match handleAdit s t.asid h with
      | none => 0
      | some (_, a) =>
        BitVec.ofNat 64 (2 ^ 63 + a.publisher + 2 ^ 16 * boolNat a.logged + 2 ^ 17 * boolNat a.rewindOk
          + 2 ^ 18 * boolNat a.reentrant)
    else BitVec.ofNat 64 (natBits d.meas.toNat (64 * (imm - 6)) 64)

/-- `dinfo`. -/
def execDinfo (f : FmtG) (s : State) : Host.Outcome State Fault Refusal :=
  runIsa (.dinfo f) s (fun t =>
    let r := srcRegs s t
    if f.imm = 5 && poiS r f.h.toNat then trapOf s .poisonConsumed
    else .ok (writeS s f.st.toNat (dinfoValue s t f.imm.toNat (getS r f.h.toNat)) false latSalu))

end Sys2Proof.Machine
end

