-- ==== Sys2Proof/Machine/Links.lean ====
section
/-!
DEFINITION. What arrives over the links from agents outside the part (R14, R37, R45, R126): writes of the host and of
the supervisor, and the transactions of UALink peers.
-/

namespace Sys2Proof.Machine

/-- No core's L1 keeps a copy of the lines `n` bytes from `pa` cover (R99). -/
def dropCopies (s : State) (pa n : Nat) : State :=
  let drop := fun (ls : List L1Line) => ls.filter (fun x => !overlaps (128 * x.line) 128 pa n)
  { s with cores := { s.cores with
      l1 := (s.cores.l1.map (fun e => (e.1, drop e.2))).filter (fun e => !e.2.isEmpty) } }

/-- Bytes arriving at physical address `pa`, with a poison indication or clean; those of an unbacked range are dropped (R90).
Metadata written to the carve-out replaces what travels with the line.
The spec does not say what becomes of a write to HBM that arrives between a reset and WIPE_COMPLETE: the model, which zeroes
HBM at the reset, keeps it: DESIGN CHOICE (log entry 78). -/
def arriveAt (s : State) (pa : Nat) (bs : List Byte) (poi : Bool) : State :=
  if unbacked pa then s
  else
    let umbra := s.mem.umbra.filter (fun e => match metaAddr s.mem (128 * e.1) with
      | some a => !overlaps a 8 pa bs.length
      | none => true)
    dropCopies { s with mem := { physWrite s.mem pa bs poi with umbra := umbra } } pa bs.length

/-- Of the 64-byte blocks that `n` bytes from `pa` touch, the address of number `k` (modulo how many there are). -/
def blockAt (pa n k : Nat) : Nat := 64 * (pa / 64 + k % ((pa + n - 1) / 64 - pa / 64 + 1))

/-- The check value of a block did not match (R37): its four granules are poisoned, and the mismatch counts. -/
def poisonBlock (s : State) (pa : Nat) : State :=
  crcMismatch { s with mem := { s.mem with
    poison := (upTo 4).foldl (fun m i => tabPut false (4 * (pa / 64) + i) true m) s.mem.poison } }

/-- A write of the host or the supervisor is performed. What the supervisor writes for a domain is kept under its pair (R46); a
code or `.adit` image it maps for the domain extends that domain's measurement (R45). -/
def hostStore (s : State) (h : HostStore) : State :=
  let image := if h.bySupervisor then h.image else none
  let s0 := match image.or (if h.bySupervisor then h.asid else none) with
    | some asid => claimRuns s asid [(h.pa, h.bytes)]
    | none => s
  let s1 := arriveAt s0 h.pa h.bytes false
  let s2 := if h.crcBad && !unbacked h.pa then poisonBlock s1 (blockAt h.pa h.bytes.length h.block) else s1
  match image with
  | some asid => extendMeas s2 asid h.bytes
  | none => s2

/-- HOST_WRITE. -/
def execHostWrite (h : HostStore) (s : State) : Host.Outcome State Fault Refusal := event (hostStore s h)

/-! ### The part as a UALink completer (R14) -/

/-- Where answers to UALink peers stand in `Hub.linkOut`. -/
def uaAnswerPort : Nat := 65536

/-- An answer: the poison indication, then the data (R37). -/
def uaAnswer (s : State) (poi : Bool) (bs : List Byte) : State :=
  modHub s (fun h => { h with linkOut := (uaAnswerPort, leBytes 1 (boolNat poi) ++ bs) :: h.linkOut })

/-- An atomic of a peer: the value read is answered, and the new one, if any, is written, poisoned when the value read or the
operand is (R107). -/
def uaAtomic (s : State) (u : UaRequest) (new : Nat → Option Nat) : State :=
  let old := physNat s.mem u.pa u.size
  let poi := poisonAt s.mem.poison u.pa u.size
  let s1 := uaAnswer s poi (leBytes u.size old)
  match new old with
  | some v => arriveAt s1 u.pa (leBytes u.size v) (poi || u.poisoned)
  | none => s1

/-- A transaction on device memory, its check values matching. -/
def uaServe (s : State) (u : UaRequest) : State :=
  match u.kind with
  | .read => uaAnswer s (poisonAt s.mem.poison u.pa u.size) (physRead s.mem u.pa u.size)
  | .write => uaAnswer (arriveAt s u.pa u.bytes u.poisoned) false []
  | .fetchAdd => uaAtomic s u (fun o => some ((o + u.operand.toNat) % 2 ^ (8 * u.size)))
  | .swap => uaAtomic s u (fun _ => some (u.operand.toNat % 2 ^ (8 * u.size)))
  | .cas => uaAtomic s u (fun o => if o = u.compare.toNat % 2 ^ (8 * u.size) then
      some (u.operand.toNat % 2 ^ (8 * u.size)) else none)
  | .coherence => uaAnswer (dropCopies s u.pa u.size) false []

/-- A transaction of a peer (R14). One that names no HBM address is answered with no data. A block whose check value fails is
poisoned: as what arrived where the peer writes, as what HBM held where it reads (R37). -/
def uaPerform (s : State) (u : UaRequest) : State :=
  let n := max u.size u.bytes.length
  if hbmEnd < u.pa + n then uaAnswer s false []
  else
    let bad := fun (s : State) => if u.crcBad then poisonBlock s (blockAt u.pa n u.block) else s
    if u.kind = .write then bad (uaServe s u) else uaServe (bad s) u

/-- UALINK_COMPLETER_REQUEST. -/
def execUalinkCompleterRequest (u : UaRequest) (s : State) : Host.Outcome State Fault Refusal := event (uaPerform s u)

end Sys2Proof.Machine
end

