-- ==== Sys2Proof/Machine/Rewind.lean ====
section
/-!
DEFINITION. REWIND, REPLAY, STEPBACK and RELEASE (R198 to R203, R354, R364), and how a replay ends (R201).
-/

namespace Sys2Proof.Machine

/-! ### What the commands require (R198, R364) -/

/-- A task of any domain stands at a depth in this one (R198). -/
def atDepthIn (s : State) (asid : Nat) : Bool := (allTasks s).any (fun t => ((stackDoms s t).drop 1).contains asid)

/-- The domain is stopped: none of its tasks can issue (its log or a replay has stopped it, or every one has ended or is
saved and withheld), none of its engine jobs is in flight, and no task of any domain stands at a depth in it. -/
def domainQuiet (s : State) (asid : Nat) : Bool :=
  match domOf s asid with
  | none => false
  | some d =>
    (d.logStopped || ((domTasks s asid).all (fun e => e.2.st = .ended) && (domSaved s asid).all (fun e => e.2.withheld)))
      && !domJobs s asid && !atDepthIn s asid

/-- A task of the domain is at depth 1 or more. -/
def activeCall (s : State) (asid : Nat) : Bool := (allTasks s).any (fun t => t.home == asid && t.depth != 0)

/-- The end of the recorded history: NEXTSEQ, or HISTEND in a replay (R199). -/
def rangeEnd (c : LogCtl) : Nat := if c.state = 2 then c.histEnd else c.nextSeq

/-- Entries from the head to the end of the recorded history. -/
def rangeLen (c : LogCtl) : Nat := (rangeEnd c + seqMod - c.headSeq) % seqMod

/-- The entry at a distance from the head. -/
def entryAt (s : State) (asid : Nat) (c : LogCtl) (i : Nat) : Entry := readEntry s asid c ((c.headSeq + i) % seqMod)

/-- The entries at distances from `d` up to the end. -/
def rangeEntries (s : State) (asid : Nat) (c : LogCtl) (d : Nat) : List Entry :=
  (upTo (rangeLen c - d)).map (fun i => entryAt s asid c (d + i))

/-! ### REWIND (R199, R200) -/

/-- The stop list's bytes: every task resident or saved with its count, and those that have ended with their final one, in
ascending GTID order (R201). -/
def stopBytes (s : State) (asid : Nat) : List Byte :=
  let c := readLog s asid
  let ended : SMap (Nat × Nat) := match domOf s asid with
    | some d => d.ended.filter (fun e => decide (c.oldBench ≤ e.2.2))
    | none => []
  let all : SMap Nat := ((allTasks s).filter (fun t => t.home == asid && !(decide (t.st = .ended)))).foldl
    (fun m t => tabSet t.id.gtid.toNat t.icount m) (ended.map (fun e => (e.1, e.2.1)))
  leBytes 4 all.length ++ leBytes 4 0 ++ all.foldr (fun e a => leBytes 8 e.1 ++ leBytes 8 e.2 ++ a) []

/-- Write the stop list, on leaving LIVE, to a free area of the save pool (R183, R201). -/
def stopList (s : State) (asid : Nat) : Saving :=
  let c := readLog s asid
  if c.state = 2 then .done s c.stopList
  else
    let b := stopBytes s asid
    match savePoolTake s asid b.length with
    | none => .noRoom
    | some (va, s1) =>
      match pinnedFault s asid va b.length with
      | some bad => .pinned bad
      | none => .done (writeLog (vwrite s1 asid va b) asid { c with stopList := va, histEnd := c.nextSeq }) va

/-- The first address of a snapshot list that is not valid, writable and PIN (R182). -/
def listPinned (s : State) (asid list : Nat) : Option Nat :=
  if list = 0 then none
  else (pinnedFault s asid list 16).or (pinnedFault s asid list
    (16 + 16 * vreadNat s asid (list + 4) 4 + 32 * (vreadNat s asid (list + 8) 4 + vreadNat s asid (list + 12) 4)))

/-- Write an entry's old bytes back; its lines on BOUND and ATOMIC pages become CLEAN (R199). -/
def rewindEntry (asid : Nat) (s : State) (e : Entry) : State :=
  if !restores e then s
  else
    let s1 := restoreEntry s asid e
    match writePlaces s1 asid e.va e.len with
    | some ps => { s1 with mem := cleanLines s1.mem ps }
    | none => s1

/-- The slot of a task that is discarded is free, its window zero, its accesses and retry entries gone. -/
def discardTask (s : State) (key : Nat) : State :=
  match taskAt s key with
  | none => s
  | some t =>
    let s1 := voidEntries s key 0
    let s2 := modHub s1 (fun h => { h with accesses := h.accesses.filter (fun e => e.2.slot != key) })
    let s3 := if t.scratch = 0 then s2
      else { s2 with cores := wipeWindow s2.cores (keyCore key) t.sbase (4096 * scratchUnits t.scratch) }
    releaseSlot s3 key t

/-- Every task, message, launch and graph walker of a domain is discarded. -/
def discardWork (s : State) (asid : Nat) : State :=
  let s1 := ((domTasks s asid).map (·.1)).foldl discardTask s
  let s2 := ((domSaved s1 asid).map (·.1)).foldl dropSaved s1
  modHub (dropMsgs s2 (fun m => m.asid == asid)) (fun h => { h with
    launches := h.launches.filter (fun e => e.2.asid != asid)
    walkers := h.walkers.filter (fun e => e.2.asid != asid) })

/-- A restored piece of work hangs under its job only when it had not finished meanwhile: a job counts an item once. -/
def keepParent (was : Bool) : Parent → Parent
  | .job j => if was then .job j else .none
  | p => p

/-- The domain's first die with a live core. -/
def firstDie (s : State) (asid : Nat) : Nat := ((upTo 4).find? (fun d => !noCoresOn s asid d)).getD 0

/-- Restore a saved task of a snapshot; its area stays the snapshot's. One whose area is not pinned is not read: its task meets
that when it resumes (R182). -/
def restoreTask (asid va : Nat) (s : State) : State :=
  match tabFind (asid * 2 ^ 57 + va) s.hub.snaps with
  | none => s
  | some t =>
    let (id, s1) := freshId s
    let u := if (pinnedFault s asid va (saveBody t)).isSome then t else loadTask (readArea s1 asid va t) t
    let sv : Saved :=
      { task := { u with
          st := .ready, preempt := 0, withhold := false, mon := none, feWait := none, waitSince := 0, pend := [],
          arriving := [], retry := [], fbuf := none, jobTags := [] }
        addr := va, area := asid, cause := 0, order := id, die := firstDie s asid, keep := true }
    modHub s1 (fun h => { h with saved := tabSet id sv h.saved })

/-- Restore the snapshot list of a bench (R196, R199); `live` and `walking` are the launches and walkers that had not
finished at the REWIND. -/
def restoreList (s : State) (asid list : Nat) (live walking : List Nat) : State :=
  if list = 0 then s
  else
    let nt := vreadNat s asid (list + 4) 4
    let nl := vreadNat s asid (list + 8) 4
    let ng := vreadNat s asid (list + 12) 4
    let s1 := (upTo nt).foldl (fun a i => restoreTask asid (vreadNat a asid (list + 24 + 16 * i) 8) a) s
    let at0 := asid * 2 ^ 57 + list + 16 + 16 * nt
    let ls := (upTo nl).filterMap (fun i => tabFind (at0 + 32 * i) s.hub.snapLaunches)
    let ws := (upTo ng).filterMap (fun i => tabFind (at0 + 32 * (nl + i)) s.hub.snapWalkers)
    modHub s1 (fun h => { h with
      launches := ls.foldl (fun m e =>
        tabSet e.1 { e.2 with cancelled := false, recorded := true, parent := keepParent (live.contains e.1) e.2.parent } m) h.launches
      walkers := ws.foldl (fun m e =>
        tabSet e.1 { e.2 with parent := keepParent (walking.contains e.1) e.2.parent } m) h.walkers })

/-- The work of a REWIND that passes its checks, to the BENCH entry at distance `d` of bench n. -/
def rewindTo (s : State) (asid n d : Nat) : State :=
  let c := readLog s asid
  let list := recField (entryAt s asid c d).body 8 8
  let s1 := ((rangeEntries s asid c (d + 1)).reverse).foldl (rewindEntry asid) s
  let live := (domLaunches s1 asid).map (·.1)
  let walking := (s1.hub.walkers.filter (fun e => e.2.asid == asid)).map (·.1)
  let s2 := restoreList (discardWork s1 asid) asid list live walking
  let s3 := writeLog s2 asid { readLog s2 asid with curBench := n, state := 2 }
  modDom s3 asid (fun dm => { dm with
    logStopped := true, halted := false, replay := none, rewound := true, benchQ := []
    replayFrom := (c.headSeq + d) % seqMod, replayDone := []
    ended := dm.ended.filter (fun e => decide (e.2.2 < n)), serial := tabGet dm.serial n dm.benchSerial })

/-- What REWIND n comes to: a refusal with its VALUE, no room yet for the stop list, or the state rewound with the
IRREVOCABLE entries of the range. -/
inductive Rewound where
  | refused (status value : Nat)
  /-- A page of the save pool that it needs is not valid, writable and PIN (R182). -/
  | pinned (va : Nat)
  | waits
  | done (s : State) (irr : List Entry)

/-- REWIND n (R198, R199). -/
def rewind (s : State) (asid n : Nat) (force : Bool) : Rewound :=
  let c := readLog s asid
  if !domainQuiet s asid then .refused stNotStopped 0
  else if activeCall s asid then .refused stActiveCall 0
  else match (if c.curBench < n then none else benchDist s asid c n (rangeLen c + 1) 0) with
    | none => .refused stNoBench 0
    | some d =>
      let es := rangeEntries s asid c d
      let irr := es.filter (fun e => e.kind == kIrrevocable)
      if !irr.isEmpty && !force then .refused stIrrevocable irr.length
      else if es.any (fun e => restores e && !restorable s asid e.va e.len) then .refused stNotMapped irr.length
      else match listPinned s asid (recField (entryAt s asid c d).body 8 8), stopList s asid with
        | some va, _ => .pinned va
        | none, .pinned va => .pinned va
        | none, .noRoom => .waits
        | none, .done s1 _ => .done (rewindTo s1 asid n d) irr

/-- A REWIND that finds the save pool unpinned: the access does not happen, and the notice is written. There is no task that needed
it, and the command answers NOT_MAPPED, DESIGN CHOICE (log entry 75). -/
def rewindPinned (s : State) (c : DebugCmd) (va : Nat) : State :=
  answer (notify s { kind := 1, code := 2, asid := c.asid, gtid := 0, addr := va, pc := 0 }) c.session stNotMapped 0

/-- The entries REWIND with FORCE copies to the buffer: 64 bytes each, oldest first, up to a capacity. -/
def irrBytes (es : List Entry) (cap : Nat) : List (Byte × Bool) :=
  (es.take cap).foldr (fun e a =>
    cleanBytes (leBytes 8 (e.va + 2 ^ 57 * e.kind) ++ leBytes 8 (e.tag + 2 ^ 24 * e.len + 2 ^ 30 * e.seq))
      ++ (fitBytes 48 e.body).zipIdx.map (fun b => (b.1, (e.poi[b.2]?).getD false)) ++ a) []

/-- A REWIND whose operands are legal; without room for its stop list the command waits (R201). -/
def rewindNow (s : State) (c : DebugCmd) : State :=
  let force := natBit c.len.toNat 0
  match rewind s c.asid c.arg.toNat force with
  | .refused st v => answer s c.session st v
  | .pinned va => rewindPinned s c va
  | .waits => modSession s c.session (fun x => { x with busy := some (.rewinding c) })
  | .done s1 irr =>
    let s2 := if force then toBuffer s1 c.buf (irrBytes irr (c.len.toNat / 2 ^ 32)) else s1
    answer s2 c.session stOk irr.length

/-- REWIND. -/
def execRewind (c : DebugCmd) (s : State) : Host.Outcome State Fault Refusal :=
  event (withSession s 0x10 c (answer s c.session stDenied 0) (fun _ _ =>
    if cmdSpare c || c.gtid ≠ 0 || c.addr ≠ 0 || decide (2 ^ 32 ≤ c.arg.toNat) || natBits c.len.toNat 1 31 != 0 then
      answer s c.session stBadArg 0
    else rewindNow s c))

/-! ### REPLAY (R201) -/

/-- The instruction count of a task of a domain, resident, saved or ended. -/
def taskCount (s : State) (asid : Nat) (gtid : Word) : Option Nat :=
  match (allTasks s).find? (fun t => t.home == asid && t.id.gtid == gtid) with
  | some t => some t.icount
  | none => ((domOf s asid).bind (fun d => tabFind gtid.toNat d.ended)).map (·.1)

/-- Start a replay to a target. One whose count already exceeds the target's cannot reach it. -/
def startReplay (s : State) (c : DebugCmd) (gtid : Word) (count : Nat) (force : Bool) : State :=
  match taskCount s c.asid gtid with
  | some n =>
    if count < n then answer s c.session stNotReached 0 else go s
  | none => go s
where
  /-- The domain runs, and the session waits. -/
  go (s : State) : State :=
    modSession (runDomain s c.asid (some { gtid := gtid, count := count, force := force, session := c.session }))
      c.session (fun x => { x with busy := some (.replaying c.asid), value := 0 })

/-- REPLAY: refused where the domain is not stopped, and with NO_BENCH where no REWIND has restored a bench. -/
def execReplay (c : DebugCmd) (s : State) : Host.Outcome State Fault Refusal :=
  event (withSession s 0x11 c (answer s c.session stDenied 0) (fun _ _ =>
    if cmdSpare c || c.addr ≠ 0 || c.len.toNat / 2 ≠ 0 || c.buf ≠ 0 then answer s c.session stBadArg 0
    else if !domainQuiet s c.asid then answer s c.session stNotStopped 0
    else if !replaying s c.asid then answer s c.session stNoBench 0
    else startReplay s c c.gtid c.arg.toNat (natBit c.len.toNat 0)))

/-- The count a stop list names for each task. -/
def stopCounts (s : State) (asid : Nat) : List (Word × Nat) :=
  let va := (readLog s asid).stopList
  (upTo (vreadNat s asid va 4)).map (fun i =>
    (BitVec.ofNat 64 (vreadNat s asid (va + 8 + 16 * i) 8), vreadNat s asid (va + 16 + 16 * i) 8))

/-- Every listed task has reached its count, or has ended. -/
def historyReached (s : State) (asid : Nat) : Bool :=
  (stopCounts s asid).all (fun e => match taskCount s asid e.1 with | some n => decide (e.2 ≤ n) | none => false)

/-- The domain replays to the end of its history, and the task has come to its stop: it issues nothing more until the
others have too, when the log takes entries again; nor does one that had not run when the history ended (R201). -/
def replayHeld (s : State) (t : Task) : Bool :=
  match (domOf s t.home).bind (·.replay) with
  | some g => g.toEnd && !(stopCounts s t.home).any (fun e => e.1 == t.id.gtid && decide (t.icount < e.2))
  | none => false

/-- A replay stops between the two instructions of the group a task is at: its target, or the task's stop in a replay to the
end of history, is the count after the first (R201). -/
def replayCuts (s : State) (t : Task) : Bool :=
  match (domOf s t.home).bind (·.replay) with
  | none => false
  | some g =>
    if g.toEnd then (stopCounts s t.home).any (fun e => e.1 == t.id.gtid && e.2 == t.icount + 1)
    else g.gtid == t.id.gtid && g.count == t.icount + 1

/-- A replay whose goal has been reached ends: with OK at its target, in STATE LIVE at the end of history. Done after every
step. -/
def replaysDone (s : State) : State :=
  s.hub.doms.foldl (fun a e => match e.2.replay with
    | none => a
    | some g =>
      if g.toEnd then (if historyReached a e.1 then leaveReplay a e.1 else a)
      else match taskCount a e.1 g.gtid with
        | some n => if g.count ≤ n then replayHalt a e.1 stOk else a
        | none => a) s

/-- No task of the domain can go on: every one is ended or withheld, and none is left to dispatch. -/
def nothingRuns (s : State) (asid : Nat) : Bool :=
  (domTasks s asid).all (fun e => e.2.st = .ended) && (domSaved s asid).all (fun e => e.2.withheld)
    && (domLaunches s asid).all (fun e => e.2.started && undispatched e.2 == 0)
    && !s.hub.msgs.any (fun e => e.2.asid == asid && decide (e.2.kind ≠ .user))
    && !s.cores.inbox.any (fun b => b.2.any (fun m => m.asid == asid && decide (m.kind ≠ .user)))
    && (domWalkers s asid).isEmpty

/-- REPLAY_STOP: a replay that can go no further ends with NOT_REACHED. -/
def execReplayStop (asid : Nat) (s : State) : Host.Outcome State Fault Refusal :=
  match (domOf s asid).bind (·.replay) with
  | none => event s
  | some _ => if nothingRuns s asid then event (replayHalt s asid stNotReached) else event s

/-! ### STEPBACK and RELEASE (R203) -/

/-- The count of a task in the snapshot of the bench whose BENCH entry is `e`; 0 where it is not in it. -/
def snapCount (s : State) (asid : Nat) (e : Entry) (gtid : Word) : Nat :=
  let list := recField e.body 8 8
  if list = 0 then 0
  else
    let nt := vreadNat s asid (list + 4) 4
    match (upTo nt).find? (fun i => vreadNat s asid (list + 16 + 16 * i) 8 == gtid.toNat) with
    | some i => vreadNat s asid (vreadNat s asid (list + 24 + 16 * i) 8 + 1680) 8
    | none => 0

/-- The newest retained bench whose snapshot precedes a count of a task. -/
def benchBefore (s : State) (asid : Nat) (gtid : Word) (count : Nat) : Option Nat :=
  let c := readLog s asid
  ((rangeEntries s asid c 0).reverse.find? (fun e =>
    e.kind == kBench && decide (recField e.body 0 4 ≤ c.curBench) && decide (snapCount s asid e gtid ≤ count))).map
    (fun e => recField e.body 0 4)

/-- A STEPBACK whose operands are legal: a REWIND, which may wait, then a REPLAY. -/
def stepbackNow (s : State) (c : DebugCmd) : State :=
  if !domainQuiet s c.asid then answer s c.session stNotStopped 0
  else match (allTasks s).find? (fun t => t.home == c.asid && t.id.gtid == c.gtid) with
    | none => answer s c.session stBadArg 0
    | some t =>
      let k := c.arg.toNat
      match (if t.icount < k then none else benchBefore s c.asid c.gtid (t.icount - k)) with
      | none => answer s c.session stNoBench 0
      | some n =>
        match rewind s c.asid n false with
        | .refused st _ => answer s c.session st 0
        | .pinned va => rewindPinned s c va
        | .waits => modSession s c.session (fun x => { x with busy := some (.stepping c) })
        | .done s1 _ => startReplay s1 c c.gtid (t.icount - k) false

/-- STEPBACK. -/
def execStepback (c : DebugCmd) (s : State) : Host.Outcome State Fault Refusal :=
  event (withSession s 0x12 c (answer s c.session stDenied 0) (fun _ _ =>
    if cmdSpare c || c.addr ≠ 0 || c.len ≠ 0 || c.buf ≠ 0 then answer s c.session stBadArg 0 else stepbackNow s c))

/-- REWIND and STEPBACK commands that wait try again: done after every step. -/
def rewindsDone (s : State) : State :=
  s.hub.sessions.foldl (fun a e => match e.2.busy with
    | some (.rewinding c) => rewindNow (modSession a e.1 (fun x => { x with busy := none })) c
    | some (.stepping c) => stepbackNow (modSession a e.1 (fun x => { x with busy := none })) c
    | _ => a) s

/-- RELEASE n, in any state; VALUE is the new OLDBENCH. -/
def execRelease (c : DebugCmd) (s : State) : Host.Outcome State Fault Refusal :=
  event (withSession s 0x13 c (answer s c.session stDenied 0) (fun _ _ =>
    if cmdSpare c || c.gtid ≠ 0 || c.addr ≠ 0 || c.len ≠ 0 || c.buf ≠ 0 || decide (2 ^ 32 ≤ c.arg.toNat) then
      answer s c.session stBadArg 0
    else match releaseBench s c.asid c.arg.toNat with
      | none => answer s c.session stNoBench 0
      | some s1 => answer s1 c.session stOk (readLog s1 c.asid).oldBench))

end Sys2Proof.Machine
end

