-- ==== Sys2Proof/Machine/Scalar.lean ====
section
/-!
DEFINITION. The scalar instructions (R255 to R259). Each value is a function of the registers at issue; each meaning
writes it with its latency class and the poison of every register read.
-/

namespace Sys2Proof.Machine

/-! ### Values (R256 to R258) -/

/-- Shift count: Uv(B) mod Wd. -/
def shiftN (r : Regs) (f : FmtS) : Nat := uB r f % sWidth f.w

/-- Sum or difference, wrapping, clamped signed or clamped unsigned by `fn`. -/
def addSubVal (r : Regs) (f : FmtS) (sub : Bool) : Word :=
  let wd := sWidth f.w
  let u : Int := if sub then (uA r f : Int) - uB r f else (uA r f : Int) + uB r f
  let z : Int := if sub then sA r f - sB r f else sA r f + sB r f
  match f.fn.toNat with
  | 0 => sResult f u
  | 1 => sResult f (clampS wd z)
  | _ => sResult f (clampU wd u)
/-- Product, low half. -/
def mulVal (r : Regs) (f : FmtS) : Word := sResult f (uA r f * uB r f : Nat)
/-- Product, bits 2Wd−1:Wd. -/
def mulhVal (r : Regs) (f : FmtS) : Word :=
  let p : Int := match f.fn.toNat with
    | 0 => sA r f * sB r f
    | 1 => (uA r f : Int) * uB r f
    | _ => sA r f * uB r f
  sResult f (p / (2 ^ sWidth f.w : Int))
/-- Quotient and remainder (R257). -/
def divide (r : Regs) (f : FmtS) : Int × Int :=
  let x : Int := if f.fn = 0 then sA r f else uA r f
  let y : Int := if f.fn = 0 then sB r f else uB r f
  if y = 0 then (-1, x)
  else if f.fn = 0 && x == -(2 ^ (sWidth f.w - 1) : Int) && y == -1 then (x, 0)
  else (x.tdiv y, x - x.tdiv y * y)
/-- Bitwise operations on Wd bits. -/
def logicVal (op : Nat → Nat → Nat) (r : Regs) (f : FmtS) : Word := sResult f (op (uA r f) (uB r f) : Nat)
/-- A and not B, within Wd bits. -/
def andnNat (wd a b : Nat) : Nat := a &&& (2 ^ wd - 1 - b % 2 ^ wd)
/-- Shifts. -/
def shlVal (r : Regs) (f : FmtS) : Word := sResult f (uA r f * 2 ^ shiftN r f : Nat)
/-- See `shlVal`. -/
def shrVal (r : Regs) (f : FmtS) : Word := sResult f (uA r f / 2 ^ shiftN r f : Nat)
/-- See `shlVal`. -/
def sraVal (r : Regs) (f : FmtS) : Word := sResult f (sA r f / (2 ^ shiftN r f : Int))
/-- Rotation within Wd bits, left for fn 0. -/
def rotVal (r : Regs) (f : FmtS) : Word :=
  let wd := sWidth f.w
  let n := if f.fn = 0 then shiftN r f else (wd - shiftN r f) % wd
  sResult f (uA r f * 2 ^ n + uA r f / 2 ^ (wd - n) : Nat)
/-- Smaller or larger, signed for fn 0. -/
def minMaxVal (isMax : Bool) (r : Regs) (f : FmtS) : Word :=
  if f.fn = 0 then sResult f (if isMax then max (sA r f) (sB r f) else min (sA r f) (sB r f))
  else sResult f (if isMax then max (uA r f) (uB r f) else min (uA r f) (uB r f) : Nat)
/-- The relation `cmp` tests. -/
def cmpHolds (r : Regs) (f : FmtS) : Bool :=
  match f.fn.toNat with
  | 0 => uA r f == uB r f
  | 1 => uA r f != uB r f
  | 2 => decide (sA r f < sB r f)
  | 3 => decide (sB r f ≤ sA r f)
  | 4 => decide (uA r f < uB r f)
  | 5 => decide (uB r f ≤ uA r f)
  | _ => uA r f &&& uB r f != 0
/-- 1 or 0, or all ones or 0 under sx. -/
def cmpVal (r : Regs) (f : FmtS) : Word :=
  if cmpHolds r f then (if f.sx then BitVec.allOnes 64 else 1) else 0
/-- A or B by the 64-bit s[d]. -/
def selVal (r : Regs) (f : FmtS) : Word := sResult f (if getS r f.d.toNat ≠ 0 then uA r f else uB r f : Nat)
/-- B, or the zero-extended immediate. -/
def movVal (r : Regs) (f : FmtS) : Word := if f.fn = 1 then f.imm.zeroExtend 64 else sResult f (uB r f : Nat)
/-- imm above the low half of s[d]. -/
def lihVal (r : Regs) (f : FmtS) : Word := f.imm ++ (getS r f.d.toNat).extractLsb' 0 32
/-- Trailing zero bits of the `n` low bits. -/
def trailingZeros : Nat → Nat → Nat
  | 0, _ => 0
  | n + 1, v => if v % 2 = 1 then 0 else 1 + trailingZeros n (v / 2)
/-- Leading zero bits of A. -/
def clzVal (r : Regs) (f : FmtS) : Word :=
  sResult f (if uA r f = 0 then sWidth f.w else sWidth f.w - 1 - (uA r f).log2 : Nat)
/-- Trailing zero bits of A. -/
def ctzVal (r : Regs) (f : FmtS) : Word := sResult f (trailingZeros (sWidth f.w) (uA r f) : Nat)
/-- Set bits of A. -/
def popcVal (r : Regs) (f : FmtS) : Word := sResult f (popCount (sWidth f.w) (uA r f) : Nat)
/-- Position and length of a field control (R258). -/
def fieldPos (c : Word) : Nat := c.toNat % 64
/-- See `fieldPos`. -/
def fieldLen (c : Word) : Nat := min (natBits c.toNat 6 7) 64
/-- A field of s[a], zero- or sign-extended (R258). -/
def bextVal (r : Regs) (f : FmtS) : Word :=
  let c := opB64 r f
  let l := fieldLen c
  let v := natBits (getS r f.a.toNat).toNat (fieldPos c) l
  if f.fn = 1 && decide (0 < l) then BitVec.ofInt 64 (sval l v) else BitVec.ofNat 64 v
/-- A field inserted into s[d] (R258). -/
def binsVal (r : Regs) (f : FmtS) : Word :=
  let c := opB64 r f
  let m : Word := BitVec.ofNat 64 ((2 ^ fieldLen c - 1) * 2 ^ fieldPos c)
  (getS r f.d.toNat &&& ~~~m) ||| (BitVec.ofNat 64 ((getS r f.a.toNat).toNat * 2 ^ fieldPos c) &&& m)
/-- s[a] plus the scaled second operand. -/
def leaVal (r : Regs) (f : FmtS) : Word := getS r f.a.toNat + BitVec.ofNat 64 ((opB64 r f).toNat * 2 ^ f.fn.toNat)
/-- Absolute value; the most negative value stays itself. -/
def absVal (r : Regs) (f : FmtS) : Word := sResult f (sA r f).natAbs
/-- A, extended. -/
def extVal (r : Regs) (f : FmtS) : Word := sResult f (uA r f : Nat)
/-- The `n` low groups of `k` bits in reverse order. -/
def revGroups (k : Nat) : Nat → Nat → Nat
  | 0, _ => 0
  | n + 1, v => v % 2 ^ k * 2 ^ (k * n) + revGroups k n (v / 2 ^ k)
/-- Bytes or bits of A reversed. -/
def bswapVal (r : Regs) (f : FmtS) : Word :=
  let wd := sWidth f.w
  sResult f (if f.fn = 0 then revGroups 8 (wd / 8) (uA r f) else revGroups 1 wd (uA r f) : Nat)

/-! ### Meanings -/

/-- A scalar instruction: a value of the registers at issue, written at its latency with their poison (R255). -/
def scalarOp (i : Instr) (f : FmtS) (s : State) (lat : Nat) (poi : Regs → Bool) (val : Regs → Word) :
    Host.Outcome State Fault Refusal :=
  runIsa i s (fun t => let r := srcRegs s t; .ok (writeS s f.d.toNat (val r) (poi r) lat))

/-- Poison of both sources. -/
def poiAB (f : FmtS) (r : Regs) : Bool := poiA r f || poiB r f
/-- Poison of both sources and of the old destination. -/
def poiABD (f : FmtS) (r : Regs) : Bool := poiA r f || poiB r f || poiS r f.d.toNat
/-- Poison of source a alone. -/
def poiOnlyA (f : FmtS) (r : Regs) : Bool := poiA r f

/-- `add` (R256). -/
def execAdd (f : FmtS) (s : State) : Host.Outcome State Fault Refusal :=
  scalarOp (.add f) f s latSalu (poiAB f) (fun r => addSubVal r f false)
/-- `sub` (R256). -/
def execSub (f : FmtS) (s : State) : Host.Outcome State Fault Refusal :=
  scalarOp (.sub f) f s latSalu (poiAB f) (fun r => addSubVal r f true)
/-- `mul` (R256). -/
def execMul (f : FmtS) (s : State) : Host.Outcome State Fault Refusal :=
  scalarOp (.mul f) f s latSmul (poiAB f) (fun r => mulVal r f)
/-- `mulh` (R256). -/
def execMulh (f : FmtS) (s : State) : Host.Outcome State Fault Refusal :=
  scalarOp (.mulh f) f s latSmul (poiAB f) (fun r => mulhVal r f)
/-- `div` (R257). -/
def execDiv (f : FmtS) (s : State) : Host.Outcome State Fault Refusal :=
  scalarOp (.div f) f s latSdiv (poiAB f) (fun r => sResult f (divide r f).1)
/-- `rem` (R257). -/
def execRem (f : FmtS) (s : State) : Host.Outcome State Fault Refusal :=
  scalarOp (.rem f) f s latSdiv (poiAB f) (fun r => sResult f (divide r f).2)
/-- `and` (R256). -/
def execAnd (f : FmtS) (s : State) : Host.Outcome State Fault Refusal :=
  scalarOp (.and f) f s latSalu (poiAB f) (fun r => logicVal (· &&& ·) r f)
/-- `or` (R256). -/
def execOr (f : FmtS) (s : State) : Host.Outcome State Fault Refusal :=
  scalarOp (.or f) f s latSalu (poiAB f) (fun r => logicVal (· ||| ·) r f)
/-- `xor` (R256). -/
def execXor (f : FmtS) (s : State) : Host.Outcome State Fault Refusal :=
  scalarOp (.xor f) f s latSalu (poiAB f) (fun r => logicVal (· ^^^ ·) r f)
/-- `andn` (R256). -/
def execAndn (f : FmtS) (s : State) : Host.Outcome State Fault Refusal :=
  scalarOp (.andn f) f s latSalu (poiAB f) (fun r => logicVal (andnNat (sWidth f.w)) r f)
/-- `shl` (R256). -/
def execShl (f : FmtS) (s : State) : Host.Outcome State Fault Refusal :=
  scalarOp (.shl f) f s latSalu (poiAB f) (fun r => shlVal r f)
/-- `shr` (R256). -/
def execShr (f : FmtS) (s : State) : Host.Outcome State Fault Refusal :=
  scalarOp (.shr f) f s latSalu (poiAB f) (fun r => shrVal r f)
/-- `sra` (R256). -/
def execSra (f : FmtS) (s : State) : Host.Outcome State Fault Refusal :=
  scalarOp (.sra f) f s latSalu (poiAB f) (fun r => sraVal r f)
/-- `rot` (R256). -/
def execRot (f : FmtS) (s : State) : Host.Outcome State Fault Refusal :=
  scalarOp (.rot f) f s latSalu (poiAB f) (fun r => rotVal r f)
/-- `min` (R256). -/
def execMin (f : FmtS) (s : State) : Host.Outcome State Fault Refusal :=
  scalarOp (.min f) f s latSalu (poiAB f) (fun r => minMaxVal false r f)
/-- `max` (R256). -/
def execMax (f : FmtS) (s : State) : Host.Outcome State Fault Refusal :=
  scalarOp (.max f) f s latSalu (poiAB f) (fun r => minMaxVal true r f)
/-- `cmp` (R256). -/
def execCmp (f : FmtS) (s : State) : Host.Outcome State Fault Refusal :=
  scalarOp (.cmp f) f s latSalu (poiAB f) (fun r => cmpVal r f)
/-- `sel` (R256). -/
def execSel (f : FmtS) (s : State) : Host.Outcome State Fault Refusal :=
  scalarOp (.sel f) f s latSalu (poiABD f) (fun r => selVal r f)
/-- `mov` (R256). -/
def execMov (f : FmtS) (s : State) : Host.Outcome State Fault Refusal :=
  scalarOp (.mov f) f s latSalu (poiAB f) (fun r => movVal r f)
/-- `lih` (R256). -/
def execLih (f : FmtS) (s : State) : Host.Outcome State Fault Refusal :=
  scalarOp (.lih f) f s latSalu (fun r => poiS r f.d.toNat) (fun r => lihVal r f)
/-- `clz` (R256). -/
def execClz (f : FmtS) (s : State) : Host.Outcome State Fault Refusal :=
  scalarOp (.clz f) f s latSalu (poiOnlyA f) (fun r => clzVal r f)
/-- `ctz` (R256). -/
def execCtz (f : FmtS) (s : State) : Host.Outcome State Fault Refusal :=
  scalarOp (.ctz f) f s latSalu (poiOnlyA f) (fun r => ctzVal r f)
/-- `popc` (R256). -/
def execPopc (f : FmtS) (s : State) : Host.Outcome State Fault Refusal :=
  scalarOp (.popc f) f s latSalu (poiOnlyA f) (fun r => popcVal r f)
/-- `bext` (R258). -/
def execBext (f : FmtS) (s : State) : Host.Outcome State Fault Refusal :=
  scalarOp (.bext f) f s latSalu (poiAB f) (fun r => bextVal r f)
/-- `bins` (R258). -/
def execBins (f : FmtS) (s : State) : Host.Outcome State Fault Refusal :=
  scalarOp (.bins f) f s latSalu (poiABD f) (fun r => binsVal r f)
/-- `lea` (R256). -/
def execLea (f : FmtS) (s : State) : Host.Outcome State Fault Refusal :=
  scalarOp (.lea f) f s latSalu (poiAB f) (fun r => leaVal r f)
/-- `abs` (R256). -/
def execAbs (f : FmtS) (s : State) : Host.Outcome State Fault Refusal :=
  scalarOp (.abs f) f s latSalu (poiOnlyA f) (fun r => absVal r f)
/-- `ext` (R256). -/
def execExt (f : FmtS) (s : State) : Host.Outcome State Fault Refusal :=
  scalarOp (.ext f) f s latSalu (poiOnlyA f) (fun r => extVal r f)
/-- `bswap` (R256). -/
def execBswap (f : FmtS) (s : State) : Host.Outcome State Fault Refusal :=
  scalarOp (.bswap f) f s latSalu (poiOnlyA f) (fun r => bswapVal r f)

/-- `nop` has no effect (R259). -/
def execNop (s : State) : Host.Outcome State Fault Refusal := runIsa .nop s (fun _ => .ok s)
/-- `ill` raises ILLEGAL_INSTR (R259). -/
def execIll (bits : BitVec 88) (s : State) : Host.Outcome State Fault Refusal :=
  runIsa (.ill bits) s (fun _ => trapOf s .illegalInstr)

end Sys2Proof.Machine
end

