-- ==== Sys2Proof/Machine/System.lean ====
section
/-!
DEFINITION. The system instructions (R268 to R272): the system registers of R270 and R161, `bench` and `tmark`.
-/

namespace Sys2Proof.Machine

/-! ### The system registers (R57, R161, R270) -/

/-- An identity register, of a task in a slot. -/
def idReg (t : Task) (key n : Nat) : Word :=
  let c := keyCore key
  match n with
  | 0x00 => t.id.gtid
  | 0x01 => BitVec.ofNat 64 t.id.task
  | 0x02 => BitVec.ofNat 64 t.id.grid.x | 0x03 => BitVec.ofNat 64 t.id.grid.y | 0x04 => BitVec.ofNat 64 t.id.grid.z
  | 0x05 => BitVec.ofNat 64 t.id.idx.x | 0x06 => BitVec.ofNat 64 t.id.idx.y | 0x07 => BitVec.ofNat 64 t.id.idx.z
  | 0x08 => BitVec.ofNat 64 t.id.org.x | 0x09 => BitVec.ofNat 64 t.id.org.y | 0x0A => BitVec.ofNat 64 t.id.org.z
  | 0x0B => BitVec.ofNat 64 t.id.ext.x | 0x0C => BitVec.ofNat 64 t.id.ext.y | 0x0D => BitVec.ofNat 64 t.id.ext.z
  | 0x0E => BitVec.ofNat 64 c
  | 0x0F => BitVec.ofNat 64 (coreCluster c)
  | 0x10 => BitVec.ofNat 64 (coreDie c)
  | 0x11 => BitVec.ofNat 64 (keySlot key)
  | 0x12 => BitVec.ofNat 64 t.sbase
  | 0x13 => t.id.args
  | _ => 0

/-- tc.acq: bit i set when acquire-table entry i is in use and was made at the current depth. -/
def acqBits (t : Task) : Nat := acqMap t.acq (fun e => e.depth == t.depth)

/-- A domain register (R161). -/
def domReg (s : State) (t : Task) (n : Nat) : Word :=
  match n with
  | 0x40 => BitVec.ofNat 64 t.asid
  | 0x41 => BitVec.ofNat 64 t.depth
  | 0x42 => if t.clean then BitVec.ofNat 64 (t.cleanWhy + 256 * t.depth) else 0
  | 0x43 => BitVec.ofNat 64 (if t.depth = 0 then t.asid else (readFrame s t t.depth).caller)
  | 0x44 => if t.depth = 0 then 0 else BitVec.ofNat 64 (2 ^ 16 + (readFrame s t t.depth).adit)
  | _ => 0

/-- The value of a system register at issue: what R270 gives for a number below 0x080. -/
def sysReg (s : State) (t : Task) (key n : Nat) : Word :=
  if n < 0x20 then idReg t key n
  else match n with
    | 0x20 => t.fs
    | 0x21 => BitVec.ofNat 64 (countWord (if t.clean then t.reserve else t.budget))
    | 0x22 => BitVec.ofNat 64 s.clock
    | 0x23 => BitVec.ofNat 64 (boolNat t.cancelled)
    | 0x24 => BitVec.ofNat 64 (ownIcount s t)
    | 0x25 => BitVec.ofNat 64 t.wtag.toNat
    | 0x26 => t.srs
    | 0x27 => BitVec.ofNat 64 (boolNat t.handler + 2 * boolNat t.clean)
    | 0x28 => BitVec.ofNat 64 (acqBits t)
    | 0x60 => BitVec.ofNat 64 (readLog s t.asid).curBench
    | 0x61 => BitVec.ofNat 64 (umbraMode s t.asid)
    | _ => domReg s t n

/-- SysRead (R269): the value with its poison, or none for ILLEGAL_INSTR. -/
def sysRead (s : State) (t : Task) (key n : Nat) : Option (Word × Bool) :=
  if 0x100 ≤ n then none
  else if 0x80 ≤ n then
    if !t.handler then none
    else if n < 0xA0 then some (frameWord s t key (n - 0x80), framePoiAt s t key (n - 0x80))
    else some (0, false)
  else
    let u := srcTask s t
    some (sysReg s { t with fs := u.fs, srs := u.srs, acq := u.acq } key n,
      if n = 0x20 then u.fsPoi else if n = 0x26 then u.srsPoi else false)

/-- Trap-frame words a handler may write (R173). -/
def frameWritable (w : Nat) : Bool := w == 1 || (decide (8 ≤ w) && decide (w ≤ 15)) || w == 24

/-- SysWrite's checks (R269). -/
def sysWritable (t : Task) (n : Nat) (v : Word) : Bool :=
  if n = 0x20 then fsLegal v else if n = 0x26 then true else t.handler && decide (0x80 ≤ n) && frameWritable (n - 0x80)

/-- SysWrite, its checks passed. A flag that the group's first instruction raises is merged into the new `fs`. -/
def sysWrite (s : State) (t : Task) (key n : Nat) (v : Word) (poi : Bool) : State :=
  if n = 0x20 then modTask s key (fun u => { u with fs := v ||| s.grp.raised, fsPoi := poi })
  else if n = 0x26 then
    { modTask s key (fun u => { u with srs := if v = 0 then 1 else v, srsPoi := poi }) with grp := { s.grp with wroteSR := true } }
  else
    let w := n - 0x80
    let s1 := vwritePoi s t.asid (trapFrameVa s t.asid key + 8 * w) (leBytes 8 v.toNat) (List.replicate 8 poi)
    modTask s1 key (fun u => { u with framePoi := putBit u.framePoi w poi })

/-- The frame that a register of the view is read from or written to, a trap frame or one of the domain stack, lies on a page that
is not valid, writable and PIN (R182). -/
def frameFault (s : State) (t : Task) (key n : Nat) : Option Nat :=
  if 0x80 ≤ n && n < 0xA0 && t.handler then pinnedFault s t.asid (trapFrameVa s t.asid key) 256
  else if n = 0x43 || n = 0x44 then stackPinned s t
  else none

/-- Go on, unless the frame is not pinned. -/
def sysPinned (s : State) (t : Task) (key n : Nat) (go : Eff) : Eff :=
  match frameFault s t key n with
  | some va => .pinned s va
  | none => go

/-- `rsys` (R269). -/
def execRsys (f : FmtY) (s : State) : Host.Outcome State Fault Refusal :=
  runIsa (.rsys f) s (fun t =>
    let n := f.sr.toNat
    sysPinned s t s.cur n
      (match sysRead s t s.cur n with
      | none => trapOf s .illegalInstr
      | some (v, poi) => .ok (writeS s f.d.toNat v poi latSalu)))

/-- `wsys` (R269). -/
def execWsys (f : FmtY) (s : State) : Host.Outcome State Fault Refusal :=
  runIsa (.wsys f) s (fun t =>
    let n := f.sr.toNat
    let r := srcRegs s t
    let v := getS r f.a.toNat
    if sysWritable t n v then sysPinned s t s.cur n (.ok (sysWrite s t s.cur n v (poiS r f.a.toNat)))
    else trapOf s .illegalInstr)

/-- The new value of `xsys`: swap, set, clr. -/
def xsysNew (fn : Nat) (old a : Word) : Word :=
  match fn with
  | 0 => a
  | 1 => old ||| a
  | _ => old &&& ~~~a

/-- `xsys` (R269). -/
def execXsys (f : FmtY) (s : State) : Host.Outcome State Fault Refusal :=
  runIsa (.xsys f) s (fun t =>
    let n := f.sr.toNat
    let r := srcRegs s t
    sysPinned s t s.cur n
      (match sysRead s t s.cur n with
      | none => trapOf s .illegalInstr
      | some (old, op) =>
        let new := xsysNew f.fn.toNat old (getS r f.a.toNat)
        let poi := poiS r f.a.toNat || (f.fn != 0 && op)
        if sysWritable t n new then .ok (writeS (sysWrite s t s.cur n new poi) f.d.toNat old op latSalu)
        else trapOf s .illegalInstr))

/-! ### `bench` and `tmark` -/

/-- The issuer's task as the snapshot holds it (R271): past the group, with s[d] = n, the group counted. -/
def benchIssuer (s : State) (t : Task) (d n : Nat) : Task :=
  { t with regs := putS t.regs d (BitVec.ofNat 64 n) false, pc := nextPc s t
           icount := t.icount + (if s.grp.paired && !s.grp.second then 2 else 1) }

/-- A new issuer's place in the line: after those of earlier cycles, and of its own cycle those of lower slots (R271). -/
def benchEnter (e : BenchWait) (q : List BenchWait) : List BenchWait :=
  let before := fun (x : BenchWait) => decide (x.cycle < e.cycle) || (x.cycle == e.cycle && decide (x.slot < e.slot))
  q.filter before ++ e :: q.filter (fun x => !before x)

/-- The issuer waits for its turn, or for the domain to come to a stop (R195, R271). -/
def benchHold (s : State) (t : Task) : Eff :=
  let e : BenchWait := { cycle := s.clock, slot := s.cur, gtid := t.id.gtid, pc := groupPc s t }
  .holdIn (modDom s t.asid (fun d =>
    let q := d.benchQ.filter (benchWaits s)
    { d with benchQ := if q.any (fun x => x.slot == e.slot && x.gtid == e.gtid && x.pc == e.pc) then q else benchEnter e q }))

/-- BenchOpen for the acting task, its turn having come (R195). -/
def benchOpen (s : State) (t : Task) (d : Nat) : Eff :=
  let leave := fun (a : State) => modDom a t.asid (fun x => { x with benchQ := x.benchQ.filter (fun e => e.slot != s.cur) })
  if replaying s t.asid then
    let n := recordedBench s t.asid t.id.gtid (ownIcount s t)
    let s1 := writeLog s t.asid { readLog s t.asid with curBench := n }
    .ok (leave (writeS s1 d (BitVec.ofNat 64 n) false latSalu))
  else
    withRoom s t t.asid 1 0 (fun s0 =>
      let n := (readLog s0 t.asid).curBench + 1
      match takeSnapshot (setTask s0 s.cur (benchIssuer s t d n)) t.asid n with
      | (.noRoom, _) => benchHold s t
      | (.pinned va, _) => .pinned s va
      | (.done s1 list, nt) =>
        let s2 := openBench (setTask s1 s.cur t) t.asid t.wtag.toNat n nt list t.id.gtid (ownIcount s t)
        .ok (leave (writeS s2 d (BitVec.ofNat 64 n) false latSalu)))

/-- `bench` (R195, R271). -/
def execBench (f : FmtY) (s : State) : Host.Outcome State Fault Refusal :=
  runIsa (.bench f) s (fun t =>
    if !t.resident || t.depth ≠ 0 || t.handler || t.clean then trapOf s .illegalInstr
    else
      let first := match benchLine s t.asid with
        | e :: _ => e.slot == s.cur
        | [] => true
      if first && benchReady s t.asid s.cur then benchOpen s t f.d.toNat else benchHold s t)

/-- `tmark` (R272). -/
def execTmark (f : FmtY) (s : State) : Host.Outcome State Fault Refusal :=
  runIsa (.tmark f) s (fun t =>
    .ok (tailSync (writeS s f.d.toNat (BitVec.ofNat 64 (ownIcount s t)) false latSalu) s.cur (ownPc s t)))

end Sys2Proof.Machine
end

