-- ==== Sys2Proof/Machine/VectorFloat.lean ====
section
/-!
DEFINITION. The shared frame of the vector instructions (R275, R277, R278) and those of floating-point arithmetic,
comparison, classification and conversion (R280 to R285, R295).
-/

namespace Sys2Proof.Machine

/-! ### The frame of a vector result -/

/-- The latency of an instruction of a class: one cycle more at f64 (R277). -/
def vLat (f : FmtV) (base : Nat) : Nat := if f.ty = .f64 then base + 1 else base

/-- Write lanes of element width `w` to v[d]: active elements take `lane`, poisoned where `src` or the mask is; the
flags raised go to `fs` when the instruction is one that raises any. -/
def vecResult (s : State) (t : Task) (f : FmtV) (w lat : Nat) (act : Nat → Bool) (lane : Nat → Nat × Nat)
    (src : Nat → Bool) (raises : Bool) : State :=
  let r := srcRegs s t
  let d := f.d.toNat
  let res := vecLanes w act (getV r d) lane
  let poi := vecPoison w act (poiV r d) (fun i => poiMq r f.mq || src i)
  let s1 := writeV s d res.1 poi lat
  if raises then raiseFlags s1 res.2 lat else s1

/-- Poison of one source element, of the sources an instruction reads. -/
def srcA (r : Regs) (f : FmtV) (i : Nat) : Bool := poiVA r f i
/-- See `srcA`. -/
def srcAB (r : Regs) (f : FmtV) (i : Nat) : Bool := poiVA r f i || poiVB r f i
/-- See `srcA`. -/
def srcABC (r : Regs) (f : FmtV) (i : Nat) : Bool := poiVA r f i || poiVB r f i || poiVC r f i

/-- A floating-point element-wise instruction (R275, R276): `lane` gets the sources, DAZ, the element's rounding and the
element; `rounds` says whether the instruction rounds by its `rm` field. -/
def floatOp (f : FmtV) (base : Nat) (rounds : Bool) (src : Regs → FmtV → Nat → Bool)
    (lane : Regs → Bool → Rounding → Nat → Nat × Nat) (s : State) (t : Task) : Eff :=
  let r := srcRegs s t
  let fs := (srcTask s t).fs
  let mode := if rounds then effRm f.rm fs else 0
  let sr := srFor s t mode
  let bad := fsPoison s t mode
  let s1 := vecResult s t f f.ty.width (vLat f base) (active r f.mq f.ty.width)
    (fun i => lane r (fsDaz fs) (rounding mode f.sat fs sr i) i) (fun i => bad || src r f i) true
  .ok (advanceSR s1 t mode)

/-- A result in the instruction's own type. -/
def toTy (f : FmtV) (rd : Rounding) (x : Exact) : Nat × Nat := roundTo (fmtOf f.ty) rd x

/-! ### Arithmetic (R280) -/

/-- `vadd`. -/
def execVadd (f : FmtV) (s : State) : Host.Outcome State Fault Refusal :=
  runIsa (.vadd f) s (floatOp f latVfp true srcAB (fun r daz rd i =>
    toTy f rd (fadd (rd.mode == 3) (fA r f daz i) (fB r f daz i))) s)

/-- `vsub`. -/
def execVsub (f : FmtV) (s : State) : Host.Outcome State Fault Refusal :=
  runIsa (.vsub f) s (floatOp f latVfp true srcAB (fun r daz rd i =>
    toTy f rd (fadd (rd.mode == 3) (fA r f daz i) (fB r f daz i).negate)) s)

/-- `vmul`. -/
def execVmul (f : FmtV) (s : State) : Host.Outcome State Fault Refusal :=
  runIsa (.vmul f) s (floatOp f latVfp true srcAB (fun r daz rd i =>
    toTy f rd (fmul (fA r f daz i) (fB r f daz i))) s)

/-- `vfma`. -/
def execVfma (f : FmtV) (s : State) : Host.Outcome State Fault Refusal :=
  runIsa (.vfma f) s (floatOp f latVfp true srcABC (fun r daz rd i =>
    toTy f rd (ffma (rd.mode == 3) (fA r f daz i) (fB r f daz i) (fC r f daz i))) s)

/-- |x| of an encoding: the sign cleared, a NaN canonical, FTZ on the result (R280). -/
def absElem (f : FmtV) (daz ftz : Bool) (raw : Nat) : Nat × Nat :=
  let m := fmtOf f.ty
  let b := fdaz daz m raw
  match fdecode m b with
  | .nan sig => (m.nan, if sig then fNV else 0)
  | _ => fflush m ftz (b % m.signBit)

/-- `vabs`. -/
def execVabs (f : FmtV) (s : State) : Host.Outcome State Fault Refusal :=
  runIsa (.vabs f) s (floatOp f latVfp false srcA (fun r daz rd i => absElem f daz rd.ftz (rawA r f i)) s)

/-- An element of `vmin` or `vmax` (R281), FTZ applied to the result. -/
def minMaxElem (f : FmtV) (isMax : Bool) (r : Regs) (daz ftz : Bool) (i : Nat) : Nat × Nat :=
  let m := fmtOf f.ty
  let p := fminmax m isMax (f.fn == 1) (fBits f daz (f.neg.getLsbD 0) (rawA r f i)) (fBits f daz (f.neg.getLsbD 1) (rawB r f i))
  let q := fflush m ftz p.1
  (q.1, p.2 ||| q.2)

/-- `vmin`. -/
def execVmin (f : FmtV) (s : State) : Host.Outcome State Fault Refusal :=
  runIsa (.vmin f) s (floatOp f latVfp false srcAB (fun r daz rd i => minMaxElem f false r daz rd.ftz i) s)

/-- `vmax`. -/
def execVmax (f : FmtV) (s : State) : Host.Outcome State Fault Refusal :=
  runIsa (.vmax f) s (floatOp f latVfp false srcAB (fun r daz rd i => minMaxElem f true r daz rd.ftz i) s)

/-! ### Division, roots, exponential, logarithm (R282) -/

/-- `vdiv`. -/
def execVdiv (f : FmtV) (s : State) : Host.Outcome State Fault Refusal :=
  runIsa (.vdiv f) s (floatOp f latVdiv true srcAB (fun r daz rd i =>
    toTy f rd (fdiv (fA r f daz i) (fB r f daz i))) s)

/-- `vsqrt`. -/
def execVsqrt (f : FmtV) (s : State) : Host.Outcome State Fault Refusal :=
  runIsa (.vsqrt f) s (floatOp f latVdiv true srcA (fun r daz rd i => toTy f rd (fsqrt (fA r f daz i))) s)

/-- `vrcp`. -/
def execVrcp (f : FmtV) (s : State) : Host.Outcome State Fault Refusal :=
  runIsa (.vrcp f) s (floatOp f latVtrn true srcA (fun r daz rd i =>
    toTy f rd (fdiv (.fin false 1 0) (fA r f daz i))) s)

/-- `vrsq`. -/
def execVrsq (f : FmtV) (s : State) : Host.Outcome State Fault Refusal :=
  runIsa (.vrsq f) s (floatOp f latVtrn true srcA (fun r daz rd i => toTy f rd (frsqrt (fA r f daz i))) s)

/-- `vexp2`. -/
def execVexp2 (f : FmtV) (s : State) : Host.Outcome State Fault Refusal :=
  runIsa (.vexp2 f) s (floatOp f latVtrn true srcA (fun r daz rd i => toTy f rd (fexp2 (fA r f daz i))) s)

/-- `vlog2`. -/
def execVlog2 (f : FmtV) (s : State) : Host.Outcome State Fault Refusal :=
  runIsa (.vlog2 f) s (floatOp f latVtrn true srcA (fun r daz rd i => toTy f rd (flog2 (fA r f daz i))) s)

/-! ### Comparison and classes (R283, R284) -/

/-- The mask a comparison leaves: bit i of each active element i below `n` from `test`, other bits below `n` kept, bits
from `n` up zero. -/
def maskLanes (n : Nat) (act : Nat → Bool) (old : Mask) (test : Nat → Bool) : Mask :=
  BitVec.ofNat 512 ((upTo n).foldr (fun i a => 2 * a + boolNat (if act i then test i else old.getLsbD i)) 0)

/-- Poison of a mask a comparison writes (R278): of an active source element or of a mask it reads; under a mask that
leaves a bit unchanged, the old bit's poison stays. -/
def maskPoison (n : Nat) (act : Nat → Bool) (mq old : Bool) (src : Nat → Bool) : Bool :=
  mq || (upTo n).any (fun i => act i && src i) || (old && (upTo n).any (fun i => !act i))

/-- The relation `vfcmp` tests (R283). -/
def fcmpHolds (fn : Nat) (a b : FVal) : Bool :=
  let un := a.isNan || b.isNan
  match fn with
  | 0 => fequal a b
  | 1 => !fequal a b
  | 2 => fless a b
  | 3 => !un && (fless a b || fequal a b)
  | 4 => fless b a
  | 5 => !un && (fless b a || fequal a b)
  | 6 => un
  | _ => !un

/-- The flags of a comparison: NV for a signalling NaN, and for any NaN under an ordering. -/
def fcmpFlags (fn : Nat) (a b : FVal) : Nat :=
  if a.isSignalling || b.isSignalling || (decide (2 ≤ fn) && decide (fn ≤ 5) && (a.isNan || b.isNan)) then fNV else 0

/-- `vfcmp` (R283). -/
def execVfcmp (f : FmtV) (s : State) : Host.Outcome State Fault Refusal :=
  runIsa (.vfcmp f) s (fun t =>
    let r := srcRegs s t
    let daz := fsDaz (srcTask s t).fs
    let n := f.ty.maskLanes
    let act := active r f.mq f.ty.width
    let d := f.d.toNat
    let m := maskLanes n act (getM r d) (fun i => fcmpHolds f.fn.toNat (fA r f daz i) (fB r f daz i))
    let poi := maskPoison n act (poiMq r f.mq) (poiM r d) (fun i => (srcTask s t).fsPoi || srcAB r f i)
    let flags := (upTo n).foldl (fun a i =>
      if act i then a ||| fcmpFlags f.fn.toNat (fA r f daz i) (fB r f daz i) else a) 0
    .ok (raiseFlags (writeM s d m poi (vLat f latVcmp)) flags (vLat f latVcmp)))

/-- `vfclass` (R284): the raw element, without DAZ. -/
def execVfclass (f : FmtV) (s : State) : Host.Outcome State Fault Refusal :=
  runIsa (.vfclass f) s (fun t =>
    let r := srcRegs s t
    .ok (vecResult s t f f.ty.width (vLat f latVint) (active r f.mq f.ty.width)
      (fun i => (fclass (fmtOf f.ty) (rawA r f i), 0)) (srcA r f) false))

/-! ### Conversion (R285) -/

/-- The source type `fn` names. -/
def cvtSrc (f : FmtV) : ElemTy := ElemTy.ofBits (f.fn.extractLsb' 0 4)

/-- Elements converted: 4,096 div the larger width. -/
def cvtCount (f : FmtV) : Nat := 4096 / max (cvtSrc f).width f.ty.width

/-- The source element of destination element i; none when i is not written. -/
def cvtFrom (f : FmtV) (i : Nat) : Option Nat :=
  let n := cvtCount f
  let p := f.imm.toNat % 16
  if (cvtSrc f).width < f.ty.width then (if i < n then some (p * n + i) else none)
  else if p * n ≤ i && i < p * n + n then some (i - p * n) else none

/-- One element converted, DAZ applied to a floating-point source. -/
def cvtElem (src dst : ElemTy) (daz : Bool) (rd : Rounding) (raw : Nat) : Nat × Nat :=
  convert src dst rd (if src.isFloat then fdaz daz (fmtOf src) raw else raw)

/-- `vcvt` (R141, R285). -/
def execVcvt (f : FmtV) (s : State) : Host.Outcome State Fault Refusal :=
  runIsa (.vcvt f) s (fun t =>
    let r := srcRegs s t
    let src := cvtSrc f
    let fs := (srcTask s t).fs
    let mode := effRm f.rm fs
    let sr := srFor s t mode
    let act := fun i => (cvtFrom f i).isSome && active r f.mq f.ty.width i
    let a := getV r f.a.toNat
    let bad := (src.isFloat || f.ty.isFloat) && fsPoison s t mode
    let lat := if src = .f64 || f.ty = .f64 then latVcvt + 1 else latVcvt
    .ok (advanceSR (vecResult s t f f.ty.width lat act
      (fun i => cvtElem src f.ty (fsDaz fs) (rounding mode f.sat fs sr i) (elt src.width a ((cvtFrom f i).getD 0)))
      (fun i => bad || poiElt src.width (poiV r f.a.toNat) ((cvtFrom f i).getD 0)) true) t mode))

/-! ### Group codes (R295) -/

/-- G, the elements of a group. -/
def quantG (f : FmtV) : Nat := 32 * 2 ^ (f.fn.toNat % 4)
/-- Width of a code: 4 or 8 bits. -/
def quantW (f : FmtV) : Nat := if f.fn.getLsbD 2 then 8 else 4
/-- The 32-bit word of v[b] for element i's group: s in bits 15:0, z in bits 23:16. -/
def quantWord (r : Regs) (f : FmtV) (i : Nat) : Nat := elt 32 (getV r f.b.toNat) (i / quantG f)
/-- Poison of that word. -/
def quantWordPoison (r : Regs) (f : FmtV) (i : Nat) : Bool := poiElt 32 (poiV r f.b.toNat) (i / quantG f)
/-- s as an operand. -/
def quantS (daz : Bool) (w : Nat) : FVal := fdecode fp16 (fdaz daz fp16 (w % 2 ^ 16))
/-- z. -/
def quantZ (w : Nat) : Nat := natBits w 16 8

/-- The code that stands for z itself. A z that the code's width cannot hold has no stated code (log entry 26). -/
def zCode (b z : Nat) : Nat := if z < 2 ^ b then z else (Config.freeWord z).toNat % 2 ^ b

/-- `x ÷ s + z` before rounding, of finite x and finite non-zero s. -/
def quantExact (xn : Bool) (xm : Nat) (xe : Int) (sn : Bool) (sm : Nat) (se : Int) (z : Nat) : Exact :=
  -- x + z·s, then one exact division by s.
  match addFin false xn xm xe sn (z * sm) se with
  | .val n m e _ => divMag (n != sn) m e sm se
  | _ => .zero false

/-- The code of an element (R295). -/
def quantCode (b : Nat) (rd : Rounding) (x s : FVal) (z : Nat) : Nat × Nat :=
  match x, s with
  | .nan _, _ => (zCode b z, fNV)
  | _, .nan _ => (zCode b z, fNV)
  | _, .inf _ => (zCode b z, fNV)
  | .inf n, .fin sn m _ => if m = 0 then (zCode b z, fNV) else (if n != sn then 0 else 2 ^ b - 1, 0)
  | .fin xn xm xe, .fin sn sm se =>
    if sm = 0 then (zCode b z, fNV)
    else match quantExact xn xm xe sn sm se z with
      | .val n m e st =>
        let q := roundInt rd n m e st
        ((clampInt 0 (2 ^ b - 1) q.1).toNat, if q.2 then fNX else 0)
      | _ => (0, 0)

/-- `vquant` (R295). -/
def execVquant (f : FmtV) (s : State) : Host.Outcome State Fault Refusal :=
  runIsa (.vquant f) s (fun t =>
    let r := srcRegs s t
    let fs := (srcTask s t).fs
    let daz := fsDaz fs
    let mode := effRm f.rm fs
    let sr := srFor s t mode
    let n := f.ty.lanes
    let b := quantW f
    let act := fun i => if i < n then active r f.mq f.ty.width i else true
    .ok (advanceSR (vecResult s t f b latVtrn act
      (fun i => if i < n then
          quantCode b (rounding mode false fs sr i) (fOperand f daz false (rawA r f i)) (quantS daz (quantWord r f i))
            (quantZ (quantWord r f i))
        else (0, 0))
      (fun i => decide (i < n) && (fsPoison s t mode || srcA r f i || quantWordPoison r f i)) true) t mode))

/-- `vdequant` (R295). -/
def execVdequant (f : FmtV) (s : State) : Host.Outcome State Fault Refusal :=
  runIsa (.vdequant f) s (fun t =>
    let r := srcRegs s t
    let fs := (srcTask s t).fs
    let mode := effRm f.rm fs
    let sr := srFor s t mode
    let b := quantW f
    .ok (advanceSR (vecResult s t f f.ty.width latVcvt (active r f.mq f.ty.width)
      (fun i =>
        let w := quantWord r f i
        let d : Int := (elt b (getV r f.a.toNat) i : Int) - quantZ w
        toTy f (rounding mode f.sat fs sr i) (fmul (quantS (fsDaz fs) w) (.fin (decide (d < 0)) d.natAbs 0)))
      (fun i => fsPoison s t mode || poiElt b (poiV r f.a.toNat) i || quantWordPoison r f i) true) t mode))

end Sys2Proof.Machine
end

