-- ==== Sys2Proof/Machine/VectorInt.lean ====
section
/-!
DEFINITION. The vector instructions of integer arithmetic and logic, moves of elements, reductions, scans and dot
products (R286 to R294).
-/

namespace Sys2Proof.Machine

/-! ### Integer arithmetic and logic (R286) -/

/-- An element-wise instruction that touches no flag. -/
def plainOp (f : FmtV) (base : Nat) (src : Regs → FmtV → Nat → Bool) (lane : Regs → Nat → Nat) (s : State) (t : Task) :
    Eff :=
  let r := srcRegs s t
  .ok (vecResult s t f f.ty.width (vLat f base) (active r f.mq f.ty.width) (fun i => (lane r i, 0)) (src r f) false)

/-- Val of the elements of a, b and c, before any negation. -/
def vA (r : Regs) (f : FmtV) (i : Nat) : Int := ival f.ty (rawA r f i)
/-- See `vA`. -/
def vB (r : Regs) (f : FmtV) (i : Nat) : Int := ival f.ty (rawB r f i)

/-- Shift count of an element: Val(OpB(i)) mod w, read as unsigned. -/
def shiftOf (r : Regs) (f : FmtV) (i : Nat) : Nat := rawB r f i % f.ty.width

/-- `viadd`. -/
def execViadd (f : FmtV) (s : State) : Host.Outcome State Fault Refusal :=
  runIsa (.viadd f) s (plainOp f latVint srcAB (fun r i => fitInt f.ty f.sat (vA r f i + vB r f i)) s)

/-- `visub`. -/
def execVisub (f : FmtV) (s : State) : Host.Outcome State Fault Refusal :=
  runIsa (.visub f) s (plainOp f latVint srcAB (fun r i => fitInt f.ty f.sat (vA r f i - vB r f i)) s)

/-- `vimul`. -/
def execVimul (f : FmtV) (s : State) : Host.Outcome State Fault Refusal :=
  runIsa (.vimul f) s (plainOp f latVint srcAB (fun r i => fitInt f.ty f.sat (vA r f i * vB r f i)) s)

/-- `vimulh`. -/
def execVimulh (f : FmtV) (s : State) : Host.Outcome State Fault Refusal :=
  runIsa (.vimulh f) s (plainOp f latVint srcAB (fun r i =>
    wrapNat f.ty.width (vA r f i * vB r f i / (2 ^ f.ty.width : Int))) s)

/-- `vimad`. -/
def execVimad (f : FmtV) (s : State) : Host.Outcome State Fault Refusal :=
  runIsa (.vimad f) s (plainOp f latVint srcABC (fun r i => fitInt f.ty f.sat (iA r f i * iB r f i + iC r f i)) s)

/-- `vand`: and, andn. -/
def execVand (f : FmtV) (s : State) : Host.Outcome State Fault Refusal :=
  runIsa (.vand f) s (plainOp f latVint srcAB (fun r i =>
    if f.fn = 0 then rawA r f i &&& rawB r f i else rawA r f i &&& (2 ^ f.ty.width - 1 - rawB r f i)) s)

/-- `vor`. -/
def execVor (f : FmtV) (s : State) : Host.Outcome State Fault Refusal :=
  runIsa (.vor f) s (plainOp f latVint srcAB (fun r i => rawA r f i ||| rawB r f i) s)

/-- `vxor`. -/
def execVxor (f : FmtV) (s : State) : Host.Outcome State Fault Refusal :=
  runIsa (.vxor f) s (plainOp f latVint srcAB (fun r i => rawA r f i ^^^ rawB r f i) s)

/-- `vshl`. -/
def execVshl (f : FmtV) (s : State) : Host.Outcome State Fault Refusal :=
  runIsa (.vshl f) s (plainOp f latVint srcAB (fun r i => rawA r f i * 2 ^ shiftOf r f i % 2 ^ f.ty.width) s)

/-- `vshr`. -/
def execVshr (f : FmtV) (s : State) : Host.Outcome State Fault Refusal :=
  runIsa (.vshr f) s (plainOp f latVint srcAB (fun r i => rawA r f i / 2 ^ shiftOf r f i) s)

/-- `vsra`: the element read as signed whatever the type. -/
def execVsra (f : FmtV) (s : State) : Host.Outcome State Fault Refusal :=
  runIsa (.vsra f) s (plainOp f latVint srcAB (fun r i =>
    wrapNat f.ty.width (sval f.ty.width (rawA r f i) / (2 ^ shiftOf r f i : Int))) s)

/-- `vimin`. -/
def execVimin (f : FmtV) (s : State) : Host.Outcome State Fault Refusal :=
  runIsa (.vimin f) s (plainOp f latVint srcAB (fun r i =>
    if vA r f i ≤ vB r f i then rawA r f i else rawB r f i) s)

/-- `vimax`. -/
def execVimax (f : FmtV) (s : State) : Host.Outcome State Fault Refusal :=
  runIsa (.vimax f) s (plainOp f latVint srcAB (fun r i =>
    if vA r f i ≤ vB r f i then rawB r f i else rawA r f i) s)

/-- The relation `vicmp` tests. -/
def icmpHolds (fn : Nat) (a b : Int) : Bool :=
  match fn with
  | 0 => a == b
  | 1 => a != b
  | 2 => decide (a < b)
  | 3 => decide (a ≤ b)
  | 4 => decide (b < a)
  | _ => decide (b ≤ a)

/-- `vicmp`. -/
def execVicmp (f : FmtV) (s : State) : Host.Outcome State Fault Refusal :=
  runIsa (.vicmp f) s (fun t =>
    let r := srcRegs s t
    let n := f.ty.maskLanes
    let act := active r f.mq f.ty.width
    let d := f.d.toNat
    .ok (writeM s d (maskLanes n act (getM r d) (fun i => icmpHolds f.fn.toNat (vA r f i) (vB r f i)))
      (maskPoison n act (poiMq r f.mq) (poiM r d) (srcAB r f)) (vLat f latVcmp)))

/-- Bit of the selecting mask for element i (R286): bit i, and bit i div 2 of a 4-bit type. -/
def selBit (r : Regs) (f : FmtV) (i : Nat) : Bool :=
  (getM r f.c.toNat).getLsbD (if f.ty.width = 4 then i / 2 else i)

/-- `vsel`. It, `vbcast`, `vins`, `vperm`, `vrot` and `vslide` pass no NaN with its payload: it becomes canonical, for R130 exempts
none and R286 only `vmov`. -/
def execVsel (f : FmtV) (s : State) : Host.Outcome State Fault Refusal :=
  runIsa (.vsel f) s (plainOp f latVint
    (fun r f i => poiM r f.c.toNat || (if selBit r f i then poiVA r f i else poiVB r f i))
    (fun r i => canonNan f.ty (if selBit r f i then rawA r f i else rawB r f i)) s)

/-- `vmov`. -/
def execVmov (f : FmtV) (s : State) : Host.Outcome State Fault Refusal :=
  runIsa (.vmov f) s (plainOp f latVint srcA (fun r i => rawA r f i) s)

/-- `vpopc`. -/
def execVpopc (f : FmtV) (s : State) : Host.Outcome State Fault Refusal :=
  runIsa (.vpopc f) s (plainOp f latVint srcA (fun r i => popCount f.ty.width (rawA r f i)) s)

/-! ### Moving elements (R287 to R291) -/

/-- `vbcast`: a scalar, an element, or an immediate; a NaN becomes canonical (R130). -/
def execVbcast (f : FmtV) (s : State) : Host.Outcome State Fault Refusal :=
  runIsa (.vbcast f) s (plainOp f latVint
    (fun r f _ => match f.fn.toNat with
      | 0 => poiS r f.a.toNat
      | 1 => poiVA r f f.imm.toNat
      | _ => false)
    (fun r _ => canonNan f.ty (match f.fn.toNat with
      | 0 => (getS r f.a.toNat).toNat % 2 ^ f.ty.width
      | 1 => rawA r f f.imm.toNat
      | _ => immElem f)) s)

/-- `vid`. -/
def execVid (f : FmtV) (s : State) : Host.Outcome State Fault Refusal :=
  runIsa (.vid f) s (plainOp f latVint (fun r f _ => f.bs && poiS r f.b.toNat)
    (fun r i =>
      let step := if f.bs then (getS r f.b.toNat).toNat else 1
      ((f.imm.signExtend 64).toNat + i * step) % 2 ^ f.ty.width) s)

/-- `vperm`: from one register, or from two. -/
def execVperm (f : FmtV) (s : State) : Host.Outcome State Fault Refusal :=
  runIsa (.vperm f) s (plainOp f latVperm
    (fun r f i =>
      let n := f.ty.lanes
      let k := elt f.ty.width (getV r f.b.toNat) i
      poiElt f.ty.width (poiV r f.b.toNat) i ||
        (if f.fn = 0 then poiVA r f (k % n)
         else if k % (2 * n) < n then poiVA r f (k % (2 * n)) else poiVC r f (k % (2 * n) - n)))
    (fun r i =>
      let n := f.ty.lanes
      let k := elt f.ty.width (getV r f.b.toNat) i
      canonNan f.ty (if f.fn = 0 then rawA r f (k % n)
        else if k % (2 * n) < n then rawA r f (k % (2 * n)) else rawC r f (k % (2 * n) - n))) s)

/-- The shift of `vrot` and `vslide`, read as unsigned (R289). -/
def moveBy (r : Regs) (f : FmtV) : Nat := if f.bs then (getS r f.b.toNat).toNat else f.imm.toNat
/-- Poison of that shift. -/
def moveByPoison (r : Regs) (f : FmtV) : Bool := f.bs && poiS r f.b.toNat

/-- Source element of `vrot`. -/
def rotFrom (r : Regs) (f : FmtV) (i : Nat) : Nat :=
  let n := f.ty.lanes
  if f.fn = 0 then (i + moveBy r f) % n else (((i : Int) - moveBy r f) % (n : Int)).toNat

/-- `vrot`. -/
def execVrot (f : FmtV) (s : State) : Host.Outcome State Fault Refusal :=
  runIsa (.vrot f) s (plainOp f latVperm
    (fun r f i => moveByPoison r f || poiVA r f (rotFrom r f i))
    (fun r i => canonNan f.ty (rawA r f (rotFrom r f i))) s)

/-- Source element of `vslide`: of a (false) or of c (true), or none. -/
def slideFrom (r : Regs) (f : FmtV) (i : Nat) : Option (Bool × Nat) :=
  let n := f.ty.lanes
  let k := moveBy r f
  if f.fn = 0 then
    if i + k < n then some (false, i + k) else if i + k < 2 * n then some (true, i + k - n) else none
  else if k ≤ i then some (false, i - k) else if k ≤ i + n then some (true, n + i - k) else none

/-- `vslide`. -/
def execVslide (f : FmtV) (s : State) : Host.Outcome State Fault Refusal :=
  runIsa (.vslide f) s (plainOp f latVperm
    (fun r f i => moveByPoison r f || match slideFrom r f i with
      | some (false, j) => poiVA r f j
      | some (true, j) => poiVC r f j
      | none => false)
    (fun r i => match slideFrom r f i with
      | some (false, j) => canonNan f.ty (rawA r f j)
      | some (true, j) => canonNan f.ty (rawC r f j)
      | none => 0) s)

/-- `vext` (R290). Its result is a scalar's 64 bits, no NaN of a format: they are the element's, DESIGN CHOICE (log entry 90). -/
def execVext (f : FmtV) (s : State) : Host.Outcome State Fault Refusal :=
  runIsa (.vext f) s (fun t =>
    let r := srcRegs s t
    let k := moveBy r f
    let inside := decide (k < f.ty.lanes)
    let e := rawA r f k
    let v : Word := if !inside then 0 else if f.ty.isSigned then BitVec.ofInt 64 (sval f.ty.width e) else BitVec.ofNat 64 e
    .ok (writeS s f.d.toNat v (moveByPoison r f || (inside && poiVA r f k)) (vLat f latVperm)))

/-- `vins` (R290). -/
def execVins (f : FmtV) (s : State) : Host.Outcome State Fault Refusal :=
  runIsa (.vins f) s (fun t =>
    let r := srcRegs s t
    let k := moveBy r f
    let x := canonNan f.ty ((getS r f.a.toNat).toNat % 2 ^ f.ty.width)
    .ok (vecResult s t f f.ty.width (vLat f latVperm) (fun i => i == k) (fun _ => (x, 0))
      (fun _ => poiS r f.a.toNat || moveByPoison r f) false))

/-- The type with the same signedness at a width. -/
def sizedLike (t : ElemTy) (w : Nat) : ElemTy :=
  match w with
  | 64 => if t.isSigned then .i64 else .n64
  | 32 => if t.isSigned then .i32 else .n32
  | 16 => if t.isSigned then .i16 else .n16
  | 8 => if t.isSigned then .i8 else .n8
  | _ => if t.isSigned then .i4 else .n4

/-- `vpack` (R291): the halves of the result narrow a and c. -/
def execVpack (f : FmtV) (s : State) : Host.Outcome State Fault Refusal :=
  runIsa (.vpack f) s (
    let w := f.ty.width
    let h := f.ty.lanes / 2
    fun t =>
      let r := srcRegs s t
      .ok (vecResult s t f w latVperm (active r f.mq w)
        (fun i =>
          let e := if i < h then elt (2 * w) (getV r f.a.toNat) i else elt (2 * w) (getV r f.c.toNat) (i - h)
          let z := ival (sizedLike f.ty (2 * w)) e
          (fitInt f.ty f.sat z, fitFlags f.ty z))
        (fun i => if i < h then poiElt (2 * w) (poiV r f.a.toNat) i else poiElt (2 * w) (poiV r f.c.toNat) (i - h))
        true))

/-- `vunpack` (R291). -/
def execVunpack (f : FmtV) (s : State) : Host.Outcome State Fault Refusal :=
  runIsa (.vunpack f) s (
    let w := f.ty.width / 2
    let at_ := fun i => (f.imm.toNat % 2) * f.ty.lanes + i
    plainOp f latVperm (fun r f i => poiElt w (poiV r f.a.toNat) (at_ i))
      (fun r i => wrapNat f.ty.width (ival (sizedLike f.ty w) (elt w (getV r f.a.toNat) (at_ i)))) s)

/-! ### Reductions and scans (R292, R293) -/

/-- The effective rounding of a reduction or scan: stochastic rounds as rne. -/
def redMode (rm : BitVec 3) (fs : Word) : Nat := if effRm rm fs = 5 then 0 else effRm rm fs

/-- The identity of an operation as an element (0 add, 1 min, 2 max, 3 and, 4 or, 5 xor, 6 seq). -/
def identityElem (t : ElemTy) (op : Nat) : Nat :=
  if t.isFloat then
    match op with
    | 1 => (fmtOf t).inf
    | 2 => (fmtOf t).signed true (fmtOf t).inf
    | _ => 0
  else
    match op with
    | 1 => wrapNat t.width (imaxOf t)
    | 2 => wrapNat t.width (iminOf t)
    | 3 => 2 ^ t.width - 1
    | _ => 0

/-- Combine two present elements of a floating-point type: the sum rounded, or `vmin`/`vmax` num, unrounded. -/
def combineF (t : ElemTy) (op : Nat) (rd : Rounding) (x y : Nat) : Nat × Nat :=
  let m := fmtOf t
  if op = 1 || op = 2 then
    let p := fminmax m (op == 2) false x y
    let q := fflush m rd.ftz p.1
    (q.1, p.2 ||| q.2)
  else roundTo m rd (fadd (rd.mode == 3) (fdecode m x) (fdecode m y))

/-- An element that stands alone as a result: a NaN is canonical, a subnormal subject to FTZ (R130, R137). -/
def finishF (t : ElemTy) (ftz : Bool) (x : Nat) : Nat × Nat :=
  let m := fmtOf t
  match fdecode m x with
  | .nan sig => (m.nan, if sig then fNV else 0)
  | _ => fflush m ftz x

/-- Combine with Absent: the element, and the flags so far. -/
def combineOpt (t : ElemTy) (op : Nat) (rd : Rounding) : Option Nat → Option Nat → Nat → Option Nat × Nat
  | none, q, fl => (q, fl)
  | p, none, fl => (p, fl)
  | some x, some y, fl => let r := combineF t op rd x y; (some r.1, fl ||| r.2)

/-- One level of the pairwise tree. -/
def treeLevel (t : ElemTy) (op : Nat) (rd : Rounding) : List (Option Nat) → Nat → List (Option Nat) × Nat
  | x :: y :: rest, fl =>
    let r := combineOpt t op rd x y fl
    let q := treeLevel t op rd rest r.2
    (r.1 :: q.1, q.2)
  | l, fl => (l, fl)

/-- The pairwise tree, level by level. -/
def treeFold (t : ElemTy) (op : Nat) (rd : Rounding) : Nat → List (Option Nat) → Nat → Option Nat × Nat
  | 0, l, fl => ((l.head?).getD none, fl)
  | n + 1, l, fl => let r := treeLevel t op rd l fl; treeFold t op rd n r.1 r.2

/-- The reduction of floating-point elements (R292). -/
def reduceF (t : ElemTy) (op : Nat) (rd : Rounding) (xs : List (Option Nat)) : Nat × Nat :=
  let r := if op = 6 then xs.foldl (fun a x => combineOpt t op rd a.1 x a.2) (none, 0)
    else treeFold t op rd 8 xs 0
  match r.1 with
  | none => (identityElem t op, r.2)
  | some x => let q := finishF t rd.ftz x; (q.1, r.2 ||| q.2)

/-- An integer operation on exact values. -/
def combineI (t : ElemTy) (op : Nat) (x y : Int) : Int :=
  let b := fun (g : Nat → Nat → Nat) => ival t (g (wrapNat t.width x) (wrapNat t.width y))
  match op with
  | 1 => min x y
  | 2 => max x y
  | 3 => b (· &&& ·)
  | 4 => b (· ||| ·)
  | 5 => b (· ^^^ ·)
  | _ => x + y

/-- `vred` (R292). An integer reduction, scan or dot product raises no flag where Fit does not keep the exact value:
DESIGN CHOICE (log entry 94). -/
def execVred (f : FmtV) (s : State) : Host.Outcome State Fault Refusal :=
  runIsa (.vred f) s (fun t =>
    let r := srcRegs s t
    let fs := (srcTask s t).fs
    let op := f.fn.toNat
    let n := f.ty.lanes
    let act := active r f.mq f.ty.width
    let rd : Rounding := { mode := redMode f.rm fs, sat := f.sat, ftz := fsFtz fs }
    let res : Nat × Nat :=
      if f.ty.isFloat then
        reduceF f.ty op rd ((upTo n).map (fun i =>
          if act i then some (fdaz (fsDaz fs) (fmtOf f.ty) (rawA r f i)) else none))
      else
        (fitInt f.ty f.sat ((upTo n).foldl (fun a i => if act i then combineI f.ty op a (vA r f i) else a)
          (ival f.ty (identityElem f.ty op))), 0)
    let bad := (f.ty.isFloat && (srcTask s t).fsPoi) || (upTo n).any (fun i => act i && srcA r f i)
    let poi : BitVec 32 := if poiMq r f.mq then BitVec.allOnes 32 else if bad then 1 else 0
    let lat := vLat f latVdiv
    let s1 := writeV s f.d.toNat (BitVec.ofNat 4096 res.1) poi lat
    .ok (if f.ty.isFloat then raiseFlags s1 res.2 lat else s1))

/-- What a scan carries from element to element: the running value as an element, its exact integer value, the results
so far newest first, the flags, whether a poisoned element has been met, and the elements' poison newest first. -/
structure ScanAcc where
  r : Nat
  e : Int
  out : List Nat
  flags : Nat
  bad : Bool
  poi : List Bool
  deriving DecidableEq, Repr

/-- One element of a scan (R293). -/
def scanStep (t : ElemTy) (op : Nat) (excl sat : Bool) (rd : Rounding) (act : Bool) (x old : Nat) (poi : Bool)
    (a : ScanAcc) : ScanAcc :=
  if !act then { a with out := old :: a.out, poi := false :: a.poi }
  else
    let e := if t.isFloat then 0 else combineI t op a.e (ival t x)
    let r := if t.isFloat then combineF t op rd a.r x else (fitInt t sat e, 0)
    let bad := a.bad || poi
    let v := if excl then a.r else r.1
    { r := r.1, e := e, out := v :: a.out, flags := a.flags ||| r.2, bad := bad, poi := bad :: a.poi }

/-- `vscan` (R293), an integer one without flags (log entry 94). A scan poisons every element at or after the first poisoned
input (R107). -/
def execVscan (f : FmtV) (s : State) : Host.Outcome State Fault Refusal :=
  runIsa (.vscan f) s (fun t =>
    let r := srcRegs s t
    let fs := (srcTask s t).fs
    let op := f.fn.toNat % 8
    let excl := f.fn.getLsbD 3
    let act := active r f.mq f.ty.width
    let rd : Rounding := { mode := redMode f.rm fs, sat := f.sat, ftz := fsFtz fs }
    let id := identityElem f.ty op
    let init : ScanAcc := { r := id, e := ival f.ty id, out := [], flags := 0, bad := false, poi := [] }
    let acc := (upTo f.ty.lanes).foldl (fun a i =>
      let x := if f.ty.isFloat then fdaz (fsDaz fs) (fmtOf f.ty) (rawA r f i) else rawA r f i
      scanStep f.ty op excl f.sat rd (act i) x (elt f.ty.width (getV r f.d.toNat) i) (srcA r f i) a) init
    let lat := vLat f latVdiv
    let bad := f.ty.isFloat && (srcTask s t).fsPoi
    let flags := acc.poi.reverse
    let poi := vecPoison f.ty.width act (poiV r f.d.toNat) (fun i => bad || poiMq r f.mq || (flags[i]?).getD false)
    let s1 := writeV s f.d.toNat (packLanes f.ty.width acc.out.reverse) poi lat
    .ok (if f.ty.isFloat then raiseFlags s1 acc.flags lat else s1))

/-! ### Dot products (R294) -/

/-- The signed or unsigned value of a `w`-bit element. -/
def dotVal (signed : Bool) (w v : Nat) : Int := if signed then sval w v else (v % 2 ^ w : Nat)

/-- A dot product of `g` elements of `w` bits per 32-bit lane; `fn` gives the signedness of a and b. -/
def dotLane (w g : Nat) (f : FmtV) (r : Regs) (i : Nat) : Nat :=
  let a := rawA r f i
  let b := rawB r f i
  let sa := f.fn == 0 || f.fn == 2
  let sb := f.fn == 0 || f.fn == 3
  fitInt f.ty f.sat ((upTo g).foldl (fun z j => z + dotVal sa w (natBits a (w * j) w) * dotVal sb w (natBits b (w * j) w))
    (ival f.ty (rawC r f i)))

/-- `vdot4`, without flags (log entry 94). -/
def execVdot4 (f : FmtV) (s : State) : Host.Outcome State Fault Refusal :=
  runIsa (.vdot4 f) s (plainOp f latVfp srcABC (dotLane 8 4 f) s)

/-- `vdot8`, without flags (log entry 94). -/
def execVdot8 (f : FmtV) (s : State) : Host.Outcome State Fault Refusal :=
  runIsa (.vdot8 f) s (plainOp f latVfp srcABC (dotLane 4 8 f) s)

end Sys2Proof.Machine
end

