-- ==== Sys2Proof/Machine/VectorMask.lean ====
section
/-!
DEFINITION. The mask instructions (R296).
-/

namespace Sys2Proof.Machine

/-- Mask bits below N of the type; higher bits are zero (R296). -/
def belowN (f : FmtV) (m : Nat) : Mask := BitVec.ofNat 512 (m % 2 ^ f.ty.maskLanes)

/-- A mask written from one or two masks. -/
def maskOp (f : FmtV) (two : Bool) (g : Nat → Nat → Nat) (s : State) (t : Task) : Eff :=
  let r := srcRegs s t
  let a := (getM r f.a.toNat).toNat
  let b := (getM r f.b.toNat).toNat
  .ok (writeM s f.d.toNat (belowN f (g a b)) (poiM r f.a.toNat || (two && poiM r f.b.toNat)) latVint)

/-- The complement of a mask. -/
def maskNot (m : Nat) : Nat := 2 ^ 512 - 1 - m % 2 ^ 512

/-- `mand`: and, andn. -/
def execMand (f : FmtV) (s : State) : Host.Outcome State Fault Refusal :=
  runIsa (.mand f) s (maskOp f true (fun a b => a &&& (if f.fn = 0 then b else maskNot b)) s)

/-- `mor`: or, orn. -/
def execMor (f : FmtV) (s : State) : Host.Outcome State Fault Refusal :=
  runIsa (.mor f) s (maskOp f true (fun a b => a ||| (if f.fn = 0 then b else maskNot b)) s)

/-- `mxor`: xor, xnor. -/
def execMxor (f : FmtV) (s : State) : Host.Outcome State Fault Refusal :=
  runIsa (.mxor f) s (maskOp f true (fun a b => if f.fn = 0 then a ^^^ b else maskNot (a ^^^ b)) s)

/-- `mnot`. -/
def execMnot (f : FmtV) (s : State) : Host.Outcome State Fault Refusal :=
  runIsa (.mnot f) s (maskOp f false (fun a _ => maskNot a) s)

/-- `mpop`. -/
def execMpop (f : FmtV) (s : State) : Host.Outcome State Fault Refusal :=
  runIsa (.mpop f) s (fun t =>
    let r := srcRegs s t
    .ok (writeS s f.d.toNat (BitVec.ofNat 64 (popCount f.ty.maskLanes (getM r f.a.toNat).toNat)) (poiM r f.a.toNat)
      latVint))

/-- The lowest set bit below `n`, or `n`. -/
def lowestBit (n v : Nat) : Nat := ((upTo n).find? (fun i => v.testBit i)).getD n

/-- `mfirst`. -/
def execMfirst (f : FmtV) (s : State) : Host.Outcome State Fault Refusal :=
  runIsa (.mfirst f) s (fun t =>
    let r := srcRegs s t
    .ok (writeS s f.d.toNat (BitVec.ofNat 64 (lowestBit f.ty.maskLanes (getM r f.a.toNat).toNat)) (poiM r f.a.toNat)
      latVint))

/-- `mfroms`: bits 64k + 63 to 64k take the scalar; other bits below N keep. -/
def execMfroms (f : FmtV) (s : State) : Host.Outcome State Fault Refusal :=
  runIsa (.mfroms f) s (fun t =>
    let r := srcRegs s t
    let d := f.d.toNat
    let lo := 64 * (f.imm.toNat % 8)
    let old := (getM r d).toNat
    let v := old % 2 ^ lo + 2 ^ lo * (getS r f.a.toNat).toNat + 2 ^ (lo + 64) * (old / 2 ^ (lo + 64))
    .ok (writeM s d (belowN f v) (poiS r f.a.toNat || poiM r d) latVint))

/-- `mtos`. -/
def execMtos (f : FmtV) (s : State) : Host.Outcome State Fault Refusal :=
  runIsa (.mtos f) s (fun t =>
    let r := srcRegs s t
    .ok (writeS s f.d.toNat (BitVec.ofNat 64 (natBits (getM r f.a.toNat).toNat (64 * (f.imm.toNat % 8)) 64))
      (poiM r f.a.toNat) latVint))

/-- `mlen`. -/
def execMlen (f : FmtV) (s : State) : Host.Outcome State Fault Refusal :=
  runIsa (.mlen f) s (fun t =>
    let r := srcRegs s t
    let n := if f.bi then f.imm.toNat else (getS r f.a.toNat).toNat
    .ok (writeM s f.d.toNat (BitVec.ofNat 512 (2 ^ min n f.ty.maskLanes - 1)) (!f.bi && poiS r f.a.toNat)
      latVint))

end Sys2Proof.Machine
end

