-- ==== Sys2Proof/Machine/Dispatch.lean ====
section
/-!
DEFINITION. The dispatch of an instruction or event to its meaning.
-/

namespace Sys2Proof.Machine

/-- One step of the part: the instruction `i` of the task in slot `s.cur`, or an event. -/
def exec (i : Instr) (s : State) : Host.Outcome State Fault Refusal :=
  match i with
  | .bringupComplete b => Sys2Proof.Machine.execBringupComplete b s
  | .linkRetrainFail link => Sys2Proof.Machine.execLinkRetrainFail link s
  | .powerLimitStep r => Sys2Proof.Machine.execPowerLimitStep r s
  | .thermalLimitStep hottest => Sys2Proof.Machine.execThermalLimitStep hottest s
  | .thermalTrip hottest => Sys2Proof.Machine.execThermalTrip hottest s
  | .unitQuarantine q => Sys2Proof.Machine.execUnitQuarantine q s
  | .sqTailWrite queue newTail => Sys2Proof.Machine.execSqTailWrite queue newTail s
  | .sqStoppedClear queue => Sys2Proof.Machine.execSqStoppedClear queue s
  | .registerWrite w => Sys2Proof.Machine.execRegisterWrite w s
  | .msixUnmask vector mask => Sys2Proof.Machine.execMsixUnmask vector mask s
  | .sqNopRecord q => Sys2Proof.Machine.execSqNopRecord q s
  | .sqJobRecord q => Sys2Proof.Machine.execSqJobRecord q s
  | .sqLaunchRecord q => Sys2Proof.Machine.execSqLaunchRecord q s
  | .sqGraphRecord q => Sys2Proof.Machine.execSqGraphRecord q s
  | .sqWaitRecord q => Sys2Proof.Machine.execSqWaitRecord q s
  | .sqWaitDone queue => Sys2Proof.Machine.execSqWaitDone queue s
  | .sqCancelRecord q => Sys2Proof.Machine.execSqCancelRecord q s
  | .domCreate a place => Sys2Proof.Machine.execDomCreate a place s
  | .domRevoke a => Sys2Proof.Machine.execDomRevoke a s
  | .domKill a => Sys2Proof.Machine.execDomKill a s
  | .domDestroy a => Sys2Proof.Machine.execDomDestroy a s
  | .aditPublish a => Sys2Proof.Machine.execAditPublish a s
  | .aditGrant a => Sys2Proof.Machine.execAditGrant a s
  | .aditRevoke a => Sys2Proof.Machine.execAditRevoke a s
  | .epGrant a => Sys2Proof.Machine.execEpGrant a s
  | .vecGrant a => Sys2Proof.Machine.execVecGrant a s
  | .setAllot a => Sys2Proof.Machine.execSetAllot a s
  | .keyImport a => Sys2Proof.Machine.execKeyImport a s
  | .attest a => Sys2Proof.Machine.execAttest a s
  | .getNonce a => Sys2Proof.Machine.execGetNonce a s
  | .lifecycle a => Sys2Proof.Machine.execLifecycle a s
  | .msixTimerExpiry vector => Sys2Proof.Machine.execMsixTimerExpiry vector s
  | .msixMessageIssued vector => Sys2Proof.Machine.execMsixMessageIssued vector s
  | .hostAccessError f => Sys2Proof.Machine.execHostAccessError f s
  | .hostAccessTimeout f => Sys2Proof.Machine.execHostAccessTimeout f s
  | .memoryAccessComplete m => Sys2Proof.Machine.execMemoryAccessComplete m s
  | .translationInvalidate r => Sys2Proof.Machine.execTranslationInvalidate r s
  | .icacheFill l => Sys2Proof.Machine.execIcacheFill l s
  | .launchStart launchId => Sys2Proof.Machine.execLaunchStart launchId s
  | .dispatchTaskStart d => Sys2Proof.Machine.execDispatchTaskStart d s
  | .dispatchResume d => Sys2Proof.Machine.execDispatchResume d s
  | .messageArrival message => Sys2Proof.Machine.execMessageArrival message s
  | .taskAdmit core => Sys2Proof.Machine.execTaskAdmit core s
  | .budgetExpiry slot => Sys2Proof.Machine.execBudgetExpiry slot s
  | .timeSliceEnd asid next => Sys2Proof.Machine.execTimeSliceEnd asid next s
  | .preemptSave slot => Sys2Proof.Machine.execPreemptSave slot s
  | .taskFinish slot => Sys2Proof.Machine.execTaskFinish slot s
  | .graphArm walker => Sys2Proof.Machine.execGraphArm walker s
  | .graphNodeLaunch walker => Sys2Proof.Machine.execGraphNodeLaunch walker s
  | .graphNodeWait walker => Sys2Proof.Machine.execGraphNodeWait walker s
  | .graphWaitDone walker => Sys2Proof.Machine.execGraphWaitDone walker s
  | .graphNodeCond walker => Sys2Proof.Machine.execGraphNodeCond walker s
  | .graphNodeHost walker => Sys2Proof.Machine.execGraphNodeHost walker s
  | .graphNodeEnd walker => Sys2Proof.Machine.execGraphNodeEnd walker s
  | .feWake slot => Sys2Proof.Machine.execFeWake slot s
  | .monitorWake slot => Sys2Proof.Machine.execMonitorWake slot s
  | .monitorSweep core => Sys2Proof.Machine.execMonitorSweep core s
  | .acqRetryPass slot => Sys2Proof.Machine.execAcqRetryPass slot s
  | .recvWake slot => Sys2Proof.Machine.execRecvWake slot s
  | .jobWaitDone slot => Sys2Proof.Machine.execJobWaitDone slot s
  | .jobAccept cluster => Sys2Proof.Machine.execJobAccept cluster s
  | .engineJobStart cluster engine => Sys2Proof.Machine.execEngineJobStart cluster engine s
  | .engineAcquireGranted cluster job => Sys2Proof.Machine.execEngineAcquireGranted cluster job s
  | .engineJobComplete cluster job => Sys2Proof.Machine.execEngineJobComplete cluster job s
  | .dataFaultDelivery slot => Sys2Proof.Machine.execDataFaultDelivery slot s
  | .gateMoveDone slot => Sys2Proof.Machine.execGateMoveDone slot s
  | .cleanupReserveOut slot => Sys2Proof.Machine.execCleanupReserveOut slot s
  | .debugSessionOpen d => Sys2Proof.Machine.execDebugSessionOpen d s
  | .halt c => Sys2Proof.Machine.execHalt c s
  | .debugResume c => Sys2Proof.Machine.execDebugResume c s
  | .readTask c => Sys2Proof.Machine.execReadTask c s
  | .readMem c => Sys2Proof.Machine.execReadMem c s
  | .writeMem c => Sys2Proof.Machine.execWriteMem c s
  | .setBp c => Sys2Proof.Machine.execSetBp c s
  | .setWp c => Sys2Proof.Machine.execSetWp c s
  | .tail c => Sys2Proof.Machine.execTail c s
  | .acct c => Sys2Proof.Machine.execAcct c s
  | .slog c => Sys2Proof.Machine.execSlog c s
  | .rewind c => Sys2Proof.Machine.execRewind c s
  | .replay c => Sys2Proof.Machine.execReplay c s
  | .replayStop asid => Sys2Proof.Machine.execReplayStop asid s
  | .stepback c => Sys2Proof.Machine.execStepback c s
  | .release c => Sys2Proof.Machine.execRelease c s
  | .tailLostPacket core => Sys2Proof.Machine.execTailLostPacket core s
  | .ill bits => Sys2Proof.Machine.execIll bits s
  | .add f => Sys2Proof.Machine.execAdd f s
  | .sub f => Sys2Proof.Machine.execSub f s
  | .mul f => Sys2Proof.Machine.execMul f s
  | .mulh f => Sys2Proof.Machine.execMulh f s
  | .div f => Sys2Proof.Machine.execDiv f s
  | .rem f => Sys2Proof.Machine.execRem f s
  | .and f => Sys2Proof.Machine.execAnd f s
  | .or f => Sys2Proof.Machine.execOr f s
  | .xor f => Sys2Proof.Machine.execXor f s
  | .andn f => Sys2Proof.Machine.execAndn f s
  | .shl f => Sys2Proof.Machine.execShl f s
  | .shr f => Sys2Proof.Machine.execShr f s
  | .sra f => Sys2Proof.Machine.execSra f s
  | .rot f => Sys2Proof.Machine.execRot f s
  | .min f => Sys2Proof.Machine.execMin f s
  | .max f => Sys2Proof.Machine.execMax f s
  | .cmp f => Sys2Proof.Machine.execCmp f s
  | .sel f => Sys2Proof.Machine.execSel f s
  | .mov f => Sys2Proof.Machine.execMov f s
  | .lih f => Sys2Proof.Machine.execLih f s
  | .clz f => Sys2Proof.Machine.execClz f s
  | .ctz f => Sys2Proof.Machine.execCtz f s
  | .popc f => Sys2Proof.Machine.execPopc f s
  | .bext f => Sys2Proof.Machine.execBext f s
  | .bins f => Sys2Proof.Machine.execBins f s
  | .lea f => Sys2Proof.Machine.execLea f s
  | .abs f => Sys2Proof.Machine.execAbs f s
  | .ext f => Sys2Proof.Machine.execExt f s
  | .bswap f => Sys2Proof.Machine.execBswap f s
  | .br f => Sys2Proof.Machine.execBr f s
  | .jmp f => Sys2Proof.Machine.execJmp f s
  | .call f => Sys2Proof.Machine.execCall f s
  | .calli f => Sys2Proof.Machine.execCalli f s
  | .ret f => Sys2Proof.Machine.execRet f s
  | .loop f => Sys2Proof.Machine.execLoop f s
  | .endTask f => Sys2Proof.Machine.execEndTask f s
  | .pfi f => Sys2Proof.Machine.execPfi f s
  | .trap f => Sys2Proof.Machine.execTrap f s
  | .bpt f => Sys2Proof.Machine.execBpt f s
  | .rsys f => Sys2Proof.Machine.execRsys f s
  | .wsys f => Sys2Proof.Machine.execWsys f s
  | .xsys f => Sys2Proof.Machine.execXsys f s
  | .bench f => Sys2Proof.Machine.execBench f s
  | .tmark f => Sys2Proof.Machine.execTmark f s
  | .vadd f => Sys2Proof.Machine.execVadd f s
  | .vsub f => Sys2Proof.Machine.execVsub f s
  | .vmul f => Sys2Proof.Machine.execVmul f s
  | .vfma f => Sys2Proof.Machine.execVfma f s
  | .vmin f => Sys2Proof.Machine.execVmin f s
  | .vmax f => Sys2Proof.Machine.execVmax f s
  | .vdiv f => Sys2Proof.Machine.execVdiv f s
  | .vsqrt f => Sys2Proof.Machine.execVsqrt f s
  | .vrcp f => Sys2Proof.Machine.execVrcp f s
  | .vrsq f => Sys2Proof.Machine.execVrsq f s
  | .vexp2 f => Sys2Proof.Machine.execVexp2 f s
  | .vlog2 f => Sys2Proof.Machine.execVlog2 f s
  | .vfcmp f => Sys2Proof.Machine.execVfcmp f s
  | .vfclass f => Sys2Proof.Machine.execVfclass f s
  | .vcvt f => Sys2Proof.Machine.execVcvt f s
  | .vabs f => Sys2Proof.Machine.execVabs f s
  | .viadd f => Sys2Proof.Machine.execViadd f s
  | .visub f => Sys2Proof.Machine.execVisub f s
  | .vimul f => Sys2Proof.Machine.execVimul f s
  | .vimulh f => Sys2Proof.Machine.execVimulh f s
  | .vimad f => Sys2Proof.Machine.execVimad f s
  | .vand f => Sys2Proof.Machine.execVand f s
  | .vor f => Sys2Proof.Machine.execVor f s
  | .vxor f => Sys2Proof.Machine.execVxor f s
  | .vshl f => Sys2Proof.Machine.execVshl f s
  | .vshr f => Sys2Proof.Machine.execVshr f s
  | .vsra f => Sys2Proof.Machine.execVsra f s
  | .vimin f => Sys2Proof.Machine.execVimin f s
  | .vimax f => Sys2Proof.Machine.execVimax f s
  | .vicmp f => Sys2Proof.Machine.execVicmp f s
  | .vsel f => Sys2Proof.Machine.execVsel f s
  | .vmov f => Sys2Proof.Machine.execVmov f s
  | .vbcast f => Sys2Proof.Machine.execVbcast f s
  | .vid f => Sys2Proof.Machine.execVid f s
  | .vperm f => Sys2Proof.Machine.execVperm f s
  | .vrot f => Sys2Proof.Machine.execVrot f s
  | .vslide f => Sys2Proof.Machine.execVslide f s
  | .vred f => Sys2Proof.Machine.execVred f s
  | .vscan f => Sys2Proof.Machine.execVscan f s
  | .vext f => Sys2Proof.Machine.execVext f s
  | .vins f => Sys2Proof.Machine.execVins f s
  | .vpack f => Sys2Proof.Machine.execVpack f s
  | .vunpack f => Sys2Proof.Machine.execVunpack f s
  | .vdot4 f => Sys2Proof.Machine.execVdot4 f s
  | .vdot8 f => Sys2Proof.Machine.execVdot8 f s
  | .vquant f => Sys2Proof.Machine.execVquant f s
  | .vdequant f => Sys2Proof.Machine.execVdequant f s
  | .vpopc f => Sys2Proof.Machine.execVpopc f s
  | .mand f => Sys2Proof.Machine.execMand f s
  | .mor f => Sys2Proof.Machine.execMor f s
  | .mxor f => Sys2Proof.Machine.execMxor f s
  | .mnot f => Sys2Proof.Machine.execMnot f s
  | .mpop f => Sys2Proof.Machine.execMpop f s
  | .mfirst f => Sys2Proof.Machine.execMfirst f s
  | .mfroms f => Sys2Proof.Machine.execMfroms f s
  | .mtos f => Sys2Proof.Machine.execMtos f s
  | .mlen f => Sys2Proof.Machine.execMlen f s
  | .ld f => Sys2Proof.Machine.execLd f s
  | .st f => Sys2Proof.Machine.execSt f s
  | .vld f => Sys2Proof.Machine.execVld f s
  | .vst f => Sys2Proof.Machine.execVst f s
  | .vlds f => Sys2Proof.Machine.execVlds f s
  | .vsts f => Sys2Proof.Machine.execVsts f s
  | .vldx f => Sys2Proof.Machine.execVldx f s
  | .vstx f => Sys2Proof.Machine.execVstx f s
  | .pf f => Sys2Proof.Machine.execPf f s
  | .cln f => Sys2Proof.Machine.execCln f s
  | .feclr f => Sys2Proof.Machine.execFeclr f s
  | .feset f => Sys2Proof.Machine.execFeset f s
  | .fetst f => Sys2Proof.Machine.execFetst f s
  | .mld f => Sys2Proof.Machine.execMld f s
  | .mst f => Sys2Proof.Machine.execMst f s
  | .aadd f => Sys2Proof.Machine.execAadd f s
  | .aand f => Sys2Proof.Machine.execAand f s
  | .aor f => Sys2Proof.Machine.execAor f s
  | .axor f => Sys2Proof.Machine.execAxor f s
  | .amin f => Sys2Proof.Machine.execAmin f s
  | .amax f => Sys2Proof.Machine.execAmax f s
  | .aswp f => Sys2Proof.Machine.execAswp f s
  | .acas f => Sys2Proof.Machine.execAcas f s
  | .acas2 f => Sys2Proof.Machine.execAcas2 f s
  | .red f => Sys2Proof.Machine.execRed f s
  | .vatom f => Sys2Proof.Machine.execVatom f s
  | .fence f => Sys2Proof.Machine.execFence f s
  | .acq f => Sys2Proof.Machine.execAcq f s
  | .rel f => Sys2Proof.Machine.execRel f s
  | .arv f => Sys2Proof.Machine.execArv f s
  | .sgen f => Sys2Proof.Machine.execSgen f s
  | .sini f => Sys2Proof.Machine.execSini f s
  | .waita f => Sys2Proof.Machine.execWaita f s
  | .mxj f => Sys2Proof.Machine.execMxj f s
  | .cpj f => Sys2Proof.Machine.execCpj f s
  | .jpoll f => Sys2Proof.Machine.execJpoll f s
  | .jwait f => Sys2Proof.Machine.execJwait f s
  | .jcan f => Sys2Proof.Machine.execJcan f s
  | .send f => Sys2Proof.Machine.execSend f s
  | .recv f => Sys2Proof.Machine.execRecv f s
  | .launch f => Sys2Proof.Machine.execLaunch f s
  | .ccnt f => Sys2Proof.Machine.execCcnt f s
  | .cancel f => Sys2Proof.Machine.execCancel f s
  | .graph f => Sys2Proof.Machine.execGraph f s
  | .hnote f => Sys2Proof.Machine.execHnote f s
  | .gcall f => Sys2Proof.Machine.execGcall f s
  | .gret f => Sys2Proof.Machine.execGret f s
  | .gdone f => Sys2Proof.Machine.execGdone f s
  | .dinfo f => Sys2Proof.Machine.execDinfo f s
  | .rtake f => Sys2Proof.Machine.execRtake f s
  | .rcmpl f => Sys2Proof.Machine.execRcmpl f s
  | .rfail f => Sys2Proof.Machine.execRfail f s
  | .tret f => Sys2Proof.Machine.execTret f s
  | .hostWrite h => Sys2Proof.Machine.execHostWrite h s
  | .ualinkCompleterRequest u => Sys2Proof.Machine.execUalinkCompleterRequest u s
  | .flitCrcError link => Sys2Proof.Machine.execFlitCrcError link s
  | .powerOn => Sys2Proof.Machine.execPowerOn s
  | .perstAssert => Sys2Proof.Machine.execPerstAssert s
  | .pcieHotReset => Sys2Proof.Machine.execPcieHotReset s
  | .functionLevelResetF0 => Sys2Proof.Machine.execFunctionLevelResetF0 s
  | .functionLevelResetF1 => Sys2Proof.Machine.execFunctionLevelResetF1 s
  | .supervisorReset => Sys2Proof.Machine.execSupervisorReset s
  | .wipeComplete => Sys2Proof.Machine.execWipeComplete s
  | .nonceExpiry => Sys2Proof.Machine.execNonceExpiry s
  | .nop => Sys2Proof.Machine.execNop s
  | .resetRelease => Sys2Proof.Machine.execResetRelease s

end Sys2Proof.Machine
end

