-- ==== Sys2Proof/Machine/Issue.lean ====
section
/-!
DEFINITION. The issue of a group (R63, R79, R80, R169, R181, R184, R217, R225): which slot tries next, what stands in
the way, the group's one or two instructions, and the end of a cycle (R64).
-/

namespace Sys2Proof.Machine

/-! ### Rotation (R63) -/

/-- A slot's place in this cycle's order: its quadrant's slots in rotating order, after the one that issued last. -/
def scanPos (s : State) (key : Nat) : Nat :=
  let last := tabGet 3 (keyQuad key) s.cores.lastIssue
  4 * keyQuad key + (key % 4 + 7 - last) % 4

/-- The task's remaining count lets it issue: budget, or reserve in cleanup (R64, R164). -/
def countLeft (t : Task) : Bool := if t.clean then t.reserve != 0 else t.budget != 0

/-- The domain a task runs in has stopped issue: its log stopped it, or a replay did (R191, R201). -/
def domainStopped (s : State) (asid : Nat) : Bool :=
  match domOf s asid with | some d => d.logStopped | none => false

/-- A slot tries to issue at all: READY, with count left, past its bubble, the domain it runs in and its own one running,
not at the stop of a replay to the end of its history, and not stopped for a bench. -/
def wantsIssue (s : State) (t : Task) : Bool :=
  t.st = .ready && countLeft t && decide (t.nextIssue ≤ s.clock) && !domainStopped s t.asid
    && !domainStopped s t.home && !replayHeld s t && !benchStops s t

/-- A quadrant has issued its group of this cycle (R63). -/
def quadDone (s : State) (key : Nat) : Bool := tabGet 0 (keyQuad key) s.cores.issuedAt == s.clock + 1

/-- The slot that tries next in this cycle, if any: of the quadrants that have not issued yet. -/
def nextSlot (s : State) : Option Nat :=
  ((s.tasks.filter (fun e => wantsIssue s e.2 && !quadDone s e.1 && decide (s.scan ≤ scanPos s e.1))).foldl (fun acc e =>
    match acc with
    | none => some e.1
    | some k => if scanPos s e.1 < scanPos s k then some e.1 else some k) none)

/-! ### One group -/

/-- The attempt is no issue of its own: the slot's group issued when it blocked, and what it waited for has come about;
or a fault is delivered (R62, R75, R181). A submission the queue has chosen does issue (R84). -/
def completing (s : State) (key : Nat) : Bool :=
  s.force == some key && !(match taskAt s key with | some t => t.jobGrant | none => false)

/-- A slot has been passed over: it is held, and the quadrant's next slot tries (R63). An attempt outside the rotation
leaves the rotation where it was, and a submission that another hold has stopped competes again (R84). -/
def passOver (s : State) (key : Nat) : State :=
  if s.force.isSome then
    { modTask s key (fun t => if t.jobGrant then { t with wantsJob := false, jobGrant := false } else t) with force := none }
  else { s with scan := scanPos s key + 1 }

/-- The quadrant of a slot is done for this cycle, its units taken (R63, R82). -/
def tookQuad (s : State) (key : Nat) (bits : List Slot96) : State :=
  let s1 := bits.foldl (fun a b => takeUnits a key b) s
  { s1 with
    scan := if s.force.isSome then s.scan else 4 * (keyQuad key + 1)
    cores := { s1.cores with
      lastIssue := tabPut 3 (keyQuad key) (key % 4) s1.cores.lastIssue
      issuedAt := tabPut 0 (keyQuad key) (s.clock + 1) s1.cores.issuedAt } }

/-- A group of the slot has issued, or a blocked one has come to its end, when its second instruction takes its units. A trap
issues none of the group. -/
def issued (s : State) (key : Nat) (bits : List Slot96) : State :=
  let s1 := if completing s key then (bits.drop 1).foldl (fun a b => takeUnits a key b) s else tookQuad s key bits
  let fenced := bits.any (fun b => classOf (slotOp b) == some .memory && slotOp b != 0xAB)
  let blocked := s.grp.result = .blocked
  let s2 := modTask s1 key (fun t => { t with
    bpSkip := if blocked || bits.isEmpty || s.grp.base != t.bpSkip then t.bpSkip else none
    waitSince := if blocked then t.waitSince else 0
    feWait := if blocked then t.feWait else none
    fenceAll := t.fenceAll && !fenced, fenceReads := t.fenceReads && !fenced, wantsJob := false, jobGrant := false })
  { s2 with force := none }

/-- What one instruction of a group leads to: passed over when it was held, issued otherwise. -/
def afterGroup (key : Nat) (bits : List Slot96) (s : State) : State :=
  if s.grp.result = .held then passOver s key else issued s key bits

/-- The state in which an instruction of a group executes. -/
def atSlot (s : State) (key : Nat) (paired second : Bool) (b : Slot96) : State :=
  { modTask s key (fun t => { t with
      entryCheck := false
      pairSrc := t.pairSrc.filter (fun x => t.handler || x.pc == t.pc)
      raised := t.raised.filter (fun x => t.handler || x.pc == t.pc) }) with
    cur := key, grp := { paired := paired, second := second, bits := b, base := (taskAt s key).map (·.pc) } }

/-- The same for a group of one slot: one that its group's first instruction has left behind reads its sources as they
were at the group's issue (R79). -/
def atOne (s : State) (key : Nat) (b : Slot96) : State :=
  let s1 := atSlot s key false false b
  match taskAt s1 key with
  | none => s1
  | some t => match t.pairSrc with
    | none => s1
    | some x =>
      if x.pc = t.pc then
        { modTask s1 key (fun t => { t with pairSrc := none }) with
          grp := { s1.grp with wroteSR := x.wroteSR, raised := x.raised, snap := some { t with
            regs := x.regs, fs := x.fs, fsPoi := x.fsPoi, srs := x.srs, srsPoi := x.srsPoi, acq := x.acq } } }
      else s1

/-- Execute a slot: its instruction, or ILLEGAL_INSTR when it is none (R232). -/
def execSlot (b : Slot96) (s : State) : Host.Outcome State Fault Refusal :=
  match decodeSlot b with
  | .ok i => exec i s
  | .error _ =>
    match curTask s with
    | none => .next (withResult s .held)
    | some t => .next (settle s t (trapOf s .illegalInstr))

/-- A trap that stands before any instruction of the group. -/
def groupTrap (s : State) (key : Nat) (paired second : Bool) (b : Slot96) (tr : Trap) : State :=
  let s1 := atSlot s key paired second b
  match curTask s1 with
  | none => s1
  | some t => afterGroup key [] (settle s1 t (.trap s1 tr))

/-- A group of one slot. -/
def issueOne (s : State) (key : Nat) (b : Slot96) : Host.Outcome State Fault Refusal :=
  match execSlot b (atOne s key b) with
  | .next s1 => .next (afterGroup key [b] (if s1.grp.result = .retired then landing s s1 key else keepSrc s s1 key))
  | .fault r => .fault r
  | .refused r => .refused r
where
  /-- A second instruction left behind by a branch goes on where the branch went. -/
  landing (s s1 : State) (key : Nat) : State :=
    match (taskAt s key).bind (fun t => t.pairSrc.bind (fun x => if x.pc = t.pc then x.goes else none)) with
    | some pc => modTask s1 key (fun u => { u with pc := pc, fbuf := none })
    | none => s1
  /-- The registers kept for a group's second instruction stay until it takes effect. -/
  keepSrc (s s1 : State) (key : Nat) : State :=
    match taskAt s key with
    | some t => if t.pairSrc.isSome then modTask s1 key (fun u => { u with pairSrc := t.pairSrc }) else s1
    | none => s1

/-- The group comes to what its first instruction comes to, and its second does nothing yet: the first traps, is held, or
blocks while the second neither traps nor is held. -/
def pairEnds (r1 r2 : Result) : Bool :=
  r1 == .trapped || (r1 == .held) || (r1 == .blocked && r2 != .trapped && r2 != .held)

/-- The group comes to what its second instruction comes to, and its first does nothing yet: the second traps, or is held; but
a first instruction that takes effect does not wait for the second when it had blocked (R75), or when the second's read has to
go out on a link; `alone` says so. -/
def secondEnds (r1 r2 : Result) (alone : Bool) : Bool := r2 == .trapped || (r2 == .held && !(alone && r1 == .retired))

/-- The flags the first instruction of a group raises: those it adds to an `fs` that has none (R139). -/
def raisedBy (s : State) (key : Nat) (b : Slot96) : Word :=
  match execSlot b (modTask (atSlot s key true false b) key (fun t => { t with fs := t.fs &&& ~~~(31 : Word) })) with
  | .next u => (match taskAt u key with | some t => t.fs &&& 31 | none => 0)
  | _ => 0

/-- The second instruction of a group is left behind: the first has taken effect, and the second issues later, alone, with
its sources as they were at the group's issue, in the task `t`; `raised` are the flags of the first. A group that issues
without matching takes its second with it (R217). -/
def leaveSecond (s : State) (key : Nat) (t : Task) (raised : Word) : State :=
  let own := pcAfter t.pc 1
  modTask s key (fun u => { u with
    pc := own, bpSkip := if u.bpSkip = some t.pc then some own else u.bpSkip
    pairSrc := some { pc := own, regs := t.regs, fs := t.fs, fsPoi := t.fsPoi, srs := t.srs, srsPoi := t.srsPoi
                      wroteSR := s.grp.wroteSR, acq := t.acq, goes := if u.pc = pcAfter t.pc 2 then none else some u.pc
                      raised := raised } })

/-- The second instruction of a group waits although the first has taken effect, in `s1`: its own execution holds it or sends its
read out on a link; a replay stops between the two (R201); it is an access that the first holds back, by an acquire or a fence
(R113, R119); or, when the first had blocked, its unit is not free (R82). -/
def secondWaits (s s1 s2 : State) (key : Nat) (t : Task) (b2 : Slot96) : Bool :=
  s2.grp.result == .held || replayCuts s t || (completing s key && !unitFree s key b2)
    || match taskAt s1 key with
      | some u => fenceHolds s1 key u b2 || (accesses b2 && u.retry.any (fun r => r.acquire))
      | none => false

/-- A group of two slots (R79): both execute on the state at issue; when both take effect, the second follows the
first with its sources as they were at issue. A second instruction that blocks its slot, or that its first has made wait, is
left behind; behind a first one that blocks the second does nothing yet: DESIGN CHOICE (log entry 65). -/
def issueTwo (s : State) (key : Nat) (t : Task) (b1 b2 : Slot96) : Host.Outcome State Fault Refusal :=
  match execSlot b1 (atSlot s key true false b1), execSlot b2 (atSlot s key true true b2) with
  | .fault r, _ => .fault r
  | _, .fault r => .fault r
  | .refused r, _ => .refused r
  | _, .refused r => .refused r
  | .next s1, .next s2 =>
    if pairEnds s1.grp.result s2.grp.result then .next (afterGroup key [b1] s1)
    else if secondEnds s1.grp.result s2.grp.result (completing s key || heldOut s2) then .next (afterGroup key [b1, b2] s2)
    else if secondWaits s s1 s2 key t b2 then .next (afterGroup key [b1] (leaveSecond s1 key t (raisedBy s key b1)))
    else
      let mid := { s1 with grp := { s1.grp with
        second := true, bits := b2, snap := some t, raised := raisedBy s key b1 } }
      match execSlot b2 mid with
      | .next s3 =>
        if s3.grp.result = .retired then .next (afterGroup key [b1, b2] s3)
        else if s3.grp.result = .blocked then .next (afterGroup key [b1, b2] (leaveSecond s3 key t s3.grp.raised))
        else
          -- The first has made the second wait (an access of the group faulted, R178): the second takes effect later.
          .next (afterGroup key [b1] (leaveSecond s1 key t mid.grp.raised))
      | .fault r => .fault r
      | .refused r => .refused r

/-- A breakpoint with action STOP halts the task before its group takes effect (R216, R217). -/
def breakStop (s : State) (key : Nat) (t : Task) (session : Nat) : State :=
  let s1 := debugStop s session t.id.gtid Cause.breakpoint.value
  passOver (startPreempt (modTask s1 key (fun t => { t with bpSkip := some t.pc })) key 0x23) key

/-- The group of one or two slots evaluates: its rules, then its instructions (R79, R80). -/
def evaluate (s : State) (key : Nat) (t : Task) (g : List (Slot96 × Word)) : Host.Outcome State Fault Refusal :=
  let bits := g.map (·.1)
  let is := bits.filterMap (fun b => match decodeSlot b with | .ok i => some i | .error _ => none)
  match bits with
  | [b1, b2] =>
    if groupIllegal b1 b2 then .next (groupTrap s key true false b1 { cause := .control })
    else if !canIssue s key t (completing s key) bits is then .next (passOver s key)
    else issueTwo s key t b1 b2
  | [b] => if !canIssue s key t (completing s key) bits is then .next (passOver s key) else issueOne s key b
  | _ => .next (groupTrap s key false false 0 { cause := .control })

/-- A group's own trap, as it ended, is reported before a BREAKPOINT in its second slot, or its first: that of an earlier slot,
or of the same slot and a lower rank (R169). -/
def trapFirst (g : Group) (second : Bool) : Bool :=
  g.result == .trapped && ((!g.second && second)
    || (g.second == second && match g.cause with | some c => decide (c.rank < Cause.breakpoint.rank) | none => true))

/-- What a breakpoint with action TRAP does to a group that would otherwise issue: the trap that comes first is reported, and a
group that is held is not about to issue (R169, R217). -/
def breakTrap (s : State) (key : Nat) (g : List (Slot96 × Word)) (second : Bool) :
    Host.Outcome State Fault Refusal → Host.Outcome State Fault Refusal
  | .next s1 =>
    if trapFirst s1.grp second || s1.grp.result = .held then .next s1
    else .next (groupTrap s key (g.length == 2) second (((g.map (·.1)).drop (boolNat second)).headD 0) { cause := .breakpoint })
  | x => x

/-- The group at the task's PC, its line being in the buffer. -/
def issueGroup (s : State) (key : Nat) (t : Task) (l : BitVec 512) : Host.Outcome State Fault Refusal :=
  let g := groupSlots l t.pc
  if g.isEmpty || entryBad t l then
    .next (groupTrap s key (g.length == 2) false ((g.map (·.1)).headD 0) { cause := .control })
  else match (if t.bpSkip = some t.pc then none else bpMatch s t (g.map (·.2))) with
    | some (_, true, second) => breakTrap s key g second (evaluate { s with grp := { result := .held } } key t g)
    | some (session, false, _) => .next (breakStop s key t session)
    | none => evaluate s key t g

/-- What is taken at a group boundary before the next group is evaluated: a breakpoint deferred while the domain was sealed
(R184), then a marked fault (R181). A `waita` whose condition its monitor has seen hold ends first. -/
def boundaryTrap (t : Task) : Option Trap :=
  match t.deferredBp, t.dataFaults with
  | some _, _ => some { cause := .breakpoint, deferred := true }
  | none, x :: _ =>
    if t.handler || (match t.mon with | some m => m.seen.isSome | none => false) then none
    else some { cause := x.cause, addr := x.addr, info := x.info, record := x.record }
  | none, [] => none

/-- Take it, with the group at the PC as the frame's (R171); `g` is empty where that group is not there to be read. -/
def takeBoundary (s : State) (key : Nat) (t : Task) (g : List (Slot96 × Word)) (tr : Trap) : State :=
  let second := tr.deferred && breakIn s t g == some true
  let s1 := groupTrap s key (g.length == 2) second (((g.map (·.1)).drop (boolNat second)).headD 0) tr
  if s1.grp.result = .held then s1
  else modTask s1 key (fun t => if tr.deferred then { t with deferredBp := none } else { t with dataFaults := t.dataFaults.drop 1 })

/-- A slot tries to issue (R63): its line is fetched, what stands at the group boundary is taken, or its group issues. -/
def attempt (s : State) (key : Nat) : Host.Outcome State Fault Refusal :=
  match taskAt s key with
  | none => .next { s with force := none }
  | some t =>
    -- The bubble of R83 holds a group that issues, not one that has issued and comes to its end (R75).
    if !wantsIssue s (if completing s key then { t with nextIssue := 0 } else t) then .next (passOver s key)
    else match fetchLine s key t with
      | .wait s1 => .next (passOver s1 key)
      | .trap s1 tr l =>
        let g := match l with | some x => groupSlots x t.pc | none => []
        match boundaryTrap t with
        | some b => .next (takeBoundary s1 key t g b)
        | none => .next (groupTrap s1 key (g.length == 2) false ((g.map (·.1)).headD 0) tr)
      | .line s1 l =>
        match taskAt s1 key with
        | none => .next s1
        | some t1 =>
          match boundaryTrap t1 with
          | some b => .next (takeBoundary s1 key t1 (groupSlots l t1.pc) b)
          | none => issueGroup s1 key t1 l

/-! ### The end of a cycle -/

/-- The states in which the budget counts (R62). -/
def counts : SlotState → Bool
  | .ready | .blkJob | .blkMon | .blkFe | .blkAcq | .blkRecv | .inCall => true
  | _ => false

/-- The task at the end of a cycle: its budget, or in cleanup its reserve, has counted down (R64, R164). -/
def tickTask (t : Task) : Task :=
  if !counts t.st then t
  else if t.clean then { t with reserve := t.reserve - 1 }
  else if t.budget = noLimit then t
  else { t with budget := t.budget - 1 }

/-- What reaches zero at the end of this cycle (R64, R66, R164). -/
def expiring (e : Nat × Task) : Option Instr :=
  let t := e.2
  if !counts t.st then none
  else if t.clean then (if t.reserve = 1 then some (.cleanupReserveOut e.1) else none)
  else if t.budget = 1 then some (.budgetExpiry e.1)
  else none

/-- The end of an arithmetic cycle: the clock advances, counts go down, and what reached zero happens next. -/
def tick (s : State) : State :=
  { s with clock := s.clock + 1, scan := 0, force := none, grp := {}
           tasks := tabMap (fun _ t => tickTask t) s.tasks
           agenda := s.tasks.filterMap expiring ++ s.agenda }

/-! ### A step of the part -/

/-- Events that reach the part whatever its condition: those of the package, its links and its host registers. -/
def alwaysActs : Instr → Bool
  | .bringupComplete _ | .linkRetrainFail _ | .powerLimitStep _ | .thermalLimitStep _ | .thermalTrip _
  | .unitQuarantine _ | .sqTailWrite _ _ | .sqStoppedClear _ | .registerWrite _ | .msixUnmask _ _ | .msixTimerExpiry _
  | .msixMessageIssued _ | .hostWrite _ | .ualinkCompleterRequest _ | .flitCrcError _ | .powerOn | .perstAssert
  | .pcieHotReset | .functionLevelResetF0 | .functionLevelResetF1 | .supervisorReset | .wipeComplete
  | .resetRelease => true
  | _ => false

/-- Events of the cores, the engines and the dispatchers, which a thermal trip stops (R13). -/
def ofCores : Instr → Bool
  | .icacheFill _ | .dispatchTaskStart _ | .dispatchResume _ | .messageArrival _ | .taskAdmit _ | .budgetExpiry _
  | .timeSliceEnd _ _ | .preemptSave _ | .taskFinish _ | .feWake _ | .monitorWake _ | .monitorSweep _
  | .acqRetryPass _ | .recvWake _ | .jobWaitDone _ | .jobAccept _ | .engineJobStart _ _ | .engineAcquireGranted _ _
  | .engineJobComplete _ _ | .dataFaultDelivery _ | .gateMoveDone _ | .cleanupReserveOut _ | .tailLostPacket _ => true
  | _ => false

/-- An event happens: its fields are in their ranges, and nothing has stopped what it is an event of (R10, R13, R16). -/
def acts (s : State) (e : Instr) : Bool :=
  !e.isIsa && e.wf &&
    (alwaysActs e || (s.hub.pkg.ready && !s.hub.pkg.fatal && (!ofCores e || !s.hub.pkg.tripped)))

/-- The waiting full-empty access that may go now happens next (R75). -/
def feDue (s : State) : State :=
  if !running s then s
  else match feNext s with
    | some k => if s.agenda.head? = some (.feWake k) then s else { s with agenda := .feWake k :: s.agenda }
    | none => s

/-- A READY slot whose domain has just been sealed for eviction: the group at its PC, where its line is in the fetch buffer,
counts as one that issues during the sealing. It ends in a BREAKPOINT (R184, log entry 73). -/
def breaksNow (s : State) (key : Nat) (t : Task) : Bool :=
  let u := { t with st := .ready, preempt := 0, sealing := false }
  let s0 := setTask s key u
  match t.fbuf with
  | some (a, l) =>
    a == pcLine t.pc && !t.handler && wantsIssue s0 u && (boundaryTrap u).isNone && match issueGroup s0 key u l with
      | .next s1 => s1.grp.cause == some .breakpoint
      | _ => false
  | none => false

/-- The breakpoints that a sealing defers: the instruction does not take effect, and the pre-emption proceeds (R184). The PC kept is
that of the group's first slot, DESIGN CHOICE (log entry 97). -/
def sealBreaks (s : State) : State :=
  { s with tasks := tabMap (fun key t =>
      if t.sealing then { t with sealing := false, deferredBp := if breaksNow s key t then some t.pc else t.deferredBp }
      else t) s.tasks }

/-- What follows every step at once: breakpoints deferred by a sealing are noted, monitors see the values written, packets of
the tail leave the cores, killed domains whose work has ended are wiped, commands whose goal is reached complete, and the
metadata of lines that have left L2 reaches the carve-out. -/
def afterStep (s : State) : State := 
  metaSettles (feDue (replaysDone (rewindsDone (haltsDone (killWipes (drainTails (senseMonitors (sealBreaks s))))))))

/-- What a step does before what follows it: a slot that has been released issues, or the world's next event happens, or
the next slot in the cycle's order tries to issue, or the cycle ends. -/
def oneStep (s : State) : Host.Outcome State Fault Refusal :=
  match (if running s then s.force else none), s.agenda with
  | some k, _ => attempt s k
  | none, e :: rest => if acts s e then exec e { s with agenda := rest } else .next { s with agenda := rest }
  | none, [] =>
    if !running s then .next { s with clock := s.clock + 1 }
    else match nextSlot s with
      | some k => attempt s k
      | none => .next (tick s)

/-- One step of the part. -/
def partStep (s : State) : Host.Outcome State Fault Refusal :=
  match oneStep s with
  | .next s1 => .next (afterStep s1)
  | .fault r => .fault r
  | .refused r => .refused r

/-- The state with an instruction's 96 bits where the next step fetches them: a task, in the slot that tries next, whose
fetch buffer holds a line of five slots with that instruction at the task's PC and `nop` in the others, parity correct
(R224). A slot with no task gets one as at admission, at depth 0 of domain 1. What would come before its issue (the
agenda, a budget at zero, pending results, a marked fault, a breakpoint) is taken away. -/
def placeInstr (s : State) (b : Slot96) : State :=
  let key := s.force.getD s.cur
  let t0 : Task := (taskAt s key).getD { asid := 1, home := 1, pc := 0x20000000 }
  let pc : Word := if pcForm t0.pc && decide (pcSlot t0.pc < 5) then t0.pc else BitVec.ofNat 64 (pcLine t0.pc % 2 ^ 57)
  let nopBits : Slot96 := 0x010000000000000000000000
  let slots := (upTo 5).map (fun k => if k = pcSlot pc then b else nopBits)
  let t : Task := { t0 with
    st := .ready, pc := pc, fbuf := some (pcLine pc, makeLine slots 0 0), pend := [], arriving := [], retry := []
    nextIssue := 0, fenceAll := false, fenceReads := false, dataFaults := [], deferredBp := none, entryCheck := false
    bpSkip := some pc, pairSrc := none, raised := none, budget := if t0.budget = 0 then noLimit else t0.budget, mon := none
    reserve := if t0.reserve = 0 then 1 else t0.reserve }
  { s with
    tasks := tabSet key t s.tasks, agenda := [], force := some key
    cores := { s.cores with divFree := [], vdivFree := [], pipeFree := [] }
    hub := { s.hub with
      pkg := { s.hub.pkg with ready := true, wiping := false, tripped := false, fatal := false }
      doms := tabMap (fun _ d => { d with logStopped := false, replay := none }) s.hub.doms } }

end Sys2Proof.Machine
end

