-- ==== Sys2Proof/Machine/Step.lean ====
section
/-!
DEFINITION. One step of the part (`Sys2Proof.Machine.partStep`). What the world outside the cores does next stands in
`State.agenda`.
-/

namespace Sys2Proof.Machine

/-- One step: a released slot's issue, or the next event of the agenda, or one slot's attempt to issue, or the end of the
cycle; and what follows at once. -/
def step (s : State) : Host.Outcome State Fault Refusal := partStep s

/-- The state in which the next step fetches and issues the instruction whose slot is `w` (R223). The opcode table
numbers no bits, so `w` is the whole slot. -/
def State.withFetchWord (s : State) (_nbits w : Nat) : State := placeInstr s (BitVec.ofNat 96 w)

end Sys2Proof.Machine
end

