-- ==== Sys2Proof/Safety.lean ====
section
/-!
DEFINITION. What counts as a safe run and how an instruction may change the state, in the terms statements use: states
that keep the canonical form of memory, tasks that may execute an instruction, and the frames of the instructions: what
each shape of instruction writes, and that it writes nothing else.
-/

namespace Sys2Proof.Machine

/-- The canonical form of physical memory: addresses strictly rising, no entry equal to what an unlisted address reads
as, the same of its poison bits, and lines strictly rising in the tables of metadata and of key pairs. -/
def Memory.wf (m : Memory) : Bool :=
  tabWf 0 m.bytes && tabWf false m.poison && tabAbove none m.umbra && tabAbove none m.keys

/-- A step goes on. -/
def goesOn (s : State) : Bool :=
  match step s with
  | .next _ => true
  | _ => false

/-! ### When an instruction executes -/

/-- The acting task is `t`, its slot can issue, the instruction is legal, and every vector register it names lies below
VREGS (R62, R73, R232). -/
def canRun (i : Instr) (s : State) (t : Task) : Prop :=
  curTask s = some t ∧ t.st = .ready ∧ i.wf = true ∧ ∀ n ∈ vectorNames i, n < t.vregs

/-- The PC an instruction that goes on leaves: NextPC, which the first instruction of a pair has already chosen when the
second takes effect (R79, R261). -/
def pcOn (s : State) (t : Task) : Word := if s.grp.second then t.pc else nextPc s t

/-! ### Frames -/

/-- The instruction took effect on the acting task alone: memory, scratchpads, caches, the hub, the clock and every other
task are as they were. -/
def onlyTask (s u : State) (t' : Task) : Prop :=
  u = { s with tasks := u.tasks, grp := { s.grp with result := .retired } } ∧ curTask u = some t' ∧
    ∀ k, k ≠ s.cur → taskAt u k = taskAt s k

/-- Of the registers, scalar register `d` alone is written, with `v` and poison `p`; s0 stays zero and clean (R231). -/
def setsScalar (r r' : Regs) (d : Nat) (v : Word) (p : Bool) : Prop :=
  (∀ n, getS r' n = if n = d ∧ d ≠ 0 then v else getS r n) ∧
    (∀ n, poiS r' n = if n = d ∧ d ≠ 0 then p else poiS r n) ∧
    r'.v = r.v ∧ r'.m = r.m ∧ r'.vPoi = r.vPoi ∧ r'.mPoi = r.mPoi

/-- Of the registers, vector register `d` alone is written, with `v` and poison bits `p`. -/
def setsVector (r r' : Regs) (d : Nat) (v : Vec) (p : BitVec 32) : Prop :=
  (∀ n, getV r' n = if n = d then v else getV r n) ∧ (∀ n, poiV r' n = if n = d then p else poiV r n) ∧
    r'.s = r.s ∧ r'.m = r.m ∧ r'.sPoi = r.sPoi ∧ r'.mPoi = r.mPoi

/-- Of the registers, mask register `d` alone is written, with `v` and poison `p`; m0 stays all ones and clean (R231). -/
def setsMask (r r' : Regs) (d : Nat) (v : Mask) (p : Bool) : Prop :=
  (∀ n, getM r' n = if n = d ∧ d ≠ 0 then v else getM r n) ∧
    (∀ n, poiM r' n = if n = d ∧ d ≠ 0 then p else poiM r n) ∧
    r'.s = r.s ∧ r'.v = r.v ∧ r'.sPoi = r.sPoi ∧ r'.vPoi = r.vPoi

/-- The task after an instruction that goes on: its count of instructions has risen by one and it stands at `pcOn`. -/
def wentOn (s : State) (t t' : Task) : Prop :=
  t' = { t with regs := t'.regs, fs := t'.fs, srs := t'.srs, pend := t'.pend, pc := pcOn s t, icount := t.icount + 1 }

/-- An instruction whose only result is scalar register `d`, ready at latency `lat` (R80, R81). -/
def scalarDone (s : State) (t : Task) (u : State) (d : Nat) (v : Word) (p : Bool) (lat : Nat) : Prop :=
  ∃ t', onlyTask s u t' ∧ wentOn s t t' ∧ t'.fs = t.fs ∧ t'.srs = t.srs ∧ setsScalar t.regs t'.regs d v p ∧
    ∀ k, tabGet 0 k t'.pend = if k = d ∧ d ≠ 0 then s.clock + lat else tabGet 0 k t.pend

/-- An instruction whose only result is mask register `d`. -/
def maskDone (s : State) (t : Task) (u : State) (d : Nat) (v : Mask) (p : Bool) (lat : Nat) : Prop :=
  ∃ t', onlyTask s u t' ∧ wentOn s t t' ∧ t'.fs = t.fs ∧ t'.srs = t.srs ∧ setsMask t.regs t'.regs d v p ∧
    ∀ k, tabGet 0 k t'.pend = if k = mKey d then s.clock + lat else tabGet 0 k t.pend

/-- Every element of a vector value, for elements `w` bits wide: an active one is the instruction's, any other the old
one (R133, R275). -/
def lanesAre (w : Nat) (v : Vec) (act : Nat → Bool) (old : Vec) (lane : Nat → Nat) : Prop :=
  ∀ i, i < 4096 / w → elt w v i = if act i then lane i % 2 ^ w else elt w old i

/-- An instruction whose only result is vector register `d`, element by element; no flag, no other state. -/
def vectorDone (s : State) (t : Task) (u : State) (d w : Nat) (act : Nat → Bool) (lane : Nat → Nat) (p : BitVec 32)
    (lat : Nat) : Prop :=
  ∃ t' v, onlyTask s u t' ∧ wentOn s t t' ∧ t'.fs = t.fs ∧ t'.srs = t.srs ∧
    lanesAre w v act (getV (srcRegs s t) d) lane ∧ setsVector t.regs t'.regs d v p ∧
    ∀ k, tabGet 0 k t'.pend = if k = vKey d then s.clock + lat else tabGet 0 k t.pend

/-- The flags of every active element, together (R140). -/
def laneFlags (w : Nat) (act : Nat → Bool) (flags : Nat → Nat) : Nat :=
  (upTo (4096 / w)).foldl (fun a i => a ||| (if act i then flags i else 0)) 0

/-- As `vectorDone`, for an instruction that raises flags: they are added to `fs` (R140), and S steps on where the
instruction rounds stochastically (R135). -/
def floatDone (s : State) (t : Task) (u : State) (d w : Nat) (act : Nat → Bool) (lane : Nat → Nat × Nat) (p : BitVec 32)
    (mode : Nat) : Prop :=
  ∃ t' v, onlyTask s u t' ∧ wentOn s t t' ∧
    t'.fs = t.fs ||| BitVec.ofNat 64 (laneFlags w act (fun i => (lane i).2)) ∧
    t'.srs = (if mode = 5 ∧ s.grp.wroteSR = false then BitVec.ofNat 64 (stepsSR 64 t.srs.toNat) else t.srs) ∧
    lanesAre w v act (getV (srcRegs s t) d) (fun i => (lane i).1) ∧ setsVector t.regs t'.regs d v p

/-- The poison bits of a vector result (R107, R278): of every active element, the governing mask or a source read. -/
def resultPoison (s : State) (t : Task) (f : FmtV) (w : Nat) (act : Nat → Bool) (src : Nat → Bool) : BitVec 32 :=
  vecPoison w act (poiV (srcRegs s t) f.d.toNat) (fun i => poiMq (srcRegs s t) f.mq || src i)

/-- The rounding of element i by an instruction that rounds in mode `m` (R134, R135). -/
def roundAs (s : State) (t : Task) (f : FmtV) (m i : Nat) : Rounding :=
  rounding m f.sat (srcTask s t).fs (srFor s t m) i

/-- An instruction that goes on and writes no register at all. -/
def nothingDone (s : State) (t : Task) (u : State) : Prop :=
  onlyTask s u { t with pc := pcOn s t, icount := t.icount + 1 }

/-- As `onlyTask`, but for an instruction that the tail may record (R218 to R220): the tail's buffers and the task's
gathered outcome bits may have changed, and only where the domain's tail is enabled. -/
def tracedTask (s u : State) (t t' : Task) : Prop :=
  u = { s with
    tasks := u.tasks, grp := { s.grp with result := .retired }
    cores := { s.cores with
      tailBuf := u.cores.tailBuf, tailLost := u.cores.tailLost, tailLast := u.cores.tailLast } } ∧
    (∃ b, curTask u = some { t' with branchBits := b }) ∧ (∀ k, k ≠ s.cur → taskAt u k = taskAt s k) ∧
    (tailEnabled s t.asid = false → u.cores = s.cores ∧ curTask u = some { t' with branchBits := t.branchBits })

/-- The instruction took effect on the acting task and in the hub alone. -/
def hubAndTask (s u : State) (t' : Task) : Prop :=
  u = { s with tasks := u.tasks, hub := u.hub, grp := { s.grp with result := .retired } } ∧ curTask u = some t' ∧
    ∀ k, k ≠ s.cur → taskAt u k = taskAt s k

/-- The task after a transfer (R83, R261): it stands at `pc`, its fetch buffer takes the target's line anew, and its next
group waits for the bubble. -/
def wentTo (s : State) (t : Task) (pc : Word) : Task :=
  { t with pc := pc, fbuf := none, nextIssue := s.clock + 3, icount := t.icount + 1 }

/-- The task after an instruction that goes on at NextPC and changes nothing else. -/
def wentBy (s : State) (t : Task) : Task := { t with pc := pcOn s t, icount := t.icount + 1 }

/-- The target of a direct transfer (R261), as an integer. -/
def targetOf (s : State) (t : Task) (f : FmtB) : Int := (ownPc s t).toNat / 64 * 64 + 64 * f.loff.toInt + f.slot.toNat

/-- The state in which the acting task has taken the trap of an instruction: TrapEnter (R172) of the state before it, or,
while results of s1 to s8 are still due, the state before it, unchanged. -/
def trapped (s : State) (tr : Trap) : State :=
  let r := trapEnter s s.cur tr
  if r.grp.result = .held then withResult s .held else { r with grp := { r.grp with cause := some tr.cause } }

/-- The instruction raises a cause, with nothing of it taking effect. -/
def raises (i : Instr) (s : State) (c : Cause) : Prop := exec i s = .next (trapped s { cause := c })

/-- The instruction is not complete: its slot passes to a blocked state, to issue it again (R62). -/
def blocksIn (i : Instr) (s : State) (t : Task) (st : SlotState) (p : State → Prop) : Prop :=
  ∃ u, exec i s = .next u ∧ u.grp.result = .blocked ∧ p u ∧ (∀ k, k ≠ s.cur → taskAt u k = taskAt s k) ∧
    ∃ t', curTask u = some t' ∧ t'.st = st ∧ t'.pc = t.pc ∧ t'.regs = t.regs ∧ t'.icount = t.icount

/-- The instruction is held as by the scoreboard: nothing of it happens. -/
def heldBack (i : Instr) (s : State) : Prop := exec i s = .next (withResult s .held)

/-- The task of slot `key` can enter its domain's handler now (R172): it is in none, the handler exists, no result of s1
to s8 is due, and the frame's pages are mapped valid, writable and PIN (R182). -/
def canEnter (s : State) (key : Nat) (t : Task) : Prop :=
  taskAt s key = some t ∧ t.handler = false ∧ pinnedFault s t.asid (trapAreaVa s t.asid) 8 = none ∧
    trapHandler s t.asid ≠ 0 ∧ savePending s t = false ∧
    pinnedFault s t.asid (trapFrameVa s t.asid key) 256 = none

/-! ### Accesses -/

/-- MemOp reaches its access (R298, R299): no cause stands before it, `s1` is the state with the race records of its check
and `ps` its elements with their places; none of them is a replayable fault, no line is busy, no watchpoint matches. -/
def placedAs (s : State) (t : Task) (f : FmtM) (rq : MemReq) (more : Placed → List Finding) (s1 : State) (ps : Placed) :
    Prop :=
  resolve s t f rq more = .ok (s1, ps) ∧ lineBusy t ps = false ∧ watchHit s t rq ps = none ∧
    ∀ x ∈ ps, ∀ o va, x.2 ≠ .fault o va

/-- The instruction's read of a place behind a link goes out, and its group is held until the read has come to its end (R36,
R80): nothing else of it happens. -/
def readsLink (i : Instr) (s : State) (pa : Nat) : Prop :=
  ∃ u a q, exec i s = .next u ∧ u.grp.result = .held ∧ (∀ k, taskAt u k = taskAt s k) ∧ u.hub.accesses = tabSet s.hub.nextId a s.hub.accesses ∧
    a.slot = s.cur ∧ a.use = .wait ∧ a.op = .load ∧ a.parts = [q] ∧ q.pa = pa

/-- The full-empty condition of an access holds (R74, R75): none is asked, or every granule's bit is as asked and no older
waiter of the same kind stands before it. -/
def feOpen (s : State) (t : Task) (isStore : Bool) (f : FmtM) (ps : Placed) : Prop :=
  f.fe = 0 ∨ (isStore = true ∧ f.fe = 1) ∨
    ((∀ g ∈ granulesOf ps, tabGet false g s.cores.full = !isStore) ∧
      overtakes s t (if isStore then 2 else f.fe.toNat - 1) (granulesOf ps) = false)

/-- No session's slice-logging filter is on (R222): slices write no records. -/
def slicesOff (s : State) : Prop := ∀ e ∈ s.hub.sessions, natBit e.2.slogFilter.toNat 63 = false

/-- What the places of an access that are not left for a host link read as, poisoned by a governing mask that is (R278). -/
def piecesRead (s : State) (ps : Placed) : List Piece :=
  (ps.filter (fun x => !isDeferred x)).map (fun x =>
    { roff := x.1.roff, size := x.1.size, val := (spotRead s x).1, poi := (spotRead s x).2 || x.1.mpoi })

/-- The task after an access that goes on: registers `regs`, the scoreboard's marks as they come to be, and no element left
that waits for a retry entry. -/
def accessed (s : State) (t t' : Task) (regs : Regs) : Prop :=
  t' = { t with
    regs := regs, pc := pcOn s t, icount := t.icount + 1, pend := t'.pend, arriving := t'.arriving, raised := none }

/-- A step leaves every task but the acting one, the clock and the choice of slots as they were. -/
def othersStand (s u : State) : Prop :=
  (∀ k, k ≠ s.cur → taskAt u k = taskAt s k) ∧ u.clock = s.clock ∧ u.cur = s.cur ∧ u.agenda = s.agenda

/-- Byte i of a place. -/
def byteAt (s : State) (x : Spot) (i : Nat) : Byte :=
  match x with
  | .mem _ _ pa _ _ => tabGet 0 (pa + i) s.mem.bytes
  | .spad core off => tabGet 0 (spadKey core off + i) s.cores.spad
  | .fault _ _ => 0

/-- The place lies in plain memory (no LOG, no SYS page), or in a scratchpad. -/
def plainPlace (x : Spot) : Prop :=
  match x with
  | .mem _ _ _ l _ => l.log = false ∧ l.sys = false
  | .spad _ _ => True
  | .fault _ _ => False

/-- Of all the bytes of physical memory and of the scratchpads, the `n` at a place alone are written, with the bytes of
`v`, the first lowest (R89). -/
def storesAt (s u : State) (x : Spot) (n v : Nat) : Prop :=
  (∀ i, i < n → byteAt u x i = BitVec.ofNat 8 (v / 256 ^ i)) ∧
    match x with
    | .mem _ _ pa _ _ => u.cores.spad = s.cores.spad ∧
        ∀ a, a < pa ∨ pa + n ≤ a → tabGet 0 a u.mem.bytes = tabGet 0 a s.mem.bytes
    | .spad core off => u.mem = s.mem ∧
        ∀ a, a < spadKey core off ∨ spadKey core off + n ≤ a → tabGet 0 a u.cores.spad = tabGet 0 a s.cores.spad
    | .fault _ _ => False

/-- What slot `key` waited for has come about: its task `t`, as `t'`, issues next; nothing else changes. -/
def woken (s u : State) (key : Nat) (t' : Task) : Prop :=
  u = { s with tasks := u.tasks, force := some key } ∧ taskAt u key = some { t' with st := .ready } ∧
    ∀ k, k ≠ key → taskAt u k = taskAt s k

/-- Of the tasks, that of slot `key` alone changes, to `t'`; nothing outside the table of tasks does. -/
def oneTask (s u : State) (key : Nat) (t' : Task) : Prop :=
  u = { s with tasks := u.tasks } ∧ taskAt u key = some t' ∧ ∀ k, k ≠ key → taskAt u k = taskAt s k

/-- The event happens, and what follows holds of the state after it. -/
def happens (i : Instr) (s : State) (p : State → Prop) : Prop := ∃ u, exec i s = .next u ∧ p u

/-- The administrative queue offers the record `r`, of the kind given, and it is executed (R27, R39, R49). -/
def offered (s : State) (f : AdminFetch) (kind : Nat) (r : AdminRecord) : Prop :=
  running s = true ∧ (queueAt s admQueue).fetches = true ∧ f.ringOk = true ∧
    (∃ b, recordBytes s (queueAt s admQueue) = some b ∧ AdminRecord.ofBytes b = r) ∧ r.error = 0 ∧ r.kind = kind ∧
    (s.hub.pkg.lifecycle ≠ .retired ∨ 0x1B ≤ kind)

/-- The command is done: its effect is `s1`, and then its result holds STATUS and VALUE, with an event on vector 0 where
the record asks for one (R39). -/
def answers (i : Instr) (s : State) (r : AdminRecord) (s1 : State) (status value : Nat) : Prop :=
  ∃ u, exec i s = .next u ∧ u = { s1 with mem := u.mem, hub := { s1.hub with vecs := u.hub.vecs } } ∧
    u.mem = physWrite s1.mem (hostAddr r.result) (leBytes 8 status ++ leBytes 8 value) false ∧
    ∀ n, tabGet {} n u.hub.vecs = if n = 0 ∧ r.irq = true then msixEvent (sysOutstanding s1) (tabGet {} 0 s1.hub.vecs)
      else tabGet {} n s1.hub.vecs

/-- The package becomes `p`, and nothing else changes, but that a change of PKG_STATUS counts one event on vector 0 (R30). -/
def pkgBecomes (s u : State) (p : Package) : Prop :=
  let s1 : State := { s with hub := { s.hub with pkg := p } }
  u = { s1 with hub := { s1.hub with vecs := u.hub.vecs } } ∧
    ∀ n, tabGet {} n u.hub.vecs = if n = 0 ∧ pkgStatus p ≠ pkgStatus s.hub.pkg
      then msixEvent (sysOutstanding s) (tabGet {} 0 s.hub.vecs) else tabGet {} n s.hub.vecs

/-- A debug command of session `x` on domain `d` is executed: the session is open and free, the part is ready, and the
domain lies in the session (R51, R215). -/
def commands (s : State) (c : DebugCmd) (x : Session) (d : Domain) : Prop :=
  sessionAt s c.session = some x ∧ x.busy = none ∧ s.hub.pkg.ready = true ∧ domOf s c.asid = some d ∧
    reaches s.hub.pkg x d = true

/-- OP of a debug command (R215). -/
def cmdOp : Instr → Nat
  | .halt _ => 0x01 | .debugResume _ => 0x02 | .readTask _ => 0x03 | .readMem _ => 0x04 | .writeMem _ => 0x05
  | .setBp _ => 0x06 | .setWp _ => 0x07 | .tail _ => 0x08 | .acct _ => 0x09 | .slog _ => 0x0A | .rewind _ => 0x10
  | .replay _ => 0x11 | .stepback _ => 0x12 | .release _ => 0x13
  | _ => 0

/-- The command is done: its effect is `s1`, its session's RESULT holds STATUS and VALUE, and CMD the command. -/
def replies (i : Instr) (s : State) (c : DebugCmd) (s1 : State) (status value : Nat) : Prop :=
  exec i s = .next (writeCmd
    (modSession s1 c.session (fun x => { x with status := status, value := BitVec.ofNat 64 value })) (cmdOp i) c)

/-- As `replies`, of a command for which the spec states no VALUE. -/
def repliesAny (i : Instr) (s : State) (c : DebugCmd) (s1 : State) (status : Nat) : Prop :=
  ∃ v, exec i s = .next (writeCmd { modSession s1 c.session (fun x => { x with status := status, value := v }) with
    free := s1.free + 1 } (cmdOp i) c)

/-- A running task, pre-empted for a cause: it issues no more, and a halt withholds its RESUME. -/
def preempted (t : Task) (cause : Nat) : Task :=
  { t with
    preempt := cause, withhold := t.withhold || decide (cause = 0x23), st := .preempting, feWait := none
    wantsJob := false, jobGrant := false }

/-- The instruction of the acting task takes effect, and what follows holds of the state after it. -/
def completes (i : Instr) (s : State) (p : State → Prop) : Prop := ∃ u, exec i s = .next u ∧ u.grp.result = .retired ∧ p u

end Sys2Proof.Machine
end

