-- ==== Sys2Proof/Certificates/Slice0/Obligations.lean ====
section
/-!
DEFINITION. The statements for the provers. Each says in its docstring which rule of the spec it formalises.
-/

open Sys2Proof Sys2Proof.Machine

/-! ### Single rules, whole (R17, R284) -/

/-- R17: every field of PKG_STATUS reads as the package is, the reserved ones zero and the counts of live units once READY is
1; after a reset it reads WIPING alone; a host write to it is ignored. -/
def Obligations.PkgStatusReads : Prop :=
  (∀ p : Package,
    let f := fun (lo n : Nat) => (pkgStatus p).toNat / 2 ^ lo % 2 ^ n
    let bit := fun (b : Bool) => if b = true then 1 else 0
    f 0 1 = bit p.fatal ∧ f 1 1 = bit p.ready ∧ f 2 1 = bit p.wiping ∧ f 3 1 = bit p.replReq ∧
    f 4 1 = bit (decide (p.linksDown ≠ [])) ∧ f 5 1 = bit (decide (p.powerSteps ≠ 0)) ∧
    f 6 2 = (if p.tripped = true then 2 else if p.thermSteps = 0 then 0 else 1) ∧ f 8 8 = 0 ∧ f 48 16 = 0 ∧
    (p.ready = true →
      f 16 8 = ((List.range 160).filter (fun c => decide (c ∉ p.quarSlices))).length ∧
      f 24 8 = ((List.range 160).filter (fun c => decide (c ∉ p.quarClusters))).length ∧
      f 32 16 = ((List.range 1280).filter (fun c => decide (c ∉ p.quarCores ∧ c / 8 ∉ p.quarClusters))).length)) ∧
  ∀ s : State, (∀ i ∈ [Instr.powerOn, .perstAssert, .pcieHotReset, .functionLevelResetF0, .supervisorReset],
      happens i s fun u => pkgStatus u.hub.pkg = 4) ∧
    ∀ v, happens (.registerWrite ⟨0, 0x008, v⟩) s fun u => u = s

/-- R284: `vfclass` (0x4D), of a type in F, writes to each active element the unsigned integer whose one set bit names the class
of the raw element of v[a]: −∞, negative normal, negative subnormal, −0, +0, positive subnormal, positive normal, +∞,
signalling NaN, quiet NaN, from bit 0 up. It raises no flag, and its result is ready at VINT latency. -/
def Obligations.VfclassNamesTheClass : Prop :=
  ∀ (f : FmtV) (s : State) (t : Task),
    let r := srcRegs s t
    let w := f.ty.width
    let q := match f.ty with | .f64 => 52 | .f32 => 23 | .f16 => 10 | _ => 7
    let inf := (2 ^ (w - 1 - q) - 1) * 2 ^ q
    let bitOf := fun (x : Nat) =>
      let neg := 2 ^ (w - 1) ≤ x
      let mag := x % 2 ^ (w - 1)
      if mag = 0 then (if neg then 3 else 4)
      else if mag < 2 ^ q then (if neg then 2 else 5)
      else if mag < inf then (if neg then 1 else 6)
      else if mag = inf then (if neg then 0 else 7)
      else if mag < inf + 2 ^ (q - 1) then 8 else 9
    (encode (.vfclass f)).extractLsb' 88 8 = 0x4D#8 ∧
    ((Instr.vfclass f).wf = true → f.ty ∈ [ElemTy.f64, .f32, .f16, .bf16]) ∧
    (canRun (.vfclass f) s t → completes (.vfclass f) s fun u =>
      vectorDone s t u f.d.toNat w (active r f.mq w) (fun i => 2 ^ bitOf (elt w (getV r f.a.toNat) i))
        (resultPoison s t f w (active r f.mq w) (srcA r f)) (vLat f latVint))

/-! ### Scalar instructions (R255 to R259) -/

/-- R256, R257, R81: every arithmetic scalar instruction executes whenever its task can issue, at every width, with either
second operand: s[d] takes WriteS of the stated value (s0 takes nothing), poisoned when a register read is, ready after the
stated latency; the instruction count rises by one and nothing else changes. R256, R81: every bitwise, shifting, counting
and reordering scalar instruction executes whenever its task can issue; bit j of each result below Wd is as stated, through
WriteS; nothing else changes. -/
def Obligations.ScalarArithmeticAndLogicExecute : Prop :=
  (∀ (f : FmtS) (s : State) (t : Task),
     let r := srcRegs s t
     let p := poiA r f || poiB r f
     let wd := sWidth f.w
     (canRun (.add f) s t → completes (.add f) s fun u => scalarDone s t u f.d.toNat
       (if f.fn = 0 then sResult f ((uA r f : Int) + uB r f)
        else if f.fn = 1 then sResult f (clampS wd (sA r f + sB r f))
        else sResult f (clampU wd ((uA r f : Int) + uB r f))) p 1) ∧
     (canRun (.sub f) s t → completes (.sub f) s fun u => scalarDone s t u f.d.toNat
       (if f.fn = 0 then sResult f ((uA r f : Int) - uB r f)
        else if f.fn = 1 then sResult f (clampS wd (sA r f - sB r f))
        else sResult f (clampU wd ((uA r f : Int) - uB r f))) p 1) ∧
     (canRun (.mul f) s t → completes (.mul f) s fun u => scalarDone s t u f.d.toNat
       (sResult f ((uA r f : Int) * uB r f)) p 3) ∧
     (canRun (.mulh f) s t → completes (.mulh f) s fun u => scalarDone s t u f.d.toNat
       (sResult f ((if f.fn = 0 then sA r f * sB r f else if f.fn = 1 then (uA r f : Int) * uB r f else sA r f * uB r f)
         / (2 ^ wd : Int))) p 3) ∧
     (canRun (.div f) s t → completes (.div f) s fun u => scalarDone s t u f.d.toNat
       (let x : Int := if f.fn = 0 then sA r f else uA r f
        let y : Int := if f.fn = 0 then sB r f else uB r f
        sResult f (if y = 0 then -1 else if f.fn = 0 ∧ x = -(2 ^ (wd - 1) : Int) ∧ y = -1 then x else x.tdiv y)) p 24) ∧
     (canRun (.rem f) s t → completes (.rem f) s fun u => scalarDone s t u f.d.toNat
       (let x : Int := if f.fn = 0 then sA r f else uA r f
        let y : Int := if f.fn = 0 then sB r f else uB r f
        sResult f (if y = 0 then x else if f.fn = 0 ∧ x = -(2 ^ (wd - 1) : Int) ∧ y = -1 then 0
          else x - x.tdiv y * y)) p 24) ∧
     (canRun (.min f) s t → completes (.min f) s fun u => scalarDone s t u f.d.toNat
       (if f.fn = 0 then sResult f (min (sA r f) (sB r f)) else sResult f (min (uA r f : Int) (uB r f))) p 1) ∧
     (canRun (.max f) s t → completes (.max f) s fun u => scalarDone s t u f.d.toNat
       (if f.fn = 0 then sResult f (max (sA r f) (sB r f)) else sResult f (max (uA r f : Int) (uB r f))) p 1) ∧
     (canRun (.abs f) s t → completes (.abs f) s fun u => scalarDone s t u f.d.toNat
       (sResult f (if sA r f < 0 then -(sA r f) else sA r f)) (poiA r f) 1) ∧
     (canRun (.lea f) s t → completes (.lea f) s fun u => scalarDone s t u f.d.toNat
       (getS r f.a.toNat + BitVec.ofNat 64 ((opB64 r f).toNat * 2 ^ f.fn.toNat)) p 1)) ∧
  (∀ (f : FmtS) (s : State) (t : Task),
     let r := srcRegs s t
     let p := poiA r f || poiB r f
     let wd := sWidth f.w
     let n := uB r f % wd
     (canRun (.and f) s t → completes (.and f) s fun u => scalarDone s t u f.d.toNat
       (sResult f (uA r f &&& uB r f : Nat)) p 1) ∧
     (canRun (.or f) s t → completes (.or f) s fun u => scalarDone s t u f.d.toNat
       (sResult f (uA r f ||| uB r f : Nat)) p 1) ∧
     (canRun (.xor f) s t → completes (.xor f) s fun u => scalarDone s t u f.d.toNat
       (sResult f (uA r f ^^^ uB r f : Nat)) p 1) ∧
     (canRun (.andn f) s t → completes (.andn f) s fun u => ∃ v, scalarDone s t u f.d.toNat (sResult f (v : Nat)) p 1 ∧
       v < 2 ^ wd ∧ ∀ j, j < wd → v.testBit j = ((uA r f).testBit j && !(uB r f).testBit j)) ∧
     (canRun (.shl f) s t → completes (.shl f) s fun u => scalarDone s t u f.d.toNat
       (sResult f ((uA r f : Int) * 2 ^ n)) p 1) ∧
     (canRun (.shr f) s t → completes (.shr f) s fun u => scalarDone s t u f.d.toNat
       (sResult f (uA r f / 2 ^ n : Nat)) p 1) ∧
     (canRun (.sra f) s t → completes (.sra f) s fun u => scalarDone s t u f.d.toNat
       (sResult f (sA r f / (2 ^ n : Int))) p 1) ∧
     (canRun (.rot f) s t → completes (.rot f) s fun u => ∃ v, scalarDone s t u f.d.toNat (sResult f (v : Nat)) p 1 ∧
       ∀ j, j < wd → v.testBit ((if f.fn = 0 then j + n else j + (wd - n)) % wd) = (uA r f).testBit j) ∧
     (canRun (.clz f) s t → completes (.clz f) s fun u => ∃ c, scalarDone s t u f.d.toNat (sResult f (c : Nat)) (poiA r f) 1 ∧
       c ≤ wd ∧ uA r f < 2 ^ (wd - c) ∧ (c < wd → 2 ^ (wd - c - 1) ≤ uA r f)) ∧
     (canRun (.ctz f) s t → completes (.ctz f) s fun u => ∃ c, scalarDone s t u f.d.toNat (sResult f (c : Nat)) (poiA r f) 1 ∧
       c ≤ wd ∧ (∀ j, j < c → (uA r f).testBit j = false) ∧ (c < wd → (uA r f).testBit c = true)) ∧
     (canRun (.popc f) s t → completes (.popc f) s fun u => scalarDone s t u f.d.toNat
       (sResult f (((upTo wd).filter (fun j => (uA r f).testBit j)).length : Nat)) (poiA r f) 1) ∧
     (canRun (.bswap f) s t → completes (.bswap f) s fun u => ∃ v, scalarDone s t u f.d.toNat (sResult f (v : Nat)) (poiA r f) 1 ∧
       ∀ j, j < wd → v.testBit j = (uA r f).testBit
         (if f.fn = 0 then 8 * (wd / 8 - 1 - j / 8) + j % 8 else wd - 1 - j)))

/-- R256, R258, R259, R81: every comparing, selecting, moving and field instruction executes whenever its task can issue,
with the stated result; `nop` executes and writes nothing. -/
def Obligations.ScalarMovesExecute : Prop :=
  ∀ (f : FmtS) (s : State) (t : Task),
    let r := srcRegs s t
    let p := poiA r f || poiB r f
    let d := f.d.toNat
    let c := (opB64 r f).toNat
    let l := min (c / 64 % 128) 64
    let field := (getS r f.a.toNat).toNat / 2 ^ (c % 64) % 2 ^ l
    (canRun (.cmp f) s t → completes (.cmp f) s fun u => ∃ b, scalarDone s t u d
      (if b then (if f.sx then BitVec.allOnes 64 else 1) else 0) p 1 ∧
        (b = true ↔ (f.fn = 0 ∧ uA r f = uB r f) ∨ (f.fn = 1 ∧ uA r f ≠ uB r f) ∨ (f.fn = 2 ∧ sA r f < sB r f) ∨
          (f.fn = 3 ∧ sB r f ≤ sA r f) ∨ (f.fn = 4 ∧ uA r f < uB r f) ∨ (f.fn = 5 ∧ uB r f ≤ uA r f) ∨
          (f.fn = 6 ∧ uA r f &&& uB r f ≠ 0))) ∧
    (canRun (.sel f) s t → completes (.sel f) s fun u => scalarDone s t u d
      (sResult f (if getS r d ≠ 0 then uA r f else uB r f : Nat)) (p || poiS r d) 1) ∧
    (canRun (.mov f) s t → completes (.mov f) s fun u => scalarDone s t u d
      (if f.fn = 1 then BitVec.ofNat 64 f.imm.toNat else sResult f (uB r f : Nat)) p 1) ∧
    (canRun (.lih f) s t → completes (.lih f) s fun u => scalarDone s t u d
      (BitVec.ofNat 64 (f.imm.toNat * 2 ^ 32 + (getS r d).toNat % 2 ^ 32)) (poiS r d) 1) ∧
    (canRun (.ext f) s t → completes (.ext f) s fun u => scalarDone s t u d (sResult f (uA r f : Nat)) (poiA r f) 1) ∧
    (canRun (.bext f) s t → completes (.bext f) s fun u => scalarDone s t u d
      (if f.fn = 1 ∧ 0 < l then BitVec.ofInt 64 (sval l field) else BitVec.ofNat 64 field) p 1) ∧
    (canRun (.bins f) s t → completes (.bins f) s fun u => ∃ v, scalarDone s t u d v (p || poiS r d) 1 ∧
      ∀ j, j < 64 → v.getLsbD j = if c % 64 ≤ j ∧ j < c % 64 + l then (getS r f.a.toNat).getLsbD (j - c % 64)
        else (getS r d).getLsbD j) ∧
    (canRun .nop s t → completes .nop s fun u => nothingDone s t u)

/-! ### Vector and mask instructions (R273 to R296) -/

/-- R275, R276, R280 to R282, R135, R140: every floating-point arithmetic instruction executes whenever its task can issue,
for each type, mask, broadcast and immediate form. Each active element of v[d] is the exact result of its sources' elements
rounded once; inactive ones stay; flags are added to `fs`; nothing else changes. The result functions of one element (sum,
product, quotient, root and so on) and `roundTo` are the model's of R129 to R138. The model's readings: DAZ flushes a
broadcast scalar or immediate too (log entry 44), and vexp2 and vlog2 are computed as log entry 45 says. -/
def Obligations.VectorFloatExecutes : Prop :=
  ∀ (f : FmtV) (s : State) (t : Task),
    let r := srcRegs s t
    let fs := (srcTask s t).fs
    let daz := fsDaz fs
    let m := effRm f.rm fs
    let w := f.ty.width
    let act := active r f.mq w
    let rnd := fun (i : Nat) (x : Exact) => roundTo (fmtOf f.ty) (roundAs s t f m i) x
    let a := fA r f daz
    let b := fB r f daz
    let c := fC r f daz
    let down := (m == 3)
    let p := fun (m : Nat) (src : Nat → Bool) => resultPoison s t f w act (fun i => fsPoison s t m || src i)
    (canRun (.vadd f) s t → completes (.vadd f) s fun u =>
      floatDone s t u f.d.toNat w act (fun i => rnd i (fadd down (a i) (b i))) (p m (srcAB r f)) m) ∧
    (canRun (.vsub f) s t → completes (.vsub f) s fun u =>
      floatDone s t u f.d.toNat w act (fun i => rnd i (fadd down (a i) (b i).negate)) (p m (srcAB r f)) m) ∧
    (canRun (.vmul f) s t → completes (.vmul f) s fun u =>
      floatDone s t u f.d.toNat w act (fun i => rnd i (fmul (a i) (b i))) (p m (srcAB r f)) m) ∧
    (canRun (.vfma f) s t → completes (.vfma f) s fun u =>
      floatDone s t u f.d.toNat w act (fun i => rnd i (ffma down (a i) (b i) (c i))) (p m (srcABC r f)) m) ∧
    (canRun (.vdiv f) s t → completes (.vdiv f) s fun u =>
      floatDone s t u f.d.toNat w act (fun i => rnd i (fdiv (a i) (b i))) (p m (srcAB r f)) m) ∧
    (canRun (.vsqrt f) s t → completes (.vsqrt f) s fun u =>
      floatDone s t u f.d.toNat w act (fun i => rnd i (fsqrt (a i))) (p m (srcA r f)) m) ∧
    (canRun (.vrcp f) s t → completes (.vrcp f) s fun u =>
      floatDone s t u f.d.toNat w act (fun i => rnd i (fdiv (.fin false 1 0) (a i))) (p m (srcA r f)) m) ∧
    (canRun (.vrsq f) s t → completes (.vrsq f) s fun u =>
      floatDone s t u f.d.toNat w act (fun i => rnd i (frsqrt (a i))) (p m (srcA r f)) m) ∧
    (canRun (.vexp2 f) s t → completes (.vexp2 f) s fun u =>
      floatDone s t u f.d.toNat w act (fun i => rnd i (fexp2 (a i))) (p m (srcA r f)) m) ∧
    (canRun (.vlog2 f) s t → completes (.vlog2 f) s fun u =>
      floatDone s t u f.d.toNat w act (fun i => rnd i (flog2 (a i))) (p m (srcA r f)) m) ∧
    (canRun (.vabs f) s t → completes (.vabs f) s fun u =>
      floatDone s t u f.d.toNat w act (fun i => absElem f daz (fsFtz fs) (rawA r f i)) (p 0 (srcA r f)) 0) ∧
    (canRun (.vmin f) s t → completes (.vmin f) s fun u =>
      floatDone s t u f.d.toNat w act (minMaxElem f false r daz (fsFtz fs)) (p 0 (srcAB r f)) 0) ∧
    (canRun (.vmax f) s t → completes (.vmax f) s fun u =>
      floatDone s t u f.d.toNat w act (minMaxElem f true r daz (fsFtz fs)) (p 0 (srcAB r f)) 0)

/-- R283, R284, R285, R295: comparison into a mask, classes, conversion and group codes execute whenever their task can
issue. A comparison writes mask register d: bit i is the relation for an active element, the old bit for another below N,
zero from N up; its flags are added to `fs`. The model's readings: DAZ flushes a broadcast operand of vfcmp too (log entry
44), and vcvt between integer types of one width narrows (log entry 67). -/
def Obligations.VectorCompareAndConvertExecute : Prop :=
  ∀ (f : FmtV) (s : State) (t : Task),
    let r := srcRegs s t
    let fs := (srcTask s t).fs
    let daz := fsDaz fs
    let m := effRm f.rm fs
    let w := f.ty.width
    let act := active r f.mq w
    let n := f.ty.maskLanes
    (canRun (.vfcmp f) s t → completes (.vfcmp f) s fun u => ∃ t' v p, onlyTask s u t' ∧ wentOn s t t' ∧
      setsMask t.regs t'.regs f.d.toNat v p ∧ t'.srs = t.srs ∧
      (∀ i, i < 512 → v.getLsbD i = if n ≤ i then false
        else if act i then fcmpHolds f.fn.toNat (fA r f daz i) (fB r f daz i) else (getM r f.d.toNat).getLsbD i) ∧
      t'.fs = t.fs ||| BitVec.ofNat 64 ((upTo n).foldl (fun a i =>
        if act i then a ||| fcmpFlags f.fn.toNat (fA r f daz i) (fB r f daz i) else a) 0)) ∧
    (canRun (.vfclass f) s t → completes (.vfclass f) s fun u =>
      vectorDone s t u f.d.toNat w act (fun i => fclass (fmtOf f.ty) (rawA r f i)) (resultPoison s t f w act (srcA r f))
        (vLat f latVint)) ∧
    (canRun (.vcvt f) s t → completes (.vcvt f) s fun u =>
      floatDone s t u f.d.toNat w (fun i => (cvtFrom f i).isSome && act i)
        (fun i => cvtElem (cvtSrc f) f.ty daz (roundAs s t f m i)
          (elt (cvtSrc f).width (getV r f.a.toNat) ((cvtFrom f i).getD 0)))
        (resultPoison s t f w (fun i => (cvtFrom f i).isSome && act i)
          (fun i => (((cvtSrc f).isFloat || f.ty.isFloat) && fsPoison s t m)
            || poiElt (cvtSrc f).width (poiV r f.a.toNat) ((cvtFrom f i).getD 0))) m) ∧
    (canRun (.vquant f) s t → completes (.vquant f) s fun u =>
      ∃ p, floatDone s t u f.d.toNat (quantW f) (fun i => if i < f.ty.lanes then act i else true)
        (fun i => if i < f.ty.lanes then
            quantCode (quantW f) (rounding m false fs (srFor s t m) i) (fOperand f daz false (rawA r f i))
              (quantS daz (quantWord r f i)) (quantZ (quantWord r f i))
          else (0, 0)) p m) ∧
    (canRun (.vdequant f) s t → completes (.vdequant f) s fun u =>
      ∃ p, floatDone s t u f.d.toNat w act
        (fun i => roundTo (fmtOf f.ty) (roundAs s t f m i) (fmul (quantS daz (quantWord r f i))
          (.fin (decide ((elt (quantW f) (getV r f.a.toNat) i : Int) - quantZ (quantWord r f i) < 0))
            ((elt (quantW f) (getV r f.a.toNat) i : Int) - quantZ (quantWord r f i)).natAbs 0))) p m)

/-- R286, R133, R81: every integer and bitwise vector instruction executes whenever its task can issue, for each type, mask,
broadcast and immediate form; each active element is the stated value modulo 2^w (clamped under sat), inactive ones stay, no
flag is raised and nothing else changes. That vicmp at a 4-bit type compares elements 0 to 511 is the model's reading (log
entry 44). -/
def Obligations.VectorIntegerExecutes : Prop :=
  ∀ (f : FmtV) (s : State) (t : Task),
    let r := srcRegs s t
    let w := f.ty.width
    let act := active r f.mq w
    let lat := vLat f latVint
    let d := f.d.toNat
    let a := fun i => ival f.ty (rawA r f i)
    let b := fun i => ival f.ty (rawB r f i)
    let p := resultPoison s t f w act (srcAB r f)
    (canRun (.viadd f) s t → completes (.viadd f) s fun u =>
      vectorDone s t u d w act (fun i => fitInt f.ty f.sat (a i + b i)) p lat) ∧
    (canRun (.visub f) s t → completes (.visub f) s fun u =>
      vectorDone s t u d w act (fun i => fitInt f.ty f.sat (a i - b i)) p lat) ∧
    (canRun (.vimul f) s t → completes (.vimul f) s fun u =>
      vectorDone s t u d w act (fun i => fitInt f.ty f.sat (a i * b i)) p lat) ∧
    (canRun (.vimulh f) s t → completes (.vimulh f) s fun u =>
      vectorDone s t u d w act (fun i => wrapNat w (a i * b i / (2 ^ w : Int))) p lat) ∧
    (canRun (.vimad f) s t → completes (.vimad f) s fun u =>
      vectorDone s t u d w act (fun i => fitInt f.ty f.sat
        ((if f.neg.getLsbD 0 then -a i else a i) * (if f.neg.getLsbD 1 then -b i else b i)
          + (if f.neg.getLsbD 2 then -(ival f.ty (rawC r f i)) else ival f.ty (rawC r f i))))
        (resultPoison s t f w act (srcABC r f)) lat) ∧
    (canRun (.vand f) s t → completes (.vand f) s fun u =>
      vectorDone s t u d w act (fun i => if f.fn = 0 then rawA r f i &&& rawB r f i
        else rawA r f i &&& (2 ^ w - 1 - rawB r f i)) p lat) ∧
    (canRun (.vor f) s t → completes (.vor f) s fun u =>
      vectorDone s t u d w act (fun i => rawA r f i ||| rawB r f i) p lat) ∧
    (canRun (.vxor f) s t → completes (.vxor f) s fun u =>
      vectorDone s t u d w act (fun i => rawA r f i ^^^ rawB r f i) p lat) ∧
    (canRun (.vshl f) s t → completes (.vshl f) s fun u =>
      vectorDone s t u d w act (fun i => rawA r f i * 2 ^ (rawB r f i % w)) p lat) ∧
    (canRun (.vshr f) s t → completes (.vshr f) s fun u =>
      vectorDone s t u d w act (fun i => rawA r f i / 2 ^ (rawB r f i % w)) p lat) ∧
    (canRun (.vsra f) s t → completes (.vsra f) s fun u =>
      vectorDone s t u d w act (fun i => wrapNat w (sval w (rawA r f i) / (2 ^ (rawB r f i % w) : Int))) p lat) ∧
    (canRun (.vimin f) s t → completes (.vimin f) s fun u =>
      vectorDone s t u d w act (fun i => wrapNat w (min (a i) (b i))) p lat) ∧
    (canRun (.vimax f) s t → completes (.vimax f) s fun u =>
      vectorDone s t u d w act (fun i => wrapNat w (max (a i) (b i))) p lat) ∧
    (canRun (.vpopc f) s t → completes (.vpopc f) s fun u =>
      vectorDone s t u d w act (fun i => ((upTo w).filter (fun j => (rawA r f i).testBit j)).length)
        (resultPoison s t f w act (srcA r f)) lat) ∧
    (canRun (.vicmp f) s t → completes (.vicmp f) s fun u => ∃ v q, maskDone s t u d v q (vLat f latVcmp) ∧
      ∀ i, i < 512 → (v.getLsbD i = true ↔ i < f.ty.maskLanes ∧ if act i then
        (f.fn = 0 ∧ a i = b i) ∨ (f.fn = 1 ∧ a i ≠ b i) ∨ (f.fn = 2 ∧ a i < b i) ∨ (f.fn = 3 ∧ a i ≤ b i) ∨
          (f.fn = 4 ∧ b i < a i) ∨ (f.fn = 5 ∧ b i ≤ a i)
        else (getM r d).getLsbD i = true))

/-- R286 to R291, R294: every instruction that moves, selects, packs or multiplies groups of elements executes whenever its
task can issue; each active element is the stated element of its sources, and nothing but its destination changes, but that
`vpack` raises OF and NX in `fs` (the model's reading, log entry 67). A NaN so moved becomes the canonical one of the format,
but for `vmov` (R130, R286); that `vext` gives a NaN's bits as they are, and that the dot products raise no flag, are the
model's choices (log entries 90 and 94). -/
def Obligations.VectorMovesExecute : Prop :=
  ∀ (f : FmtV) (s : State) (t : Task),
    let r := srcRegs s t
    let w := f.ty.width
    let n := f.ty.lanes
    let act := active r f.mq w
    let d := f.d.toNat
    let k := if f.bs then (getS r f.b.toNat).toNat else f.imm.toNat
    let moved := fun (i : Instr) (lat : Nat) (lane : Nat → Nat) =>
      canRun i s t → completes i s fun u => ∃ p, vectorDone s t u d w act lane p (vLat f lat)
    moved (.vsel f) latVint (fun i =>
      canonNan f.ty (if (getM r f.c.toNat).getLsbD (if w = 4 then i / 2 else i) then rawA r f i else rawB r f i)) ∧
    moved (.vmov f) latVint (rawA r f) ∧
    moved (.vbcast f) latVint (fun _ => canonNan f.ty (if f.fn = 0 then (getS r f.a.toNat).toNat % 2 ^ w
      else if f.fn = 1 then rawA r f f.imm.toNat else immElem f)) ∧
    moved (.vid f) latVint (fun i =>
      (f.imm.signExtend 64).toNat + i * (if f.bs then (getS r f.b.toNat).toNat else 1)) ∧
    moved (.vperm f) latVperm (fun i =>
      let j := elt w (getV r f.b.toNat) i
      canonNan f.ty (if f.fn = 0 then rawA r f (j % n)
        else if j % (2 * n) < n then rawA r f (j % (2 * n)) else rawC r f (j % (2 * n) - n))) ∧
    moved (.vrot f) latVperm (fun i =>
      canonNan f.ty (if f.fn = 0 then rawA r f ((i + k) % n) else rawA r f (((i : Int) - k) % (n : Int)).toNat)) ∧
    moved (.vslide f) latVperm (fun i =>
      canonNan f.ty (if f.fn = 0 then
          (if i + k < n then rawA r f (i + k) else if i + k < 2 * n then rawC r f (i + k - n) else 0)
        else (if k ≤ i then rawA r f (i - k) else if k ≤ i + n then rawC r f (n + i - k) else 0))) ∧
    (canRun (.vpack f) s t → completes (.vpack f) s fun u =>
      let z := fun i => ival (sizedLike f.ty (2 * w))
        (if i < n / 2 then elt (2 * w) (getV r f.a.toNat) i else elt (2 * w) (getV r f.c.toNat) (i - n / 2))
      (∃ p, floatDone s t u d w act
        (fun i => (fitInt f.ty f.sat (z i), if iminOf f.ty ≤ z i ∧ z i ≤ imaxOf f.ty then 0 else fOF + fNX)) p 0) ∧
      ∃ t', curTask u = some t' ∧ tabGet 0 (vKey d) t'.pend = s.clock + latVperm) ∧
    moved (.vunpack f) latVperm (fun i =>
      wrapNat w (ival (sizedLike f.ty (w / 2)) (elt (w / 2) (getV r f.a.toNat) ((f.imm.toNat % 2) * n + i)))) ∧
    moved (.vdot4 f) latVfp (dotLane 8 4 f r) ∧
    moved (.vdot8 f) latVfp (dotLane 4 8 f r) ∧
    (canRun (.vext f) s t → completes (.vext f) s fun u => ∃ p, scalarDone s t u d
      (if k < n then (if f.ty.isSigned then BitVec.ofInt 64 (sval w (rawA r f k)) else BitVec.ofNat 64 (rawA r f k)) else 0)
      p (vLat f latVperm)) ∧
    (canRun (.vins f) s t → completes (.vins f) s fun u => ∃ p, vectorDone s t u d w (fun i => i == k)
      (fun _ => canonNan f.ty ((getS r f.a.toNat).toNat % 2 ^ w)) p (vLat f latVperm))

/-- R292, R293: a reduction of integers writes element 0 with the exact combination of the active elements, fitted once, and
zero above; a reduction of floating-point elements the value of the pairwise tree, or in order for seq; a scan writes every
active element with the value so far. Each executes whenever its task can issue. R296, R231: every mask instruction executes
whenever its task can issue; the mask or scalar register named holds the stated value, mask bits from N up zero, and nothing
else changes. That reductions and scans of integers raise no flag is the model's choice (log entry 94). -/
def Obligations.ReductionsAndMasksExecute : Prop :=
  (∀ (f : FmtV) (s : State) (t : Task),
     let r := srcRegs s t
     let fs := (srcTask s t).fs
     let w := f.ty.width
     let n := f.ty.lanes
     let act := active r f.mq w
     let d := f.d.toNat
     let rd : Rounding := { mode := redMode f.rm fs, sat := f.sat, ftz := fsFtz fs }
     (canRun (.vred f) s t → completes (.vred f) s fun u => ∃ t' v p, onlyTask s u t' ∧ wentOn s t t' ∧ t'.srs = t.srs ∧
       setsVector t.regs t'.regs d v p ∧
       (f.ty.isFloat = false → t'.fs = t.fs ∧ v = BitVec.ofNat 4096 (fitInt f.ty f.sat
         (((upTo n).filter act).foldl (fun a i => combineI f.ty f.fn.toNat a (ival f.ty (rawA r f i)))
           (ival f.ty (identityElem f.ty f.fn.toNat))))) ∧
       (f.ty.isFloat = true →
         let x := reduceF f.ty f.fn.toNat rd ((upTo n).map (fun i =>
           if act i then some (fdaz (fsDaz fs) (fmtOf f.ty) (rawA r f i)) else none))
         v = BitVec.ofNat 4096 x.1 ∧ t'.fs = t.fs ||| BitVec.ofNat 64 x.2)) ∧
     (canRun (.vscan f) s t → completes (.vscan f) s fun u => ∃ t' v p, onlyTask s u t' ∧ wentOn s t t' ∧
       t'.srs = t.srs ∧ setsVector t.regs t'.regs d v p ∧
       (∀ i, i < 4096 / w → act i = false → elt w v i = elt w (getV r d) i) ∧
       (f.ty.isFloat = false → t'.fs = t.fs ∧ ∀ i, i < n → act i = true → elt w v i = fitInt f.ty f.sat
         (((upTo (if f.fn.getLsbD 3 then i else i + 1)).filter act).foldl
           (fun a j => combineI f.ty (f.fn.toNat % 8) a (ival f.ty (rawA r f j)))
           (ival f.ty (identityElem f.ty (f.fn.toNat % 8))))) ∧
       (f.ty.isFloat = true →
         let x := fun j => fdaz (fsDaz fs) (fmtOf f.ty) (rawA r f j)
         let before := fun k => ((upTo k).filter act).foldl
           (fun a j => (combineF f.ty (f.fn.toNat % 8) rd a (x j)).1) (identityElem f.ty (f.fn.toNat % 8))
         (∀ i, i < n → act i = true → elt w v i = before (if f.fn.getLsbD 3 then i else i + 1) % 2 ^ w) ∧
         t'.fs = t.fs ||| BitVec.ofNat 64 (((upTo n).filter act).foldl
           (fun a j => a ||| (combineF f.ty (f.fn.toNat % 8) rd (before j) (x j)).2) 0)))) ∧
  (∀ (f : FmtV) (s : State) (t : Task),
     let r := srcRegs s t
     let n := f.ty.maskLanes
     let d := f.d.toNat
     let a := getM r f.a.toNat
     let b := getM r f.b.toNat
     let lat := 2
     let bits := fun (i : Instr) (g : Nat → Bool) => canRun i s t → completes i s fun u => ∃ v p,
       maskDone s t u d v p lat ∧ ∀ j, j < 512 → v.getLsbD j = (decide (j < n) && g j)
     bits (.mand f) (fun j => a.getLsbD j && (b.getLsbD j != (f.fn != 0))) ∧
     bits (.mor f) (fun j => a.getLsbD j || (b.getLsbD j != (f.fn != 0))) ∧
     bits (.mxor f) (fun j => (a.getLsbD j != b.getLsbD j) != (f.fn != 0)) ∧
     bits (.mnot f) (fun j => !a.getLsbD j) ∧
     bits (.mfroms f) (fun j => if 64 * f.imm.toNat ≤ j ∧ j < 64 * f.imm.toNat + 64
       then (getS r f.a.toNat).getLsbD (j - 64 * f.imm.toNat) else (getM r d).getLsbD j) ∧
     bits (.mlen f) (fun j => decide (j < if f.bi then f.imm.toNat else (getS r f.a.toNat).toNat)) ∧
     (canRun (.mpop f) s t → completes (.mpop f) s fun u => scalarDone s t u d
       (BitVec.ofNat 64 ((upTo n).filter (fun j => a.getLsbD j)).length) (poiM r f.a.toNat) lat) ∧
     (canRun (.mfirst f) s t → completes (.mfirst f) s fun u => ∃ k, scalarDone s t u d (BitVec.ofNat 64 k)
       (poiM r f.a.toNat) lat ∧ k ≤ n ∧ (∀ j, j < k → a.getLsbD j = false) ∧ (k < n → a.getLsbD k = true)) ∧
     (canRun (.mtos f) s t → completes (.mtos f) s fun u => ∃ v, scalarDone s t u d v (poiM r f.a.toNat) lat ∧
       ∀ j, j < 64 → v.getLsbD j = a.getLsbD (64 * f.imm.toNat + j)))

/-! ### Control, traps and returns (R260 to R267, R172 to R174) -/

/-- R262, R264: a `br` whose test is clean is taken when Cond holds; taken, the task stands at Line(PC) + 64·loff + slot, and
otherwise at NextPC; a branch with cc 0 and `jmp` always transfer and leave the tail alone, any other adds one outcome bit where
the tail follows the task. `loop` sets s[a] to s[a] − 1 modulo 2^64 at SALU latency, is taken when that is not zero, and adds a bit. A
target outside the address space or without its BT bit raises CONTROL where the branch is taken, and otherwise a poisoned test
POISON_CONSUMED (R169: the lowest rank). Nothing else changes. -/
def Obligations.BranchesExecute : Prop :=
  ∀ (f : FmtB) (s : State) (t : Task),
    let r := srcRegs s t
    let v := getS r f.a.toNat
    let n := if f.a = 0 then 512 else min v.toNat 512
    let z := targetOf s t f
    let target := BitVec.ofNat 64 z.toNat
    let test := f.cc = 0 ∨ (f.cc = 1 ∧ v = 0) ∨ (f.cc = 2 ∧ v ≠ 0) ∨ (f.cc = 3 ∧ v.getLsbD 63 = true) ∨
      (f.cc = 4 ∧ v.getLsbD 63 = false) ∨
      (f.cc = 5 ∧ ∃ i, i < n ∧ (getM r f.msk.toNat).getLsbD i = true) ∨
      (f.cc = 6 ∧ ∀ i, i < n → (getM r f.msk.toNat).getLsbD i = true)
    let outcome := fun (u : State) (taken : Bool) => tailFollows s t = true →
      (curTask u).map (·.branchBits) = some (if t.branchBits.length < 95 then t.branchBits ++ [taken] else []) ∧
        (t.branchBits.length < 95 → u.cores = s.cores)
    (canRun (.br f) s t → f.cc ≠ 0 → condPoison r f = false →
      (¬test → completes (.br f) s fun u => tracedTask s u t (wentBy s t) ∧ outcome u false) ∧
      (test → targetBad s t z = false → completes (.br f) s fun u => tracedTask s u t (wentTo s t target) ∧ outcome u true) ∧
      (test → targetBad s t z = true → raises (.br f) s .control)) ∧
    (canRun (.br f) s t → condPoison r f = true →
      (test ∧ targetBad s t z = true → raises (.br f) s .control) ∧
      (¬(test ∧ targetBad s t z = true) → raises (.br f) s .poisonConsumed)) ∧
    (∀ i, (i = .jmp f ∨ (i = .br f ∧ f.cc = 0)) → canRun i s t →
      (targetBad s t z = false → completes i s fun u => onlyTask s u (wentTo s t target)) ∧
      (targetBad s t z = true → raises i s .control)) ∧
    (canRun (.loop f) s t → poiS r f.a.toNat = false →
      let counter := fun (t' t0 : Task) => t' = { t0 with regs := t'.regs, pend := t'.pend } ∧
        setsScalar t.regs t'.regs f.a.toNat (v - 1) false ∧
        ∀ k, tabGet 0 k t'.pend = if k = f.a.toNat then s.clock + 1 else tabGet 0 k t.pend
      (v = 1 → completes (.loop f) s fun u => outcome u false ∧ ∃ t', tracedTask s u t t' ∧ counter t' (wentBy s t)) ∧
      (v ≠ 1 → targetBad s t z = false → completes (.loop f) s fun u => outcome u true ∧
        ∃ t', tracedTask s u t t' ∧ counter t' (wentTo s t target)) ∧
      (v ≠ 1 → targetBad s t z = true → raises (.loop f) s .control)) ∧
    (canRun (.loop f) s t → poiS r f.a.toNat = true →
      (v ≠ 1 ∧ targetBad s t z = true → raises (.loop f) s .control) ∧
      (¬(v ≠ 1 ∧ targetBad s t z = true) → raises (.loop f) s .poisonConsumed))

/-- R263, R83: `call` and `calli` put NextPC in s62 and transfer, `ret` transfers without a check against BT; a bad target
raises CONTROL, and otherwise a poisoned address POISON_CONSUMED (R169: the lowest rank). -/
def Obligations.CallsExecute : Prop :=
  ∀ (f : FmtB) (s : State) (t : Task),
    let r := srcRegs s t
    let v := getS r f.a.toNat
    let z := targetOf s t f
    let linked := fun (t' : Task) (pc : Word) => t' = { wentTo s t pc with regs := t'.regs, pend := t'.pend } ∧
      setsScalar t.regs t'.regs 62 (nextPc s t) false
    (canRun (.call f) s t →
      (targetBad s t z = false → completes (.call f) s fun u => ∃ t', onlyTask s u t' ∧ linked t' (BitVec.ofNat 64 z.toNat)) ∧
      (targetBad s t z = true → raises (.call f) s .control)) ∧
    (canRun (.calli f) s t →
      (targetBad s t v.toNat = false → poiS r f.a.toNat = false → completes (.calli f) s fun u => ∃ t', tracedTask s u t t' ∧ linked t' v) ∧
      (targetBad s t v.toNat = true → raises (.calli f) s .control) ∧
      (targetBad s t v.toNat = false → poiS r f.a.toNat = true → raises (.calli f) s .poisonConsumed)) ∧
    (canRun (.ret f) s t →
      (v.toNat < 2 ^ 57 ∧ v.toNat / 8 % 8 = 0 ∧ v.toNat % 8 < 5 → poiS r f.a.toNat = false →
        completes (.ret f) s fun u => tracedTask s u t (wentTo s t v)) ∧
      (¬(v.toNat < 2 ^ 57 ∧ v.toNat / 8 % 8 = 0 ∧ v.toNat % 8 < 5) → raises (.ret f) s .control) ∧
      (v.toNat < 2 ^ 57 ∧ v.toNat / 8 % 8 = 0 ∧ v.toNat % 8 < 5 → poiS r f.a.toNat = true →
        raises (.ret f) s .poisonConsumed))

/-- R265, R266: `end` at depth 0, with no retry entry left, passes the slot to ENDED and discards its acquire-table entries
without a release; at depth 1 or more, or in cleanup, it raises ILLEGAL_INSTR. `pfi` writes nothing: it goes on, and every
line of its request that lies in the address space and translates as executable is in the instruction cache or in flight to
it. R259, R267, R169, R184: `trap`, `bpt` and `ill` raise SOFTWARE, BREAKPOINT and ILLEGAL_INSTR; a `bpt` met while its
domain is being sealed for eviction (cause 0x21) is deferred, and the pre-emption goes on (that the group counts as one that
issues during the sealing is the model's reading, log entry 73); an ISA instruction with a field value it does not define,
or a vector register at or above VREGS, raises ILLEGAL_INSTR (R73, R232). -/
def Obligations.EndPrefetchAndTrapsExecute : Prop :=
  (∀ (f : FmtB) (s : State) (t : Task),
     (canRun (.endTask f) s t → t.depth = 0 → t.clean = false →
       (t.retry = [] → completes (.endTask f) s fun u => u.mem = s.mem ∧ u.clock = s.clock ∧
         (∀ k, k ≠ s.cur → taskAt u k = taskAt s k) ∧ u.hub = { s.hub with doms := u.hub.doms } ∧
         ∃ t', curTask u = some t' ∧ t'.st = .ended ∧ t'.acq = [] ∧ t'.faulted = t.faulted ∧ t'.handler = false ∧
           t'.regs = t.regs ∧ t'.fs = t.fs ∧ t'.icount = t.icount + 1) ∧
       (t.retry ≠ [] → heldBack (.endTask f) s)) ∧
     (canRun (.endTask f) s t → t.depth ≠ 0 ∨ t.clean = true → raises (.endTask f) s .illegalInstr) ∧
     (canRun (.pfi f) s t → completes (.pfi f) s fun u => u.mem = s.mem ∧ u.hub = s.hub ∧ u.clock = s.clock ∧
       curTask u = some (wentBy s t) ∧ (∀ k, k ≠ s.cur → taskAt u k = taskAt s k) ∧
       u.cores = { s.cores with filling := u.cores.filling } ∧
       ∀ (j line : Nat), j ≤ f.msk.toNat →
         (line : Int) = (ownPc s t).toNat / 64 * 64 + 64 * f.loff.toInt + 64 * j → line < 2 ^ 57 →
         (∃ pa l, xlatFetch s (keyCore s.cur) t.asid line = .ok pa l) →
         (icLookup u (keyCore s.cur) t.asid line).isSome = true ∨ (keyCore s.cur, t.asid, line) ∈ u.cores.filling)) ∧
  (∀ (s : State) (t : Task),
     (∀ f, canRun (.trap f) s t → raises (.trap f) s .software) ∧
     (∀ f, canRun (.bpt f) s t → t.preempt ≠ 0x21 → raises (.bpt f) s .breakpoint) ∧
     (∀ f, canRun (.bpt f) s t → t.preempt = 0x21 → ∃ u, exec (.bpt f) s = .next u ∧ u.mem = s.mem ∧ u.hub = s.hub ∧
       (∀ k, k ≠ s.cur → taskAt u k = taskAt s k) ∧
       curTask u = some { t with deferredBp := some (ownPc s t), st := .preempting }) ∧
     (∀ bits, canRun (.ill bits) s t → raises (.ill bits) s .illegalInstr) ∧
     (∀ i : Instr, i.isIsa = true → curTask s = some t → t.st = .ready →
       i.wf = false ∨ (∃ n ∈ vectorNames i, t.vregs ≤ n) → raises i s .illegalInstr))

/-- R171, R172: taking a trap outside the handler. The frame is written at the slot's place in the trap area of the domain
the task runs in, with the poison of what it saves; s1 holds the cause, s2 the frame's address, the PC the handler, the task
is in handler mode; every other register, the flags, the acquire table, the scratchpad window with its bytes and full-empty
bits, the domain stack (through which an open memory window is found) and the budget stay; no other task, no clock and
nothing of the hub changes. R174: a trap in handler mode, or in a domain whose HANDLER is zero, writes no frame
and enters no handler. At depth 0, outside a cleanup, the slot passes to ENDED, its task counts as faulted, and a
CONTEXT_FAULT notice with reason DOUBLE and the PC of the instruction concerned is what becomes of the hub; the new trap's
cause stands in it (beside which, with no handler entered, the model puts it in CAUSE1 too, log entry 97). R173: `tret` in
handler mode restores s1 to s8 and `fs` from the slot's frame with their poison, leaves handler mode and goes on at EPC,
unchecked against BT; other registers, memory and the hub stay. Outside handler mode it raises ILLEGAL_INSTR. -/
def Obligations.TrapEntryAndReturn : Prop :=
  ((∀ (s : State) (tr : Trap) (t : Task), canEnter s s.cur t →
      let u := trapped s tr
      let fva := trapFrameVa s t.asid s.cur
      u.mem = (vwritePoi s t.asid fva (frameBytes s t tr) (frameByteFlags (framePoison t))).mem ∧
      u.hub = (vwritePoi s t.asid fva (frameBytes s t tr) (frameByteFlags (framePoison t))).hub ∧
      u.clock = s.clock ∧ u.grp.result = .trapped ∧
      (∀ k, k ≠ s.cur → taskAt u k = taskAt s k) ∧
      ∃ t', curTask u = some t' ∧ t'.handler = true ∧ t'.pc = trapHandler s t.asid ∧
        (∀ n, getS t'.regs n = if n = 1 then BitVec.ofNat 64 tr.cause.value
          else if n = 2 then BitVec.ofNat 64 fva else getS t.regs n) ∧
        (∀ n, poiS t'.regs n = if n = 1 ∨ n = 2 then false else poiS t.regs n) ∧
        t'.regs.v = t.regs.v ∧ t'.regs.m = t.regs.m ∧ t'.regs.vPoi = t.regs.vPoi ∧ t'.regs.mPoi = t.regs.mPoi ∧
        t'.fs = t.fs ∧ t'.srs = t.srs ∧ t'.acq = t.acq ∧ t'.budget = t.budget ∧ t'.depth = t.depth ∧ t'.asid = t.asid ∧
        t'.st = t.st ∧ t'.framePoi = framePoison t ∧ t'.sbase = t.sbase ∧ t'.scratch = t.scratch ∧ t'.home = t.home ∧
        u.cores.spad = s.cores.spad ∧ u.cores.spadPoi = s.cores.spadPoi ∧ u.cores.full = s.cores.full) ∧
   (∀ (s : State) (tr : Trap) (t : Task), curTask s = some t → t.depth = 0 → t.clean = false →
      (t.handler = true ∧ pinnedFault s t.asid (trapFrameVa s t.asid s.cur) 256 = none) ∨
        (t.handler = false ∧ pinnedFault s t.asid (trapAreaVa s t.asid) 8 = none ∧ trapHandler s t.asid = 0) →
      let u := trapped s tr
      let first := if t.handler then (frameWord s t s.cur 3).toNat % 256 else tr.cause.value
      let told := notify s { kind := 1, code := 1, asid := t.asid, gtid := t.id.gtid, pc := ownPc s t,
                             cause1 := first, cause2 := tr.cause.value, depth := 0 }
      u.mem = told.mem ∧ u.hub.faultLog = told.hub.faultLog ∧ u.hub.faultDrops = told.hub.faultDrops ∧
      (∀ k, k ≠ s.cur → taskAt u k = taskAt s k) ∧
      ∃ t', curTask u = some t' ∧ t'.st = .ended ∧ t'.faulted = true ∧ t'.regs = t.regs ∧ t'.pc = t.pc)) ∧
  (∀ (f : FmtY) (s : State) (t : Task), canRun (.tret f) s t →
     (t.handler = true → pinnedFault s t.asid (trapFrameVa s t.asid s.cur) 256 = none →
       completes (.tret f) s fun u => u.mem = s.mem ∧ u.hub = s.hub ∧ u.clock = s.clock ∧
       (∀ k, k ≠ s.cur → taskAt u k = taskAt s k) ∧
       ∃ t', curTask u = some t' ∧ t'.handler = false ∧ t'.pc = frameWord s t s.cur 1 ∧ t'.fs = frameWord s t s.cur 24 ∧
         t'.fsPoi = framePoiAt s t s.cur 24 ∧
         (∀ n, n < 64 → getS t'.regs n = if 1 ≤ n ∧ n ≤ 8 then frameWord s t s.cur (7 + n) else getS t.regs n) ∧
         (∀ n, n < 64 → poiS t'.regs n = if 1 ≤ n ∧ n ≤ 8 then framePoiAt s t s.cur (7 + n) else poiS t.regs n) ∧
         t'.regs.v = t.regs.v ∧ t'.regs.m = t.regs.m ∧ t'.srs = t.srs ∧ t'.depth = t.depth ∧ t'.asid = t.asid) ∧
     (t.handler = false → raises (.tret f) s .illegalInstr))

/-! ### System instructions (R268 to R272) -/

/-- R269, R270, R57, R161, R173: `rsys` of every system register: the value at issue, and its poison; numbers that read
zero; the trap frame's words in handler mode; ILLEGAL_INSTR outside it and from 0x100 up. Nothing else changes. R269, R139,
R173: `wsys` and `xsys` write `fs` (only legal values), tc.srs (0 stores 1) and, in handler mode, the frame's words EPC,
SAVE and FS, with the poison of what is written; `xsys` also returns the old value. A flag that the group's first instruction raises is
merged into the `fs` written (R140; log entry 86). Every other number raises ILLEGAL_INSTR
with nothing changed. -/
def Obligations.SystemRegistersExecute : Prop :=
  (∀ (f : FmtY) (s : State) (t : Task), canRun (.rsys f) s t →
     let n := f.sr.toNat
     let src := srcTask s t
     let gives := fun (v : Word) (p : Bool) => completes (.rsys f) s fun u => scalarDone s t u f.d.toNat v p 1
     (∀ e ∈ [(0x00, t.id.gtid), (0x01, BitVec.ofNat 64 t.id.task), (0x02, BitVec.ofNat 64 t.id.grid.x),
         (0x03, BitVec.ofNat 64 t.id.grid.y), (0x04, BitVec.ofNat 64 t.id.grid.z), (0x05, BitVec.ofNat 64 t.id.idx.x),
         (0x06, BitVec.ofNat 64 t.id.idx.y), (0x07, BitVec.ofNat 64 t.id.idx.z), (0x08, BitVec.ofNat 64 t.id.org.x),
         (0x09, BitVec.ofNat 64 t.id.org.y), (0x0A, BitVec.ofNat 64 t.id.org.z), (0x0B, BitVec.ofNat 64 t.id.ext.x),
         (0x0C, BitVec.ofNat 64 t.id.ext.y), (0x0D, BitVec.ofNat 64 t.id.ext.z), (0x0E, BitVec.ofNat 64 (s.cur / 16)),
         (0x0F, BitVec.ofNat 64 (s.cur / 128)), (0x10, BitVec.ofNat 64 (s.cur / 5120)),
         (0x11, BitVec.ofNat 64 (s.cur % 16)), (0x12, BitVec.ofNat 64 t.sbase), (0x13, t.id.args),
         (0x21, BitVec.ofNat 64 (min (if t.clean then t.reserve else t.budget) (2 ^ 64 - 1))), (0x22, BitVec.ofNat 64 s.clock),
         (0x23, if t.cancelled then 1 else 0), (0x24, BitVec.ofNat 64 (ownIcount s t)),
         (0x25, BitVec.ofNat 64 t.wtag.toNat),
         (0x27, (if t.handler then 1 else 0) + (if t.clean then 2 else 0)),
         (0x40, BitVec.ofNat 64 t.asid), (0x41, BitVec.ofNat 64 t.depth),
         (0x42, if t.clean then BitVec.ofNat 64 (t.cleanWhy + 256 * t.depth) else 0),
         (0x43, BitVec.ofNat 64 (if t.depth = 0 then t.asid else (readFrame s t t.depth).caller)),
         (0x44, if t.depth = 0 then 0 else BitVec.ofNat 64 (2 ^ 16 + (readFrame s t t.depth).adit)),
         (0x60, BitVec.ofNat 64 (readLog s t.asid).curBench), (0x61, BitVec.ofNat 64 (umbraMode s t.asid))],
       n = e.1 → (n = 0x43 ∨ n = 0x44 → stackPinned s t = none) → gives e.2 false) ∧
     (n = 0x20 → gives src.fs src.fsPoi) ∧
     (n = 0x26 → gives src.srs src.srsPoi) ∧
     (n = 0x28 → ∃ v : Word, gives v false ∧
       ∀ i, i < 64 → v.getLsbD i = (decide (i < 8) && src.acq.any (fun e => e.ix == i && e.depth == t.depth))) ∧
     ((0x14 ≤ n ∧ n < 0x20) ∨ (0x29 ≤ n ∧ n < 0x40) ∨ (0x45 ≤ n ∧ n < 0x60) ∨ (0x62 ≤ n ∧ n < 0x80) → gives 0 false) ∧
     (0x80 ≤ n → n < 0xA0 → t.handler = true → pinnedFault s t.asid (trapFrameVa s t.asid s.cur) 256 = none →
       gives (frameWord s t s.cur (n - 0x80)) (framePoiAt s t s.cur (n - 0x80))) ∧
     (0xA0 ≤ n → n < 0x100 → t.handler = true → gives 0 false) ∧
     (0x80 ≤ n → t.handler = false ∨ 0x100 ≤ n → raises (.rsys f) s .illegalInstr)) ∧
  (∀ (f : FmtY) (s : State) (t : Task),
     let n := f.sr.toNat
     let r := srcRegs s t
     let a := getS r f.a.toNat
     let pa := poiS r f.a.toNat
     let src := srcTask s t
     let w := n - 0x80
     let isFrame := t.handler = true ∧ 0x80 ≤ n ∧ (w = 1 ∨ (8 ≤ w ∧ w ≤ 15) ∨ w = 24)
     let legal := fun (v : Word) => v.toNat / 2 ^ 15 = 0 ∧ v.toNat / 2 ^ 10 % 4 = 0 ∧ v.toNat / 2 ^ 5 % 8 = 0 ∧
       v.toNat / 2 ^ 12 % 8 ≤ 5
     let framed := fun (v : Word) (p : Bool) =>
       (vwritePoi s t.asid (trapFrameVa s t.asid s.cur + 8 * w) (leBytes 8 v.toNat) (List.replicate 8 p)).mem
     let combine := fun (old : Word) => if f.fn = 0 then a else if f.fn = 1 then old ||| a else old &&& ~~~a
     let mapped := pinnedFault s t.asid (trapFrameVa s t.asid s.cur) 256 = none
     (canRun (.wsys f) s t →
       (n = 0x20 → legal a → completes (.wsys f) s fun u => onlyTask s u { wentBy s t with fs := a ||| s.grp.raised, fsPoi := pa }) ∧
       (n = 0x26 → completes (.wsys f) s fun u => othersStand s u ∧ u.mem = s.mem ∧ u.hub = s.hub ∧ u.cores = s.cores ∧
         curTask u = some { wentBy s t with srs := if a = 0 then 1 else a, srsPoi := pa }) ∧
       (isFrame → mapped → completes (.wsys f) s fun u => othersStand s u ∧ u.mem = framed a pa ∧ u.hub = s.hub ∧
         curTask u = some { wentBy s t with framePoi := putBit t.framePoi w pa }) ∧
       ((n = 0x20 ∧ ¬legal a) ∨ (n ≠ 0x20 ∧ n ≠ 0x26 ∧ ¬isFrame) → raises (.wsys f) s .illegalInstr)) ∧
     (canRun (.xsys f) s t →
       let keeps := fun (u : State) (old : Word) (op : Bool) (t0 : Task) => ∃ t', curTask u = some t' ∧
         t' = { t0 with regs := t'.regs, pend := t'.pend } ∧ setsScalar t.regs t'.regs f.d.toNat old op
       (n = 0x20 → legal (combine src.fs) → completes (.xsys f) s fun u => othersStand s u ∧ u.mem = s.mem ∧ u.hub = s.hub ∧
         keeps u src.fs src.fsPoi
           { wentBy s t with fs := combine src.fs ||| s.grp.raised, fsPoi := pa || (f.fn != 0 && src.fsPoi) }) ∧
       (n = 0x26 → completes (.xsys f) s fun u => othersStand s u ∧ u.mem = s.mem ∧ u.hub = s.hub ∧
         keeps u src.srs src.srsPoi { wentBy s t with
           srs := if combine src.srs = 0 then 1 else combine src.srs, srsPoi := pa || (f.fn != 0 && src.srsPoi) }) ∧
       (isFrame → mapped → completes (.xsys f) s fun u =>
         let old := frameWord s t s.cur w
         let op := framePoiAt s t s.cur w
         let np := pa || (f.fn != 0 && op)
         othersStand s u ∧ u.mem = framed (combine old) np ∧ u.hub = s.hub ∧
         keeps u old op { wentBy s t with framePoi := putBit t.framePoi w np }) ∧
       ((n = 0x20 ∧ ¬legal (combine src.fs)) ∨
           (n ≠ 0x20 ∧ n ≠ 0x26 ∧ ¬isFrame ∧ (t.handler = true → 0x80 ≤ n → mapped) ∧
             (n = 0x43 ∨ n = 0x44 → stackPinned s t = none)) →
         raises (.xsys f) s .illegalInstr)))

/-- R271, R272: `tmark` writes the instruction count to s[d] and touches only the tail besides. `bench`, of a RESIDENT
task at depth 0 outside handler mode and cleanup, whose turn has come and whose domain has stopped, opens bench
CURBENCH + 1: s[d] holds its number, and memory holds the snapshot, its list and the BENCH entry; in REPLAY s[d] is the
number the recorded entry holds. Anywhere else it raises ILLEGAL_INSTR. -/
def Obligations.BenchAndMarkExecute : Prop :=
  ∀ (f : FmtY) (s : State) (t : Task),
    (canRun (.tmark f) s t → completes (.tmark f) s fun u => ∃ t', tracedTask s u t t' ∧ wentOn s t t' ∧ t'.fs = t.fs ∧
      t'.srs = t.srs ∧ setsScalar t.regs t'.regs f.d.toNat (BitVec.ofNat 64 (ownIcount s t)) false) ∧
    (canRun (.bench f) s t → t.resident = true → t.depth = 0 → t.handler = false → t.clean = false →
      (∀ e, (benchLine s t.asid).head? = some e → e.slot = s.cur) → benchReady s t.asid s.cur = true →
      (replaying s t.asid = false → ∀ s0 s1 list nt, logReserve s t.asid 1 = .ok s0 →
        let n := (readLog s0 t.asid).curBench + 1
        takeSnapshot (setTask s0 s.cur (benchIssuer s t f.d.toNat n)) t.asid n = (.done s1 list, nt) →
        completes (.bench f) s fun u =>
          u.mem = (openBench (setTask s1 s.cur t) t.asid t.wtag.toNat n nt list t.id.gtid (ownIcount s t)).mem ∧
          ∃ t', curTask u = some t' ∧ t'.icount = t.icount + 1 ∧
            setsScalar t.regs t'.regs f.d.toNat (BitVec.ofNat 64 n) false) ∧
      (replaying s t.asid = true → completes (.bench f) s fun u =>
        let n := recordedBench s t.asid t.id.gtid (ownIcount s t)
        u.mem = (writeLog s t.asid { readLog s t.asid with curBench := n }).mem ∧
        ∃ t', curTask u = some t' ∧ t'.icount = t.icount + 1 ∧
          setsScalar t.regs t'.regs f.d.toNat (BitVec.ofNat 64 n) false)) ∧
    (canRun (.bench f) s t → t.resident = false ∨ t.depth ≠ 0 ∨ t.handler = true ∨ t.clean = true →
      raises (.bench f) s .illegalInstr)

/-! ### Memory (R297 to R314) -/

/-- R299, R302 to R305, R74, R113, R117, R176, R222: every load that MemOp lets through, none of whose elements faults, and that
waits for the task's earlier accesses where it is sc, executes: its destination takes the bytes at its places, laid out by element (R80: what goes to a host link arrives later); the
full-empty bits of the granules it covers become empty when it asks for that; memory keeps every byte, with what its check
recorded; no scratchpad byte, no other task and no other register changes. -/
def Obligations.LoadsExecute : Prop :=
  ∀ (f : FmtM) (s s1 : State) (t : Task) (ps : Placed),
    let r := srcRegs s t
    let loads := fun (i : Instr) (whole : MemReq) =>
      let rq := unraised s t whole
      canRun i s t → placedAs s t f rq (fun _ => []) s1 ps → scHolds s t f = false → feOpen s t false f ps →
      completes i s fun u =>
        othersStand s u ∧ u.cores.spad = s.cores.spad ∧ u.cores.spadPoi = s.cores.spadPoi ∧
        (∀ g, tabGet false g u.cores.full =
          if f.fe = 2 ∧ g ∈ granulesOf ps then false else tabGet false g s.cores.full) ∧
        (slicesOff s → u.mem = s1.mem) ∧
        ∃ t', curTask u = some t' ∧ accessed s t t' (deliverRegs t.regs rq.dests true (piecesRead s1 ps))
    loads (.ld f) (ldReq r f) ∧ loads (.mld f) (mldReq r f) ∧
    loads (.vld f) (vecLoadReq r f .contiguous) ∧ loads (.vlds f) (vecLoadReq r f .strided) ∧
    loads (.vldx f) (vecLoadReq r f .indexed)

/-- R299, R302 to R305, R74, R187 to R190, R208: every store that MemOp lets through, whose release conditions hold and
whose owners' logs have room, executes: its bytes are stored at its places, after the STORE entries of logged pages and
the metadata of BOUND lines; its granules become full when it asks for that; no register and no other task changes. On
pages without LOG every byte of memory outside the stored ones reads as before. -/
def Obligations.StoresExecute : Prop :=
  ∀ (f : FmtM) (s s1 s2 : State) (t : Task) (ps : Placed),
    let r := srcRegs s t
    let stores := fun (i : Instr) (whole : MemReq) =>
      let rq := unraised s t whole
      canRun i s t → placedAs s t f rq (fun _ => []) s1 ps → (f.ord ≠ 0 ∨ f.fe ≠ 0 → quiet s t = true) →
      feOpen s t true f ps → withRooms s1 t .store ps (ownersOf ps) Eff.ok = .ok s2 → completes i s fun u =>
        othersStand s u ∧ curTask u = some { wentBy s t with raised := none } ∧
        (u.cores.spad, u.cores.spadPoi) = storeBytes s.cores.spad s.cores.spadPoi (storeSets ps).2 ∧
        (∀ g, tabGet false g u.cores.full =
          if f.fe ≠ 0 ∧ g ∈ granulesOf ps then true else tabGet false g s.cores.full) ∧
        (slicesOff s → u.mem = physStore ((checkedLines ps).foldl (fun a x => markLine a s.cur t rq x.2)
          (modCur (logStores s2 t.wtag.toNat ps) fun v => { v with raised := none })).mem (storeSets ps).1) ∧
        (slicesOff s → (∀ x ∈ ps, plainPlace x.2) → ∀ a, match tabFind a (storeSets ps).1 with
          | some b => tabGet 0 a u.mem.bytes = b.1
          | none => tabGet 0 a u.mem.bytes = tabGet 0 a s1.mem.bytes)
    stores (.st f) (stReq r f) ∧ stores (.mst f) (mstReq r f) ∧ stores (.vst f) (vecStoreReq r f .contiguous) ∧
    stores (.vsts f) (vecStoreReq r f .strided) ∧ stores (.vstx f) (vecStoreReq r f .indexed)

/-- R102, R155, R302, R81, R89: a scalar load from the task's own scratchpad window, aligned and inside it, of up to 8
bytes, with no full-empty condition: s[d] takes the little-endian value of the bytes at the window's base plus the address,
zero extended, poisoned as their granules are, 6 cycles later; nothing else changes. R102, R155, R302, R89: a scalar store
to the task's own scratchpad window, aligned and inside it, of up to 8 bytes, with no ordering and no full-empty condition:
the low bytes of s[d] are stored there, and of every other byte of memory and of every scratchpad, of every register, flag
and task nothing changes. -/
def Obligations.OwnScratchpadAccesses : Prop :=
  (∀ (f : FmtM) (s : State) (t : Task), canRun (.ld f) s t → f.sp = .own → f.fe = 0 → f.sz.toNat ≤ 3 → t.depth = 0 →
     poiS (srcRegs s t) f.a.toNat = false → t.raised = none → scHolds s t f = false →
     let p := (getS (srcRegs s t) f.a.toNat + f.off.signExtend 64).toNat
     let n := 2 ^ f.sz.toNat
     p % n = 0 → p < 2 ^ 63 → p + n ≤ t.scratch →
     completes (.ld f) s fun u => scalarDone s t u f.d.toNat
       (BitVec.ofNat 64 (leNat (bytesAt s.cores.spad (spadKey (keyCore s.cur) (t.sbase + p)) n)))
       (poisonAt s.cores.spadPoi (spadKey (keyCore s.cur) (t.sbase + p)) n) 6) ∧
  (∀ (f : FmtM) (s : State) (t : Task), canRun (.st f) s t → f.sp = .own → f.fe = 0 → f.ord = 0 → f.sz.toNat ≤ 3 →
     t.depth = 0 → poiS (srcRegs s t) f.a.toNat = false → t.raised = none →
     let p := (getS (srcRegs s t) f.a.toNat + f.off.signExtend 64).toNat
     let n := 2 ^ f.sz.toNat
     p % n = 0 → p < 2 ^ 63 → p + n ≤ t.scratch →
     completes (.st f) s fun u => othersStand s u ∧ u.hub = s.hub ∧ curTask u = some (wentBy s t) ∧
       u.cores = { s.cores with spad := u.cores.spad, spadPoi := u.cores.spadPoi } ∧
       storesAt s u (.spad (keyCore s.cur) (t.sbase + p)) n (getS (srcRegs s t) f.d.toNat).toNat)

/-- R108, R169, R298, R299, R102: what a scalar access raises before anything of it happens: a poisoned address
POISON_CONSUMED; a misaligned one ALIGN (a store of poisoned data apart, which a SYS page refuses first, R299), an address at 2^57 or above, or one outside the task's own window, PERM, each with
the address and the width. R176 to R178: a scalar load of up to 8 bytes whose page does not translate, on a ring whose next
entry is FREE and mapped, does not trap: the ring's entry takes the access, in STATE QUEUED, the ring's index moves on, the
load counts as issued and s[d] is pending until the entry completes. -/
def Obligations.AccessFaults : Prop :=
  (∀ (f : FmtM) (s : State) (t : Task) (i : Instr), i = .ld f ∨ (i = .st f ∧ f.ord = 0 ∧ f.fe = 0) → canRun i s t → t.raised = none →
     let r := srcRegs s t
     let p := (memBase r f).toNat
     let n := 2 ^ f.sz.toNat
     let stops := fun (c : Cause) => exec i s = .next (trapped s { cause := c, addr := p, info := n })
     (poiS r f.a.toNat = true → raises i s .poisonConsumed) ∧
     (poiS r f.a.toNat = false → (i = .st f → ∀ e ∈ (stReq r f).elems, e.poi = false) → p % n ≠ 0 →
       (f.sp = .global → windowPinned s t p = none) → stops .align) ∧
     (poiS r f.a.toNat = false → p % n = 0 → f.sp = .global → 2 ^ 57 ≤ p → stops .perm) ∧
     (poiS r f.a.toNat = false → p % n = 0 → f.sp = .own → t.depth ≠ 0 ∨ 2 ^ 63 ≤ p ∨ t.scratch < p + n → stops .perm)) ∧
  (∀ (f : FmtM) (s : State) (t : Task) (owner va : Nat) (dm : Domain), canRun (.ld f) s t → f.sp = .global → f.fe = 0 →
     f.sz.toNat ≤ 3 → f.d ≠ 0 → poiS (srcRegs s t) f.a.toNat = false → t.raised = none →
     let e : Elem := { p := (memBase (srcRegs s t) f).toNat, size := 2 ^ f.sz.toNat }
     e.p % e.size = 0 → windowPinned s t e.p = none → locate s s.cur t f .load e = .at_ (.fault owner va) →
     lineBusy t [(e, .fault owner va)] = false → scHolds s t f = false → watchHit s t (ldReq (srcRegs s t) f) [(e, .fault owner va)] = none →
     let w := lostWalks s s t f (ldReq (srcRegs s t) f)
     domOf w owner = some dm →
     let ix := dm.ringNext % ringSize w owner
     pinnedFault w owner (retryVa w owner ix) 64 = none → pinnedFault w owner (retryDataVa w owner ix) 1024 = none →
     (readRetry w owner ix).state = 0 →
     let entry : RetryEntry :=
       { gtid := t.id.gtid, pc := ownPc s t, va := va, op := 1, aop := 0, sz := f.sz.toNat, dest := f.d.toNat
         depth := t.depth, state := 1, ord := f.ord.toNat, sc := f.sc.toNat, roff := 0, data := [] }
     completes (.ld f) s fun u => othersStand s u ∧
       u.mem = (vwritePoi w owner (retryVa w owner ix) entry.bytes (List.replicate 32 false)).mem ∧
       (∃ dm', domOf u owner = some dm' ∧ dm'.ringNext = (ix + 1) % ringSize w owner) ∧
       ∃ t' ref, curTask u = some t' ∧ t'.pc = pcOn s t ∧ t'.retry = t.retry ++ [ref] ∧ ref.owner = owner ∧
         ref.index = ix ∧ ref.dests = [f.d.toNat] ∧ ref.line = va / 128 ∧ ref.depth = t.depth ∧
         retryPending t' f.d.toNat = true ∧ ∀ n, n ≠ f.d.toNat → getS t'.regs n = getS t.regs n)

/-- R204, R208, R210 to R212: an access of `ld`, `st`, an atomic or `red` of one element to a BOUND or ATOMIC line whose check
fails: in a domain of mode FAULT it traps with the cause of R208, its address and the race record, and does nothing; under
REPORT the record goes to the race ring and the access goes on; under OFF nothing is checked. The causes and their order, the
narrowest scope of a task's tag, and that metadata written reads back; and a job one of whose lines fails its check ends with
UMBRA and the line's address. -/
def Obligations.RacesTrap : Prop :=
  (∀ (f : FmtM) (s : State) (t : Task) (owner va pa : Nat) (l : Leaf) (win : Bool) (e : Elem),
     let r := srcRegs s t
     let held := f.ord = 2 ∨ f.ord = 3 ∨ f.ord = 4
     ∀ x ∈ [(Instr.ld f, ldReq r f, False), (.st f, stReq r f, f.ord ≠ 0 ∨ f.fe ≠ 0), (.aadd f, atomicReq r f 0, held),
         (.acas f, atomicReq r f 7, held), (.acas2 f, acas2Req r f, held), (.red f, redReq r f, held)],
       let rq := x.2.1
       canRun x.1 s t → t.raised = none → (x.2.2 → quiet s t = true) → rq.poison = false → rq.elems = [e] →
       e.p % rq.align = 0 → (f.sp = .global → windowPinned s t e.p = none) →
       locate s s.cur t f rq.need e = .at_ (.mem owner va pa l win) →
       sysFindings s rq [(e, .mem owner va pa l win)] = [] → (l.cls = .bound → (region (lineIn s owner pa) owner l.region).isSome = true) →
       let s1 := lineIn s owner pa
       let a := accessorOf s1 s.cur t rq e owner pa l win
       let m := readMeta s1.mem pa
       ∀ c w, umbraCause a l.cls m = some (c, w) →
         let record := raceRecord (raceInfoOf s1 t rq e owner l win) a m c w
         (umbraMode s owner = 0 → exec x.1 s = .next (trapped s { cause := c, addr := e.p, record := record })) ∧
         (umbraMode s owner = 1 →
           resolve s t f rq (fun _ => []) = .ok (raceReport s1 owner record, [(e, .mem owner va pa l win)])) ∧
         (umbraMode s owner = 2 → resolve s t f rq (fun _ => []) = .ok (s1, [(e, .mem owner va pa l win)]))) ∧
  (∀ (a : UmbraAcc) (m : Meta),
     let pending := m.state = 2 ∧ ¬(a.engine = true ∧ m.tag = a.tag)
     let other := m.state = 1 ∧ m.tag ≠ a.tag
     let n := if a.engine then max 2 (narrowestScope a.core m.tag) else narrowestScope a.core m.tag
     umbraCause a .loose m = none ∧
     (a.plain = true → umbraCause a .atomic m = some (.atomicOnly, a.writes)) ∧
     (a.plain = false → pending → umbraCause a .atomic m = some (.raceEngine, !a.reads)) ∧
     (a.plain = false → ¬pending → umbraCause a .atomic m = none) ∧
     (a.entry = none → umbraCause a .bound m = some (.unacquired, !a.reads)) ∧
     ∀ e, a.entry = some e →
       let narrow := other ∧ (e.scope < n ∨ m.scope < n)
       let newer := other ∧ e.gen ≤ m.gen
       let shared := e.mode = 2 ∨ e.mode = 4
       (pending → umbraCause a .bound m = some (.raceEngine, !a.reads)) ∧
       (¬pending → narrow → umbraCause a .bound m = some (.raceScope, !a.reads)) ∧
       (¬pending → ¬narrow →
         (a.reads = true → newer → umbraCause a .bound m = some (.raceRw, false)) ∧
         (a.reads = false ∨ ¬newer → a.writes = true → shared → umbraCause a .bound m = some (.raceMode, true)) ∧
         (a.reads = false → newer → a.writes = true → ¬shared → umbraCause a .bound m = some (.raceWw, true)) ∧
         (a.reads = false ∨ ¬newer → a.writes = false ∨ (¬shared ∧ ¬newer) → umbraCause a .bound m = none))) ∧
  (∀ core other slot adm, core < 1280 → other < 1280 → slot < 16 → narrowestScope core (taskTag other slot adm).toNat =
     if other = core then 1 else if other / 8 = core / 8 then 2 else if other / 320 = core / 320 then 3 else 4) ∧
  (∀ (mem : Memory) (pa : Nat) (x : Meta), (metaAddr mem pa).isSome = true → x.tag < 2 ^ 24 → x.gen < 2 ^ 32 →
     x.scope < 8 → x.state < 8 → readMeta (writeMeta mem pa x) pa = x) ∧
  ∀ (s s1 : State) (j j1 : EngineJob) (va : Nat), let run := { j with phase := .running }
    let s0 := engFill s j
    rangeFinding s0 run (engRanges j) = none → engUmbra (holdKey s0 j) run = (s1, j1, some va) →
    rangeCheck s j = (s1, { j1 with code := 7, detail := va })

/-- R306, R307: `pf` and `cln` of a clean address execute whatever the address names (R182: where the window's frames can be
read), change no register, no other task and, while
no session logs slices, no byte; `cln` with ch 2 leaves the line in no instruction cache for the domain. A poisoned address raises
POISON_CONSUMED. R119, R178, R314: a `fence` writes nothing and goes on; an acquire-class one makes the task's next
memory-class group wait for its earlier reads, any other for all its earlier accesses, once its retry entries have
completed: such a group may not issue while a read, or an access or retry entry, of the task is outstanding, and is passed
over; with nothing outstanding no fence holds it. -/
def Obligations.PrefetchCleanAndFenceExecute : Prop :=
  (∀ (f : FmtM) (s : State) (t : Task), ∀ i ∈ [Instr.pf f, Instr.cln f], canRun i s t →
     (poiS (srcRegs s t) f.a.toNat = false → windowPinned s t (memBase (srcRegs s t) f).toNat = none →
       completes i s fun u => othersStand s u ∧ (slicesOff s → u.mem = s.mem ∧ u.hub = s.hub) ∧ curTask u = some (wentBy s t) ∧
       u.cores = { s.cores with
         tlb := u.cores.tlb, walkers := u.cores.walkers, l1 := u.cores.l1, l2 := u.cores.l2, icache := u.cores.icache } ∧
       (i = .cln f → f.ch = 2 → ∀ owner va pa l,
         namedLine s t (memBase (srcRegs s t) f).toNat = some (owner, va, pa, l) → l.sys = false → l.home ≠ 3 →
         ∀ core line, line / 128 = va / 128 → icLookup u core owner line = none)) ∧
     (poiS (srcRegs s t) f.a.toNat = true → raises i s .poisonConsumed)) ∧
  (∀ (f : FmtM) (s : State) (t : Task), canRun (.fence f) s t →
     (f.ord = 1 → completes (.fence f) s fun u => onlyTask s u { wentBy s t with fenceReads := true }) ∧
     (f.ord ≠ 1 → t.retry = [] → completes (.fence f) s fun u => onlyTask s u { wentBy s t with fenceAll := true }) ∧
     (f.ord ≠ 1 → t.retry ≠ [] → heldBack (.fence f) s)) ∧
  (∀ (s : State) (key : Nat) (t : Task) (again : Bool) (bits : List Slot96) (is : List Instr),
     ∀ b ∈ bits, classOf (slotOp b) = some .memory →
     let outstanding := (t.fenceAll = true ∧ (accessesOf s key ≠ [] ∨ t.retry ≠ [])) ∨
       (t.fenceReads = true ∧ ((∃ a ∈ accessesOf s key, a.2.op ≠ .store) ∨ ∃ r ∈ t.retry, r.reads = true))
     (outstanding → canIssue s key t again bits is = false) ∧
     (outstanding → ∀ pc, evaluate s key t [(b, pc)] = .next (passOver s key)) ∧
     (accessesOf s key = [] → t.retry = [] → fenceHolds s key t b = false))

/-- R74, R308: `feclr` and `feset` set the full-empty bits of the 1, 2 or 4 granules named, `feset` once the task's earlier
accesses are performed, and `fetst` reads them into s[d], bit i the i-th; no byte and no other bit changes. -/
def Obligations.FullEmptyOperations : Prop :=
  ∀ (f : FmtM) (s s1 : State) (t : Task) (ps : Placed),
    let r := srcRegs s t
    let gs := granulesOf ps
    let sets := fun (i : Instr) (b : Bool) => completes i s fun u =>
      othersStand s u ∧ u.mem = s1.mem ∧ u.cores.spad = s.cores.spad ∧ curTask u = some (wentBy s t) ∧
      ∀ g, tabGet false g u.cores.full = if g ∈ gs then b else tabGet false g s.cores.full
    (canRun (.feclr f) s t → resolve s t f (feReq r f) (fun _ => []) = .ok (s1, ps) → sets (.feclr f) false) ∧
    (canRun (.feset f) s t → resolve s t f (feReq r f) (fun _ => []) = .ok (s1, ps) →
      (quiet s t = true → sets (.feset f) true) ∧ (quiet s t = false → heldBack (.feset f) s)) ∧
    (canRun (.fetst f) s t →
      resolve s t f { feReq r f with dests := scalarDests f.d.toNat false } (fun _ => []) = .ok (s1, ps) →
      completes (.fetst f) s fun u => othersStand s u ∧ u.mem = s1.mem ∧ u.cores.full = s.cores.full ∧
        u.cores.spad = s.cores.spad ∧
        ∃ t' v, curTask u = some t' ∧ t'.pc = pcOn s t ∧ setsScalar t.regs t'.regs f.d.toNat v false ∧
          ∀ i, i < 64 → v.getLsbD i = match gs[i]? with | some g => tabGet false g s.cores.full | none => false)

/-- R309 to R313, R190, R201: every atomic that MemOp lets through, whose release conditions hold, whose turn has come and
whose owners' logs have room, executes: its elements are read, modified and written one after another, and its destination
takes the old values. No other task and no other register changes. R309, R310, R312: what one atomic on a plain place (a
scratchpad, or memory without LOG or SYS) returns and writes: the old value in s[d], and at its place the sum, the bitwise
result, the smaller or larger (signed for ch 0), V, or V only where the old value equals the comparand; every other byte
stays. `red` writes no register. What poison an atomic leaves is the model's reading (log entry 87). -/
def Obligations.AtomicsReadAndWrite : Prop :=
  (∀ (f : FmtM) (s s1 s2 : State) (t : Task) (ps : Placed) (turns : List (Nat × List Nat)),
     let r := srcRegs s t
     let runs := fun (i : Instr) (whole : MemReq) =>
       let rq := unraised s t whole
       canRun i s t → placedAs s t f rq (fun _ => []) s1 ps → (f.ord = 2 ∨ f.ord = 3 ∨ f.ord = 4 → quiet s t = true) →
       atomicTurns s1 t ps = some turns → withRooms s1 t rq.op ps (ownersOf ps) Eff.ok = .ok s2 → completes i s fun u =>
         let m := (checkedLines ps).foldl (fun a x => markLine a a.cur t rq x.2) s2
         let done := rmwAll m t rq.op (ownIcount s2 t) ps
         othersStand s u ∧ (slicesOff s → u.mem = done.1.mem) ∧ u.cores.spad = done.1.cores.spad ∧
         u.cores.full = s.cores.full ∧
         ∃ t', curTask u = some t' ∧ accessed s t t'
           (deliverRegs t.regs rq.dests true done.2)
     runs (.aadd f) (atomicReq r f 0) ∧ runs (.aand f) (atomicReq r f 1) ∧
     runs (.aor f) (atomicReq r f 2) ∧ runs (.axor f) (atomicReq r f 3) ∧
     runs (.amin f) (atomicReq r f 4) ∧ runs (.amax f) (atomicReq r f 5) ∧
     runs (.aswp f) (atomicReq r f 6) ∧ runs (.acas f) (atomicReq r f 7) ∧
     runs (.acas2 f) (acas2Req r f) ∧ runs (.red f) (redReq r f) ∧
     runs (.vatom f) (vatomReq r f)) ∧
  (∀ (f : FmtM) (s s1 : State) (t : Task) (e : Elem) (x : Spot),
     let r := srcRegs s t
     let n := 2 ^ f.sz.toNat
     let m := 2 ^ (8 * n)
     let old := (spotRead s1 (e, x)).1
     let v := (getS r f.x.toNat).toNat % m
     let below := fun (isSigned : Bool) (a b : Nat) => if isSigned then sval (8 * n) a ≤ sval (8 * n) b else a ≤ b
     let does := fun (i : Instr) (rq : MemReq) (new : Nat) =>
       canRun i s t → t.raised = none → placedAs s t f rq (fun _ => []) s1 [(e, x)] → plainPlace x → slicesOff s →
       (f.ord = 2 ∨ f.ord = 3 ∨ f.ord = 4 → quiet s t = true) → completes i s fun u =>
         othersStand s u ∧ storesAt s1 u x n new ∧
         ∃ t', curTask u = some t' ∧ t'.pc = pcOn s t ∧ ∀ k, getS t'.regs k =
           if k ∈ rq.dests then BitVec.ofNat 64 old else getS t.regs k
     does (.aadd f) (atomicReq r f 0) ((old + v) % m) ∧
     does (.aand f) (atomicReq r f 1) (old &&& v) ∧
     does (.aor f) (atomicReq r f 2) (old ||| v) ∧
     does (.axor f) (atomicReq r f 3) (old ^^^ v) ∧
     does (.amin f) (atomicReq r f 4) (if below (f.ch == 0) old v then old else v) ∧
     does (.amax f) (atomicReq r f 5) (if below (f.ch == 0) old v then v else old) ∧
     does (.aswp f) (atomicReq r f 6) v ∧
     does (.acas f) (atomicReq r f 7) (if old = (getS r f.d.toNat).toNat % m then v else old) ∧
     (let q := (getS r f.d.toNat).toNat % m
      does (.red f) (redReq r f) (match f.ch.toNat with
        | 0 => (old + q) % m
        | 1 => old &&& q
        | 2 => old ||| q
        | 3 => old ^^^ q
        | 4 => if below true old q then old else q
        | 5 => if below true old q then q else old
        | _ => q)))

/-! ### Synchronisation (R315 to R322) -/

/-- R315 to R317, R188: `acq` at an object of the right kind, with a free entry and a scope its regions allow. Granted, by
HOLDERS = 0 for ex, by no exclusive holder and no waiting exclusive request (or no holder) for sh, always for pr, by GEN at
or past k for wt, it writes GEN to s[d], makes its table entry, at the lowest free place (the model's choice, log entry 41),
and leaves the object with its new holder; not granted, the slot passes to BLK_ACQ and an exclusive request leaves XWAIT
set. Outside a replay. R318, R319, R321: `rel` and `arv` take
the newest entry for the object made at the current depth (`arv` the newest pr one), once the task's accesses are performed.
The object changes as the mode says, one entry is freed, and `arv` returns GEN after the step. Without an entry the cause is
UNACQUIRED, and a pr entry of an older generation meets SYNC_LATE_ARRIVAL. Outside a replay. -/
def Obligations.AcquireAndReleaseExecute : Prop :=
  (∀ (f : FmtM) (s s0 s1 : State) (t : Task) (e : Elem) (owner va pa : Nat) (l : Leaf) (win : Bool),
     let r := srcRegs s t
     let obj := (memBase r f).toNat
     let mode := f.ch.toNat + 1
     let rq := objReq r f .rmw (scalarDests f.d.toNat false)
     let o := readObj s1.mem pa
     let k : Nat := (getS r f.x.toNat).toNat % 2 ^ 32
     let granted := (mode = 1 ∧ o.holders = 0) ∨ (mode = 2 ∧ o.excl = false ∧ (o.xwait = false ∨ o.holders = 0)) ∨
       mode = 3 ∨ (mode = 4 ∧ ((o.gen : Int) - (k : Int)) % (2 ^ 32 : Int) < 2 ^ 31)
     canRun (.acq f) s t → f.sc.toNat ≤ regionLimit s t.asid obj →
     placedAs s t f rq (fun ps => objFindings s (some (if mode ≤ 2 then 1 else 2)) ps ++ acqFull t obj) s1
       [(e, .mem owner va pa l win)] → scHolds s t f = false → slicesOff s → replaying s1 owner = false →
     (granted → logReserve s1 owner (if l.log then 1 else 0) = .ok s0 → completes (.acq f) s fun u =>
       let o' := if mode = 1 then { o with excl := true, holders := 1, xtag := t.wtag.toNat, xwait := false }
         else if mode = 2 then { o with holders := o.holders + 1 } else o
       let m := if o' = o then s0 else { s0 with mem := writeObj s0.mem pa o' }
       let m' := if l.log then
         (logAppend m owner [acqEntry t.wtag.toNat va t.id.gtid (ownIcount s t) mode o'.gen]).1 else m
       othersStand s u ∧ u.mem = m'.mem ∧ u.cores.spad = s.cores.spad ∧ ∃ t', curTask u = some t' ∧ t'.pc = pcOn s t ∧
         t'.acq = t.acq ++ [{ obj := obj, gen := o.gen, mode := mode, scope := f.sc.toNat, depth := t.depth,
                              ix := acqPlace t.acq }] ∧
         setsScalar t.regs t'.regs f.d.toNat (BitVec.ofNat 64 o.gen) (poisonAt s1.mem.poison pa 16)) ∧
     (¬granted → ∃ u, exec (.acq f) s = .next u ∧ u.grp.result = .blocked ∧
       u.mem = (if mode = 1 ∧ o.xwait = false then writeObj s1.mem pa { o with xwait := true } else s1.mem) ∧
       ∃ t', curTask u = some t' ∧ t'.st = .blkAcq ∧ t'.regs = t.regs ∧ t'.acq = t.acq ∧ t'.pc = t.pc)) ∧
  (∀ (f : FmtM) (s s0 s1 : State) (t : Task) (e : Elem) (owner va pa : Nat) (l : Leaf) (win : Bool) (h : AcqEntry),
     let r := srcRegs s t
     let obj := (memBase r f).toNat
     let o := readObj s1.mem pa
     let arrived := if o.expect ≤ o.arrived + 1 then { o with gen := (o.gen + 1) % 2 ^ 32, arrived := 0 }
       else { o with arrived := o.arrived + 1 }
     let o' := if h.mode = 1 then
         (if o.excl ∧ o.xtag = t.wtag.toNat then
           { o with gen := (o.gen + 1) % 2 ^ 32, excl := false, holders := 0, xtag := 0 } else o)
       else if h.mode = 2 then (if o.excl = false ∧ 0 < o.holders then { o with holders := o.holders - 1 } else o)
       else if h.mode = 3 then arrived else o
     let frees := fun (i : Instr) (dests : List Nat) (ok : Nat → Bool) (code : Nat) =>
       canRun i s t → quiet s t = true → newestEntry t obj ok = some h →
       (h.mode = 3 → o.gen = h.gen ∧ (readObj s.mem pa).gen = h.gen) →
       placedAs s t f (objReq r f .rmw dests) (fun ps => objFindings s (some (modeKind h.mode)) ps) s1
         [(e, .mem owner va pa l win)] → slicesOff s → replaying s1 owner = false →
       logReserve s1 owner (if l.log then 1 else 0) = .ok s0 → completes i s fun u =>
         let m := if o' = o then s0 else { s0 with mem := writeObj s0.mem pa o' }
         let m' := if l.log then (logAppend m owner
           [acqEntry t.wtag.toNat va t.id.gtid (ownIcount s t) code o'.gen]).1 else m
         othersStand s u ∧ u.mem = m'.mem ∧ ∃ t', curTask u = some t' ∧ t'.pc = pcOn s t ∧
           t'.acq = (t.acq.reverse.erase h).reverse ∧
           t'.regs = deliverRegs t.regs dests true
             [{ roff := 0, size := 4, val := o'.gen, poi := poisonAt s1.mem.poison pa 16 }]
     frees (.rel f) [] (fun _ => true) 5 ∧
     frees (.arv f) (scalarDests f.d.toNat false) (· == 3) 6 ∧
     (∀ i ok kind dests, (i = .rel f ∧ ok = (fun _ => true) ∧ kind = none ∧ dests = []) ∨
         (i = .arv f ∧ ok = (· == 3) ∧ kind = some 2 ∧ dests = scalarDests f.d.toNat false) →
       canRun i s t → (quiet s t = false → heldBack i s) ∧
       (quiet s t = true → newestEntry t obj ok = none → placedAs s t f (objReq r f .rmw dests) (objFindings s kind) s1
         [(e, .mem owner va pa l win)] →
         exec i s = .next (trapped s { cause := .unacquired, addr := obj })) ∧
       (quiet s t = true → newestEntry t obj ok = some h → h.mode = 3 → (readObj s.mem pa).gen ≠ h.gen →
         placedAs s t f (objReq r f .rmw dests) (objFindings s (some 2)) s1 [(e, .mem owner va pa l win)] →
         exec i s = .next (trapped s { cause := .syncLateArrival, addr := obj }))))

/-- R320: `sgen` reads GEN into s[d] and makes no table entry; `sini` writes the whole object, GEN from s[d], KIND from ch,
EXPECT from s[x] for a PHASE, every other field zero. R322, R78, R127: `waita` compares its word, with the task's own stores
that are still on their way, with s[x]: where the condition holds it writes the word to s[d] and goes on; otherwise it arms
a monitor on the word and its slot passes to BLK_MON, to be issued again. A value that `rcmpl` has given it (R178), or that
its read of a SYS page has brought over the link (R36, R80), it takes in the word's place; until that read has come to its
end the group is held (log entry 96). -/
def Obligations.ObjectsAndWaitsExecute : Prop :=
  (∀ (f : FmtM) (s s1 : State) (t : Task),
     let r := srcRegs s t
     (∀ (e : Elem) (owner va pa : Nat) (l : Leaf) (win : Bool), canRun (.sgen f) s t → f.fe = 0 → t.raised = none →
       scHolds s t f = false → placedAs s t f (sgenReq r f) (objFindings s none) s1 [(e, .mem owner va pa l win)] → slicesOff s →
       completes (.sgen f) s fun u => othersStand s u ∧ u.mem = s1.mem ∧ ∃ t', curTask u = some t' ∧
         t'.pc = pcOn s t ∧ t'.acq = t.acq ∧
         setsScalar t.regs t'.regs f.d.toNat (BitVec.ofNat 64 (readObj s1.mem pa).gen) (poisonAt s1.mem.poison pa 4)) ∧
     (∀ (e e' : Elem) (owner va pa : Nat) (l : Leaf) (win win' : Bool), canRun (.sini f) s t → f.fe = 0 → t.raised = none →
       (f.ord ≠ 0 → quiet s t = true) → l.log = false → slicesOff s →
       placedAs s t f (siniReq r f) (siniFindings s r f) s1
         [(e, .mem owner va pa l win), (e', .mem owner (va + 16) (pa + 16) l win')] →
       completes (.sini f) s fun u => othersStand s u ∧ curTask u = some (wentBy s t) ∧
         readObj u.mem pa = { gen := (getS r f.d.toNat).toNat % 2 ^ 32, kind := f.ch.toNat % 4, excl := false, xwait := false
                              holders := 0, expect := if f.ch = 2 then (getS r f.x.toNat).toNat % 2 ^ 32 else 0
                              arrived := 0, xtag := 0 } ∧
         ∀ a, a < pa ∨ pa + 32 ≤ a → tabGet 0 a u.mem.bytes = tabGet 0 a s1.mem.bytes)) ∧
  (∀ (f : FmtM) (s s1 : State) (t : Task) (e : Elem) (owner va pa : Nat) (l : Leaf) (win : Bool),
     let r := srcRegs s t
     let n := 2 ^ f.sz.toNat
     let m1 := memSeen s1 s.cur
     let w := physNat m1 pa n
     let c := (getS r f.x.toNat).toNat % 2 ^ (8 * n)
     let holds := (f.ch = 0 ∧ w = c) ∨ (f.ch = 1 ∧ w ≠ c) ∨ (f.ch = 2 ∧ c ≤ w) ∨ (f.ch = 3 ∧ w < c)
     (∀ v, canRun (.waita f) s t → f.ch.toNat ≤ 3 → t.waitVal = some v → v.pc = ownPc s t → v.depth = t.depth →
       waitHolds f.ch.toNat v.val c = true → completes (.waita f) s fun u => ∃ t', onlyTask s u t' ∧
         t' = { wentBy s t with regs := t'.regs, pend := t'.pend, waitVal := none } ∧
         setsScalar t.regs t'.regs f.d.toNat (BitVec.ofNat 64 v.val) v.poi) ∧
     (canRun (.waita f) s t → f.ch.toNat ≤ 3 → t.waitVal = none → t.mon = none →
     placedAs s t f (waitReq r f) waitFindings s1 [(e, .mem owner va pa l win)] → unboundWindow s.hub.pkg pa = false →
     lineOwed s [(e, .mem owner va pa l win)] = false → scHolds s t f = false → slicesOff s →
     (l.sys = true → readsLink (.waita f) s pa) ∧
     (l.sys = false → holds → completes (.waita f) s fun u => othersStand s u ∧ u.mem = s1.mem ∧ ∃ t', curTask u = some t' ∧
       t'.pc = pcOn s t ∧ t'.mon = none ∧
       setsScalar t.regs t'.regs f.d.toNat (BitVec.ofNat 64 w) (poisonAt m1.poison pa n)) ∧
     (l.sys = false → ¬holds → ∃ u, exec (.waita f) s = .next u ∧ u.grp.result = .blocked ∧ u.mem = s1.mem ∧
       ∃ t' m, curTask u = some t' ∧ t'.st = .blkMon ∧ t'.pc = t.pc ∧ t'.regs = t.regs ∧ t'.mon = some m ∧ m.va = va ∧
         m.owner = owner ∧ m.pa = pa ∧ m.size = n ∧ m.cond = f.ch.toNat ∧ m.comparand = c)))

/-! ### Engines (R84 to R88, R323 to R332) -/

/-- R84, R85, R323, R324: `mxj` and `cpj` with a clean frame, no retry entry and no access on its way to a SYS page: chosen
by the cluster's queue, the job is appended to it with the frame read at issue and the task's GTID, depth and domain, and
s[d] takes its identifier at JOB latency; the counter skips 0, and the queue's rotations move on. Not chosen, the group is
held and competes. A poisoned frame register raises POISON_CONSUMED. Nothing else changes. R331, R332: `jpoll` writes the
count of the task's own jobs at its depth in its cluster (one identifier, or all); `jwait` writes 0 when the count is 0 and
otherwise passes the slot to BLK_JOB; `jcan` stops the named own job that has not passed its transfer and writes 1, or
writes 0. That a submission waits for the task's accesses to SYS pages is the model's reading (log entry 70), and the
latency of `jwait` its choice (log entry 93). -/
def Obligations.EngineInstructionsExecute : Prop :=
  (∀ (f : FmtJ) (s : State) (t : Task) (i : Instr) (copy : Bool),
     i = (if copy then .cpj f else .mxj f) → canRun i s t →
     let r := srcRegs s t
     let c := s.cur / 16 / 8
     let q := tabGet {} c s.hub.clusters
     let k := s.cur / 16 % 8
     let clean := ∀ n, n < 8 → poiS r (f.f.toNat + n) = false
     let done := t.retry = [] ∧ ∀ e ∈ accessesOf s s.cur, e.2.parts = []
     (done → clean → t.jobGrant = true → completes i s fun u => ∃ t' j, hubAndTask s u t' ∧
       u.hub = { s.hub with clusters := u.hub.clusters } ∧
       (∀ c', c' ≠ c → tabGet {} c' u.hub.clusters = tabGet {} c' s.hub.clusters) ∧
       tabGet {} c u.hub.clusters = { q with
         jobs := q.jobs ++ [j], nextId := q.nextId % 65535 + 1, lastCore := k
         lastQuad := tabPut 3 k (s.cur % 16 / 4) q.lastQuad, acceptedAt := tabPut 0 k (s.clock + 1) q.acceptedAt } ∧
       j.id = q.nextId ∧ j.copy = copy ∧ j.core = s.cur / 16 ∧ j.gtid = t.id.gtid ∧ j.depth = t.depth ∧ j.asid = t.asid ∧
       j.phase = .queued ∧ j.fn = f.fn.toNat ∧ j.aq = f.aq ∧ j.rl = f.rl ∧ j.aqs = f.aqs.toNat ∧ j.rls = f.rls.toNat ∧
       j.st = f.st ∧ j.imm = f.imm.toNat ∧ j.sbase = t.sbase ∧ j.scratch = t.scratch ∧ j.code = 0 ∧ j.held = none ∧
       (∀ n, n < 8 → j.frame[n]? = some (getS r (f.f.toNat + n))) ∧ j.frame.length = 8 ∧
       t' = { wentBy s t with
         wantsJob := false, jobGrant := false, regs := t'.regs, pend := t'.pend, jobTags := t'.jobTags } ∧
       setsScalar t.regs t'.regs f.d.toNat (BitVec.ofNat 64 q.nextId) false ∧
       (f.d ≠ 0 → tabGet 0 f.d.toNat t'.pend = s.clock + 4)) ∧
     (done → clean → t.jobGrant = false → ∃ u, exec i s = .next u ∧ u.grp.result = .held ∧
       u = { s with tasks := u.tasks, grp := u.grp } ∧ curTask u = some { t with wantsJob := true } ∧
       ∀ k, k ≠ s.cur → taskAt u k = taskAt s k) ∧
     (done → ¬clean → raises i s .poisonConsumed) ∧
     (¬done → heldBack i s)) ∧
  (∀ (f : FmtJ) (s : State) (t : Task),
     let c := s.cur / 16 / 8
     let q := tabGet {} c s.hub.clusters
     let id := (getS (srcRegs s t) f.d.toNat).toNat % 65536
     let own := fun (all : Bool) => q.jobs.filter (fun j =>
       decide (j.gtid = t.id.gtid ∧ j.depth = t.depth ∧ (all = true ∨ j.id = id)))
     let n := (own (f.fn == 1)).length
     let p := f.fn == 0 && poiS (srcRegs s t) f.d.toNat
     let open_ := fun (j : EngineJob) => j.code = 0 ∧ j.cancel = false ∧ j.noRecord = false ∧ j.passed = false
     (canRun (.jpoll f) s t → completes (.jpoll f) s fun u => scalarDone s t u f.d.toNat (BitVec.ofNat 64 n) p 4) ∧
     (canRun (.jwait f) s t → n = 0 → completes (.jwait f) s fun u => scalarDone s t u f.d.toNat 0 p 1) ∧
     (canRun (.jwait f) s t → n ≠ 0 → blocksIn (.jwait f) s t .blkJob fun u => u.mem = s.mem ∧ u.cores = s.cores ∧
       u.hub.clusters = s.hub.clusters) ∧
     (canRun (.jcan f) s t → (∀ j ∈ own false, ¬open_ j) →
       completes (.jcan f) s fun u => scalarDone s t u f.d.toNat 0 p 4) ∧
     (canRun (.jcan f) s t → (∃ j ∈ own false, open_ j) → completes (.jcan f) s fun u => ∃ t', hubAndTask s u t' ∧
       t' = { wentBy s t with regs := t'.regs, pend := t'.pend } ∧ setsScalar t.regs t'.regs f.d.toNat 1 p ∧
       tabGet {} c u.hub.clusters = { q with jobs := q.jobs.map (fun k =>
         if k.id ≠ id then k
         else if k.phase = .running then { k with cancel := true } else { k with phase := .running, code := 9 }) }))

/-- R84, R86: JOB_ACCEPT chooses, while the queue has room, a submission of the first core in rotating order that competes,
has fewer than 16 jobs and had none accepted this cycle, and issues its group (at once, outside the rotation of its quadrant,
and the lowest of several slots of a quadrant: the model's choices, log entries 5 and 66); ENGINE_JOB_START starts, while its
engine has room, the oldest waiting job of the first core in rotating order that has one, and a job that fails its static
checks holds their code and DETAIL from then on. R317, R329 to R331: a job waiting at its acquire passes over its object again
at ENGINE_ACQUIRE_GRANTED; a running copy job without release, record or SYS page, no link access of which has failed or waits
for a window, and whose pages still translate, ends at ENGINE_JOB_COMPLETE, its runs written, its pending lines converted, its
entry of the queue free (the other endings are O13's); the first in address order of several failures is the reported one, as
log entry 42 reads R329; JOB_WAIT_DONE makes a slot in BLK_JOB issue its `jwait` again. -/
def Obligations.EngineJobsRun : Prop :=
  (∀ (s : State) (cluster : Nat),
     let q := tabGet {} cluster s.hub.clusters
     let fits := fun (i : Nat) => competing s (cluster * 8 + i) ≠ [] ∧ coreJobs q (cluster * 8 + i) < 16 ∧
       tabGet 0 i q.acceptedAt ≠ s.clock + 1
     (q.jobs.length < 64 → (∃ i, i < 8 ∧ fits i) → ∃ u key n, exec (.jobAccept cluster) s = .next u ∧ n < 8 ∧
       fits ((q.lastCore + 1 + n) % 8) ∧ (∀ m, m < n → ¬fits ((q.lastCore + 1 + m) % 8)) ∧
       key ∈ competing s (cluster * 8 + (q.lastCore + 1 + n) % 8) ∧ u.force = some key ∧
       u.tasks = tabMod key (fun t => { t with jobGrant := true }) s.tasks ∧
       u.hub = s.hub ∧ u.mem = s.mem ∧ u.cores = s.cores ∧ u.clock = s.clock) ∧
     (64 ≤ q.jobs.length → exec (.jobAccept cluster) s = .next s) ∧
     (∀ engine, engine < 2 →
       let waits := fun (j : EngineJob) => j ∈ q.jobs ∧ j.copy = decide (engine = 1) ∧ j.phase = .queued
       engineOpen q (decide (engine = 1)) = true → (∃ j, waits j) →
       ∃ u j before after, exec (.engineJobStart cluster engine) s = .next u ∧ waits j ∧
         q.jobs = before ++ j :: after ∧ (∀ k ∈ before, waits k → k.core % 8 ≠ j.core % 8) ∧
         (∀ k, (∃ m, m < 8 ∧ ((q.lastStart[engine]?).getD 7 + 1 + m) % 8 = k.core % 8 ∧
           ∀ m', m' ≤ m → ((q.lastStart[engine]?).getD 7 + 1 + m') % 8 ≠ j.core % 8) → ¬waits k) ∧
         (j.aq = false → u.tasks = s.tasks ∧ u.cores = { s.cores with
           tlb := u.cores.tlb, walkers := u.cores.walkers, l1 := u.cores.l1, l2 := u.cores.l2 }) ∧
         ∃ j', jobAt u cluster j.id = some j' ∧ j'.phase ≠ .queued ∧ j'.started = s.hub.nextId ∧ j'.frame = j.frame ∧
           (let st := if j.copy = true then staticCopy j else staticMxe j
            st.1 ≠ 0 → j'.phase = .running ∧ j'.code = st.1 ∧ j'.detail = st.2 ∧ u.mem = s.mem ∧ u.tasks = s.tasks))) ∧
  (∀ (s : State) (cluster id : Nat) (j : EngineJob), jobAt s cluster id = some j →
     (j.phase = .acquiring → ∃ u, exec (.engineAcquireGranted cluster id) s = .next u ∧
       ∃ j', jobAt u cluster id = some j' ∧ j'.frame = j.frame ∧ match engAcquire s j with
         | .granted s1 e => u.tasks = s1.tasks ∧ j'.phase = .running ∧ j'.held = some e
         | .wait s1 => u.tasks = s1.tasks ∧ j'.phase = .acquiring ∧ u.mem = s1.mem
         | .fail s1 code detail =>
           u.tasks = s1.tasks ∧ j'.phase = .running ∧ j'.code = code ∧ j'.detail = detail ∧ u.mem = s1.mem) ∧
     (∀ s2 k, j.phase = .running → j.copy = true → j.code = 0 → j.cancel = false → j.passed = false → j.rl = false →
       j.rec_ = 0 → metAnew s j = (s, j) → goesUnbound s j = false → sysBytes s j (copyTransfer s j).runs = [] →
       writeRuns j ((copyTransfer s j).runs.drop j.pos) s j.pos = (s2, k, .all) →
       ∃ u, exec (.engineJobComplete cluster id) s = .next u ∧ u.tasks = s2.tasks ∧ u.cores = s2.cores ∧
         (let j' := { j with counts := some (j.counts.getD (0, 0, 0)), pos := k, passed := true }
          u.mem = (convertPending (putJob s2 cluster j') j').mem) ∧
         (tabGet {} cluster u.hub.clusters).jobs = (tabGet {} cluster s2.hub.clusters).jobs.filter (·.id != id)) ∧
     (∀ slot t, taskAt s slot = some t → ∃ u, exec (.jobWaitDone slot) s = .next u ∧
       (t.st = .blkJob → taskAt u slot = some { t with st := .ready } ∧ u.force = some slot ∧ u.hub = s.hub ∧
         u.mem = s.mem ∧ u.cores = s.cores ∧ ∀ k, k ≠ slot → taskAt u k = taskAt s k) ∧
       (t.st ≠ .blkJob → u = s)))

/-- R143 to R146, R325 to R327: what an MXE job computes. Element (m, n) takes the K terms A[m][k] × B[k][n]: elements of
the operands' bytes, little-endian, those of a sparse B placed by the index table, with zeros elsewhere; a table entry with
lo ≥ hi ends the job with SHAPE, a byte that is not authentic with WEIGHT_AUTH. An integer job writes the low 32 bits of the
exact C + Σ A[m][k] × B[k][n]. A floating-point job starts from C in FP32, adds in order, each sum rounded to FP32, the sum of
each 64 terms, or, for a quantised B, of each group with its scale and zero point, and rounds once to the type of C; a chunk
with a NaN, or with infinities of both signs, sums to NaN, one with an infinity to it. The job's transfer writes C in row order,
read once where ACC is set, and counts the elements that overflowed, became NaN or were clamped. -/
def Obligations.MxeJobsCompute : Prop :=
  (∀ (p : MxeShape) (o : MxeOps) (m n : Nat),
     let a := fun (k : Nat) => opElem o.a p.ta.width (m * p.k + k)
     (∀ ts q, mxeTerms p o m n = .ok (ts, q) → ts.length = p.k ∧ ∀ k, k < p.k → ∃ x xp y yp,
       a k = some (x, xp) ∧ bElem p o k n = some (y, yp, true) ∧ ts[k]? = some (x, y) ∧
       (xp = true ∨ yp = true → q = true)) ∧
     ((∀ k, k < p.k → (a k).isSome = true ∧ ∃ y yp, bElem p o k n = some (y, yp, true)) →
       ∃ ts q, mxeTerms p o m n = .ok (ts, q)) ∧
     (∀ k x, p.sparse = false → opElem o.b p.tb.width (k * p.n + n) = some x → bElem p o k n = some (x.1, x.2, true)) ∧
     (∀ k ix v0 v1, p.sparse = true → opElem o.aux 4 (k / 4 * p.n + n) = some ix →
       opElem o.b p.tb.width (2 * (k / 4) * p.n + n) = some v0 →
       opElem o.b p.tb.width ((2 * (k / 4) + 1) * p.n + n) = some v1 →
       let lo := ix.1 % 4
       let hi := ix.1 / 4 % 4
       ∃ pb, bElem p o k n =
         some (if k % 4 = lo then v0.1 else if k % 4 = hi then v1.1 else 0, pb, decide (lo < hi))) ∧
     ∀ ts q, mxeTerms p o m n = .ok (ts, q) →
       let c := if p.acc then (opElem o.c p.tc.width (m * p.n + n)).getD (0, false) else (0, false)
       (p.tc = .i32 →
         let z := sval 32 c.1 + (ts.map (fun t => ival p.ta t.1 * ival p.tb t.2)).sum
         mxeElement p o m n = .done { val := wrapNat 32 z, ovf := decide (z < -(2 ^ 31) ∨ 2 ^ 31 ≤ z) } (q || c.2)) ∧
       (p.tc ≠ .i32 →
         let start := (roundF32 (.ofVal (fdecode (fmtOf p.tc) c.1))).1
         let adds := fun (x y : Nat) => (roundF32 (fadd false (fdecode fp32 x) (fdecode fp32 y))).1
         let written := fun (x : Nat) => (roundTo (fmtOf p.tc) { sat := p.sat } (.ofVal (fdecode fp32 x))).1
         (p.g = 0 → ∃ (acc : Nat → Nat) (r : MxeResult), acc 0 = start ∧
           (∀ i, i < (p.k + 63) / 64 → acc (i + 1) = adds (acc i) (chunkSum (((ts.drop (64 * i)).take 64).map
             (fun t => (fdecode (fmtOf p.ta) t.1, fdecode (fmtOf p.tb) t.2)))).1) ∧
           mxeElement p o m n = .done r (q || c.2) ∧ r.val = written (acc ((p.k + 63) / 64))) ∧
         (p.g ≠ 0 → p.k % p.group = 0 → ∀ sc : Nat → Nat × Bool,
           (∀ i, i < p.k / p.group → opElem o.aux 32 (i * p.n + n) = some (sc i)) →
           ∃ (acc : Nat → Nat) (r : MxeResult) (poi : Bool), acc 0 = start ∧
             (∀ i, i < p.k / p.group → acc (i + 1) = adds (acc i) (quantChunk
               (((ts.drop (p.group * i)).take p.group).map (fun t => (fdecode (fmtOf p.ta) t.1, t.2)))
               (fdecode fp16 ((sc i).1 % 2 ^ 16))
               (if p.zw then (sc i).1 / 2 ^ 16 % 256 else (sc i).1 / 2 ^ 16 % 16)).1) ∧
             mxeElement p o m n = .done r poi ∧ r.val = written (acc (p.k / p.group))))) ∧
  (∀ (l : Array OpByte) (w i : Nat) (bs : List (Byte × Bool)), w = 8 ∨ w = 16 ∨ w = 32 → bs.length = w / 8 →
     (∀ j, j < w / 8 → l[i * (w / 8) + j]? = (bs[j]?).map some) →
     opElem l w i = some (leNat (bs.map (·.1)), bs.any (·.2))) ∧
  (∀ (l : Array OpByte) (i : Nat) (b : Byte × Bool), l[i / 2]? = some (some b) →
     opElem l 4 i = some (if i % 2 = 0 then b.1.toNat % 16 else b.1.toNat / 16, b.2)) ∧
  (∀ ps : List (FVal × FVal),
     let xs := ps.map (fun x => if x.1.isZero = true ∨ x.2.isZero = true then Exact.zero false else fmul x.1 x.2)
     let nan := ∃ v, Exact.nan v ∈ xs
     let pinf := Exact.inf false 0 ∈ xs
     let ninf := Exact.inf true 0 ∈ xs
     (nan ∨ (pinf ∧ ninf) → chunkSum ps = (fp32.nan, false)) ∧
     (¬nan → pinf → ¬ninf → chunkSum ps = (fp32.inf, false)) ∧
     (¬nan → ninf → ¬pinf → chunkSum ps = (fp32.inf + 2 ^ 31, false)) ∧
     ((∀ x ∈ xs, x = Exact.zero false) → chunkSum ps = (0, false))) ∧
  ∀ (s : State) (j : EngineJob) (la lb lc : EngLoc), j.copy = false → locOf j (j.word 0) = some la →
    locOf j (j.word 1) = some lb → locOf j (j.word 2) = some lc →
    (∀ r ∈ engRanges j, r.write = false → rangeUnbound s j r = false) →
    let p := j.shape
    let lx : EngLoc := { space := 0, core := 0, at_ := j.word 5, raw := j.word 5 }
    ∃ o : MxeOps, o.a = (engRead s j { loc := la, off := 0, len := p.aLen, write := false }).toArray ∧
      o.b = (engRead s j { loc := lb, off := 0, len := p.bLen, write := false, port := p.sealed, dec := p.sealed }).toArray ∧
      (p.acc = true → o.c = (engRead s j { loc := lc, off := 0, len := p.cLen, write := false }).toArray) ∧
      (p.auxLen ≠ 0 → o.aux = (engRead s j { loc := lx, off := 0, len := p.auxLen, write := false
                                             port := p.sealed, dec := p.sealed && p.g != 0 }).toArray) ∧
      (∀ rs : Nat → MxeResult × Bool,
        (∀ i, i < p.m * p.n → mxeElement p o (i / p.n) (i % p.n) = .done (rs i).1 (rs i).2) →
        let all := (upTo (p.m * p.n)).map rs
        let x := mxeTransfer s j
        x.code = 0 ∧ x.runs = engRuns s j lc 0 (cBytes p.tc.width all) ∧
        x.counts = (min (all.countP (·.1.ovf)) 0xFFFFFFFF, min (all.countP (·.1.nan)) 0xFFFFFFFF,
          min (all.countP (·.1.sat)) 0xFFFFFFFF)) ∧
      ∀ k code, k < p.m * p.n → (∀ i, i < k → ∃ r q, mxeElement p o (i / p.n) (i % p.n) = .done r q) →
        mxeElement p o (k / p.n) (k % p.n) = .fail code → (mxeTransfer s j).code = code

/-- R84, R123, R210, R318, R319, R329, R330: how a running job of either engine ends at ENGINE_JOB_COMPLETE once its
transfer's writes are made. One without release converts its pending lines; one with rl = 1 performs it on its object, and
marks its lines released, or, where it cannot, ends with the release's code and converts; one whose checks have failed writes
nothing but its record. Then the record is written, where REC is not zero and may be: CODE, ENGINE, JOBID, DETAIL, the
counts, and, last, the STAMP, with st = 1 and CODE OK alone; and the entry leaves the queue. A job that a full log stops
stands in the queue, its code kept. (A job that writes SYS pages logs one entry for them before: its own clauses are
left to the log's statements.) -/
def Obligations.EngineJobsEnd : Prop :=
  (∀ (s : State) (j : EngineJob) (code : Nat) (counts : Nat × Nat × Nat),
     let at_ := fun (n : Nat) => ({ space := 0, core := 0, at_ := j.rec_ + n, raw := j.rec_ } : EngLoc)
     let detail := if code ∈ [3, 4, 5, 7] then j.detail
       else if code = 0 ∧ j.copy = true then j.rows * j.rowBytes else 0
     let cs := if code = 0 then counts else (0, 0, 0)
     let bytes := leBytes 1 code ++ leBytes 1 (if j.copy then 1 else 0) ++ leBytes 2 j.id ++ List.replicate 4 0 ++ leBytes 8 detail ++
       leBytes 4 cs.1 ++ leBytes 4 cs.2.1 ++ leBytes 4 cs.2.2 ++ List.replicate 28 0
     let stamp := leBytes 8 (if j.copy then j.word 7 else j.id)
     let clean := fun (bs : List Byte) => bs.map (fun b => (b, false))
     (j.rec_ = 0 ∨ j.noRecord = true → recRuns s j code counts = []) ∧
     (j.rec_ ≠ 0 → j.noRecord = false → recOk s j = true → (recRange j).any (rangeUnbound s j) = false →
       recRuns s j code counts = engRuns s j (at_ 0) 0 (clean bytes) ++
         (if code = 0 ∧ j.st = true then engRuns s j (at_ 56) 0 (clean stamp) else []))) ∧
  ∀ (s : State) (cluster id : Nat) (j : EngineJob), jobAt s cluster id = some j →
    mayComplete (tabGet {} cluster s.hub.clusters) j = true → j.pos = 0 → j.recPos = 0 → j.cancel = false → j.passed = false →
    j.released = false → j.hwerr = false →
    let i := Instr.engineJobComplete cluster id
    let ends := fun (s1 : State) (j1 : EngineJob) (code : Nat) (counts : Nat × Nat × Nat) =>
      (∀ s2 k, writeRuns j1 (recRuns s1 j1 code counts) s1 0 = (s2, k, .all) → happens i s fun u =>
        u = { s2 with hub := { s2.hub with
          clusters := tabPut {} cluster (leaveQueue (tabGet {} cluster s2.hub.clusters) j1) s2.hub.clusters } } ∧
        ∀ x ∈ (tabGet {} cluster u.hub.clusters).jobs, x.id ≠ id) ∧
      (∀ s2 k, writeRuns j1 (recRuns s1 j1 code counts) s1 0 = (s2, k, .stalled) → happens i s fun u =>
        u = putJob s2 cluster { j1 with code := code, marked := [], recPos := k })
    (j.code = 0 → metAnew s j = (s, j) → goesUnbound s j = false →
      let x := if j.copy then copyTransfer s j else mxeTransfer s j
      let counts := j.counts.getD x.counts
      ∀ s2 k, x.code = 0 → sysBytes s j (x.runs ++ recRuns s j (endCode s j 0) counts) = [] →
        writeRuns j x.runs s 0 = (s2, k, .all) →
        let j1 := { j with counts := some counts, pos := k, passed := true }
        let s3 := putJob s2 cluster j1
        (j.rl = false → ends (convertPending s3 j1) j1 0 counts) ∧
        (j.rl = true →
          (∀ s4 d, engRelease s3 j1 = .done s4 0 d →
            let j2 := { j1 with released := true }
            ends (releaseMarks (putJob s4 cluster j2) j2) j2 0 counts) ∧
          (∀ s4 code d, code ≠ 0 → engRelease s3 j1 = .done s4 code d →
            ends (convertPending s4 { j1 with detail := d }) { j1 with detail := d } code counts) ∧
          (∀ s4, engRelease s3 j1 = .stall s4 → happens i s fun u => u = s4))) ∧
    (j.code ≠ 0 →
      let s0 := if j.code = 8 ∨ j.code = 1 then { s with free := s.free + 1 } else s
      let counts := j.counts.getD (0, 0, 0)
      sysBytes s0 j (recRuns s0 j j.code counts) = [] →
        let j1 := { j with counts := some counts, passed := true }
        let s3 := putJob s0 cluster j1
        ends (convertPending s3 j1) j1 j.code counts ∧
        (j.rec_ = 0 ∨ j.noRecord = true → j.marked = [] → happens i s fun u => u.mem = s.mem ∧ u.tasks = s.tasks))

/-! ### Messages and work from device code (R333 to R339) -/

/-- R42, R60, R333: `send` with a valid handle, once its release conditions hold and the network interface has room, hands
over a USER message with the frame's HANDLER and its first SIZE payload bytes, and writes STAMP to s[d]; to another domain
or a UALink endpoint it first appends its IRREVOCABLE entry. A bad handle or a quarantined core raises PERM, a poisoned
frame register POISON_CONSUMED, and a fifth message is held. R334: `recv`, in a RESIDENT kernel's task at depth 0 and
outside cleanup, takes the oldest message that no older waiter is to take: STAMP to s[d], the head, HANDLER and payload to
the frame, and the message leaves the inbox. With none queued, `try` writes zeros and `wait` passes the slot to BLK_RECV;
either way the run of the message taken before has ended (R221). Elsewhere it raises ILLEGAL_INSTR. That a message to a
UALink endpoint leaves at once, one of four that the interface holds at most, is the model's reading (log entries 50 and
52), and the latency of `recv` its choice (log entry 93). -/
def Obligations.MessageInstructionsExecute : Prop :=
  (∀ (f : FmtJ) (s : State) (t : Task) (d : Domain), canRun (.send f) s t → domOf s t.asid = some d → t.retry = [] →
     (f.rl = true → quiet s t = true) →
     let r := srcRegs s t
     let h := (getS r f.f.toNat).toNat
     let ix := h % 65536
     let e := tabGet {} ix s.hub.endpoints
     let clean := ∀ n, n < 8 → poiS r (f.f.toNat + n) = false
     let valid := (∃ g ∈ d.endpoints, g.index = ix ∧ g.rev = h / 65536 % 65536 ∧ g.tag.toNat = h / 2 ^ 32) ∧
       e.valid = true ∧ e.rev = h / 65536 % 65536
     let isMessage := fun (m : Msg) => m.kind = .user ∧ m.sender = s.cur / 16 ∧ m.size = f.imm.toNat ∧ m.stamp = s.clock ∧
       m.handler = getS r (f.f.toNat + 1) ∧ m.core = e.core ∧ m.asid = e.asid ∧ m.ref = ix ∧ m.source = t.id.gtid ∧
       ∀ n, n < 48 → m.payload.extractLsb' (8 * n) 8 =
         if n < f.imm.toNat then (getS r (f.f.toNat + 2 + n / 8)).extractLsb' (8 * (n % 8)) 8 else 0
     let takes := fun (u : State) => ∃ t', curTask u = some t' ∧ t' = { wentBy s t with regs := t'.regs, pend := t'.pend } ∧
       setsScalar t.regs t'.regs f.d.toNat (BitVec.ofNat 64 s.clock) false
     (clean → valid → e.ualink = none → coreLive s.hub.pkg e.core = true → heldByNi s (s.cur / 16) < 4 → e.asid = t.asid →
       completes (.send f) s fun u => takes u ∧ othersStand s u ∧ u.mem = s.mem ∧ u.cores = s.cores ∧
         ∃ m, isMessage m ∧ u.hub = { s.hub with
           msgs := tabSet s.hub.nextId m s.hub.msgs, nextId := s.hub.nextId + 1 }) ∧
     (∀ s1, clean → valid → effectAhead s t.asid = false → logReserve s t.asid 1 = .ok s1 →
       let m1 := (logAppend s1 t.asid [irrevocableEntry t.wtag.toNat 0 t.id.gtid (ownIcount s t) 2 h]).1
       (e.ualink = none → coreLive s.hub.pkg e.core = true → heldByNi s (s.cur / 16) < 4 → e.asid ≠ t.asid →
         completes (.send f) s fun u => takes u ∧ othersStand s u ∧ u.mem = m1.mem ∧
           ∃ m, isMessage m ∧ u.hub.msgs = tabSet s.hub.nextId m s.hub.msgs) ∧
       (∀ n, e.ualink = some n → heldByNi s (s.cur / 16) < 4 → completes (.send f) s fun u => takes u ∧ othersStand s u ∧ u.mem = m1.mem ∧
         u.hub.msgs = s.hub.msgs ∧ ∃ m, isMessage m ∧ u.hub.linkOut = (n, msgBytes m) :: s.hub.linkOut)) ∧
     (¬clean → raises (.send f) s .poisonConsumed) ∧
     (clean → ¬valid → raises (.send f) s .perm) ∧
     (clean → valid → e.ualink = none → coreLive s.hub.pkg e.core = false → raises (.send f) s .perm) ∧
     (clean → valid → e.ualink ≠ none ∨ coreLive s.hub.pkg e.core = true → 4 ≤ heldByNi s (s.cur / 16) →
       heldBack (.send f) s)) ∧
  (∀ (f : FmtJ) (s : State) (t : Task), canRun (.recv f) s t →
     let core := s.cur / 16
     let mine := (userMsgs s core t.asid)[olderRecv s t]?
     let may := t.resident = true ∧ t.depth = 0 ∧ t.clean = false
     let writes := fun (u : State) (stamp head handler payload : Nat) => ∃ t', curTask u = some t' ∧
       t'.pc = pcOn s t ∧ t'.icount = t.icount + 1 ∧ t'.fs = t.fs ∧ t'.st = t.st ∧
       (∀ n, getS t'.regs n = if n = 0 then 0 else if n = f.d.toNat then BitVec.ofNat 64 stamp
         else if n = f.f.toNat then BitVec.ofNat 64 head else if n = f.f.toNat + 1 then BitVec.ofNat 64 handler
         else if f.f.toNat + 2 ≤ n ∧ n < f.f.toNat + 8 then BitVec.ofNat 64 (payload / 2 ^ (64 * (n - (f.f.toNat + 2))))
         else getS t.regs n) ∧
       (∀ n, poiS t'.regs n = if n = f.d.toNat ∨ (f.f.toNat ≤ n ∧ n < f.f.toNat + 8) then false else poiS t.regs n) ∧
       t'.regs.v = t.regs.v ∧ t'.regs.m = t.regs.m
     (may → ∀ m, mine = some m → completes (.recv f) s fun u => othersStand s u ∧ u.mem = s.mem ∧
       writes u m.stamp (msgHead m) m.handler.toNat m.payload.toNat ∧
       (∀ c, tabGet [] c u.cores.inbox =
         if c = core then (tabGet [] c s.cores.inbox).filter (fun x => x.order != m.order) else tabGet [] c s.cores.inbox)) ∧
     (may → mine = none → f.fn = 1 → completes (.recv f) s fun u => othersStand s u ∧ u.mem = s.mem ∧ u.cores = s.cores ∧
       u.hub = (acctRun s t).hub ∧ writes u 0 0 0 0) ∧
     (may → mine = none → f.fn ≠ 1 → blocksIn (.recv f) s t .blkRecv fun u => u.mem = s.mem ∧ u.cores = s.cores) ∧
     (¬may → raises (.recv f) s .illegalInstr))

/-- R57, R68, R335, R336: `launch` and `graph`, once the task's accesses are performed and fewer than 256 launches and
graphs wait to start, hand over the launch of the record at s[f], with the domain's next serial, or the graph at s[f] and
s[f+1]; `launch` writes the GTID of task 0. Otherwise they are held; a poisoned address raises POISON_CONSUMED. That work a
task hands over in another domain is external is the model's reading (log entry 14), and the latency of `launch` its choice
(log entry 93). -/
def Obligations.LaunchAndGraphExecute : Prop :=
  ∀ (f : FmtJ) (s : State) (t : Task) (d : Domain), domOf s t.asid = some d →
    let r := srcRegs s t
    let free := quiet s t = true ∧ deviceWaiting s t.asid < 256
    let id := s.hub.nextId
    (canRun (.launch f) s t →
      (poiS r f.f.toNat = false → free → completes (.launch f) s fun u => ∃ t', hubAndTask s u t' ∧
        u.hub.launches = tabSet id { asid := t.asid, serial := d.serial, record := (getS r f.f.toNat).toNat
                                     external := decide (t.home ≠ t.asid), device := true } s.hub.launches ∧
        domOf u t.asid = some { d with serial := (d.serial + 1) % 2 ^ 22 } ∧
        t' = { wentBy s t with regs := t'.regs, pend := t'.pend } ∧
        setsScalar t.regs t'.regs f.d.toNat (BitVec.ofNat 64 (t.asid * 2 ^ 54 + d.serial * 2 ^ 32)) false) ∧
      (poiS r f.f.toNat = false → ¬free → heldBack (.launch f) s) ∧
      (poiS r f.f.toNat = true → raises (.launch f) s .poisonConsumed)) ∧
    (canRun (.graph f) s t →
      let clean := poiS r f.f.toNat = false ∧ poiS r (f.f.toNat + 1) = false
      (clean → free → completes (.graph f) s fun u => hubAndTask s u (wentBy s t) ∧
        u.hub = { s.hub with
          walkers := tabSet id { asid := t.asid, first := (getS r f.f.toNat).toNat
                                 block := (getS r (f.f.toNat + 1)).toNat, snap := f.fn == 1, device := true
                                 external := decide (t.home ≠ t.asid) } s.hub.walkers
          nextId := id + 1 }) ∧
      (clean → ¬free → heldBack (.graph f) s) ∧
      (¬clean → raises (.graph f) s .poisonConsumed))

/-- R67, R337, R338: `ccnt` writes bytes 0 to 7 of its counter; `wait` does so once STATUS is not 0 and until then arms a
monitor and passes its slot to BLK_MON. `cancel` writes 1 and cancels the level of the current domain whose counter, of
STATUS 0, lies at s[f], or writes 0 and changes nothing. R31, R108, R178, R189, R339: `hnote` of a vector granted to the
domain counts one event on it, once the task's SYS stores are issued, after its IRREVOCABLE HNOTE entry; vector 0 or one not
granted raises PERM. That `hnote` itself waits for those stores is log entry 52, and which of several levels sharing a
counter is cancelled, or of one not yet started, log entries 84 and 89; the latency of `cancel` is log entry 93. -/
def Obligations.CountersAndHnoteExecute : Prop :=
  (∀ (f : FmtJ) (s s1 : State) (t : Task) (e : Elem) (owner va pa : Nat) (l : Leaf) (win : Bool),
     let r := srcRegs s t
     let m1 := if f.fn = 0 then s1.mem else memSeen s1 s.cur
     let w := physNat m1 pa 8
     let reads := fun (u : State) => othersStand s u ∧ u.mem = s1.mem ∧ ∃ t', curTask u = some t' ∧ t'.pc = pcOn s t ∧
       t'.mon = none ∧ setsScalar t.regs t'.regs f.d.toNat (BitVec.ofNat 64 w) (poisonAt m1.poison pa 8)
     (∀ v, canRun (.ccnt f) s t → f.fn ≠ 0 → t.waitVal = some v → v.pc = ownPc s t → v.depth = t.depth →
       waitHolds 4 v.val 0 = true → completes (.ccnt f) s fun u => ∃ t', onlyTask s u t' ∧
         t' = { wentBy s t with regs := t'.regs, pend := t'.pend, waitVal := none } ∧
         setsScalar t.regs t'.regs f.d.toNat (BitVec.ofNat 64 v.val) v.poi) ∧
     (canRun (.ccnt f) s t → f.fn ≠ 0 → t.waitVal = none → t.mon = none → slicesOff s → l.sys = true →
       placedAs s t (counterFmt f) (counterReq r f 16 (scalarDests f.d.toNat false)) counterFindings s1
         [(e, .mem owner va pa l win)] → lineOwed s [(e, .mem owner va pa l win)] = false →
       unboundWindow s.hub.pkg pa = false → readsLink (.ccnt f) s pa) ∧
     (canRun (.ccnt f) s t → t.waitVal = none → t.mon = none → t.raised = none → slicesOff s → l.sys = false →
       placedAs s t (counterFmt f) (counterReq r f 16 (scalarDests f.d.toNat false)) counterFindings s1
         [(e, .mem owner va pa l win)] →
       (f.fn ≠ 0 → lineOwed s [(e, .mem owner va pa l win)] = false ∧ unboundWindow s.hub.pkg pa = false) →
       (f.fn = 0 ∨ w / 2 ^ 32 ≠ 0 → completes (.ccnt f) s reads) ∧
       (f.fn ≠ 0 → w / 2 ^ 32 = 0 → blocksIn (.ccnt f) s t .blkMon fun u => u.mem = s1.mem ∧
         ∃ t' m, curTask u = some t' ∧ t'.mon = some m ∧ m.owner = owner ∧ m.va = va ∧ m.pa = pa ∧ m.size = 8 ∧ m.cond = 4)) ∧
     (canRun (.cancel f) s t →
       placedAs s t (counterFmt f) (counterReq r f 1 []) (fun _ => []) s1 [(e, .mem owner va pa l win)] →
       lineOwed s [(e, .mem owner va pa l win)] = false → unboundWindow s.hub.pkg pa = false →
       let level := owner = t.asid ∧ counterStatus s1 t.asid va = 0 ∧ ((∃ x ∈ s1.hub.launches, x.2.asid = t.asid ∧ x.2.started = true ∧ x.2.counter = va) ∨
         (∃ x ∈ s1.hub.walkers, x.2.asid = t.asid ∧ x.2.arms ≠ 0 ∧ x.2.counter = va) ∨
         (∃ x ∈ s1.hub.jobs, x.2.asid = t.asid ∧ x.2.usable = true ∧ x.2.counter = va))
       let writes := fun (a u : State) (v : Word) => ∃ t' c, curTask u = some t' ∧ t'.pc = pcOn s t ∧
         curTask a = some c ∧ setsScalar c.regs t'.regs f.d.toNat v false
       (level → completes (.cancel f) s fun u => u.mem = (cancelAt s1 t.asid va).1.mem ∧
         u.hub = (cancelAt s1 t.asid va).1.hub ∧ writes (cancelAt s1 t.asid va).1 u 1) ∧
       (¬level → completes (.cancel f) s fun u => u.mem = s1.mem ∧ u.hub = s1.hub ∧ writes s1 u 0))) ∧
  (∀ (f : FmtJ) (s s1 : State) (t : Task) (d : Domain), canRun (.hnote f) s t → domOf s t.asid = some d → t.retry = [] →
     let v := f.imm.toNat
     (v ≠ 0 → v ∈ d.vectors → sysStoresOut s = false → effectAhead s t.asid = false → logReserve s t.asid 1 = .ok s1 →
       completes (.hnote f) s fun u => othersStand s u ∧ curTask u = some (wentBy s t) ∧
         u.mem = (logAppend s1 t.asid [irrevocableEntry t.wtag.toNat 0 t.id.gtid (ownIcount s t) 3 v]).1.mem ∧
         (∀ n, tabGet {} n u.hub.vecs =
           if n = v then msixEvent (sysOutstanding s) (tabGet {} n s.hub.vecs) else tabGet {} n s.hub.vecs)) ∧
     (v ≠ 0 → v ∈ d.vectors → sysStoresOut s = true → heldBack (.hnote f) s) ∧
     (v = 0 ∨ v ∉ d.vectors → raises (.hnote f) s .perm))

/-! ### Gates and fault service (R149 to R168, R176 to R181, R340 to R342) -/

/-- R151, R153 to R157, R160: `gcall` of a valid handle whose windows fit, with a seal block free and room in the logs, enters
the adit's publisher one depth up: the frame and the seal block are written, the markers of a LOGGED adit appended, the callee
sees the windows' registers and zero elsewhere, and the slot is IN_CALL while registers move, for 40 + 2V
cycles (R160 says about; log entry 51). -/
def Obligations.GateCallEnters : Prop :=
  ∀ (f : FmtG) (s s1 s3 : State) (t : Task) (ix sealVa : Nat) (a : Adit) (win : Option MemWin),
    let r := srcRegs s t
    let h := getS r f.h.toNat
    let k := t.depth + 1
    let pub := a.publisher
    let winOwner := fun (w : MemWin) => domAtDepth s t w.depth
    let needs := (if a.rewindOk then [] else [t.asid]) ++
      (if a.logged then pub :: (match win with | some w => if natBit w.perm 1 then [winOwner w] else [] | none => [])
       else [])
    let s2 := if a.rewindOk then s1
      else (logAppend s1 t.asid [irrevocableEntry t.wtag.toNat 0 t.id.gtid (ownIcount s t) 4 h.toNat]).1
    canRun (.gcall f) s t → registersOut s t = false → gatePoison r t.vregs f = false → stackPinned s t = none →
    t.handler = false → t.clean = false → t.depth ≠ 8 → handleAdit s t.asid h = some (ix, a) → windowOf s a t r f = some win →
    windowsFit a t f = true → (a.reentrant = true ∨ aditOnStack s t ix = false) →
    (replaying s pub = false ∨ t.asid = pub) → (a.rewindOk = true ∨ effectAhead s t.asid = false) →
    sealTake s t.asid ≠ none → (∀ va x, sealTake s t.asid = some (va, x) →
      pinnedFault s t.home (frameVa s t k) 256 = none ∧ pinnedFault s t.asid va 34112 = none) →
    withLogs s t needs Eff.ok = .ok s1 → sealTake s2 t.asid = some (sealVa, s3) →
    completes (.gcall f) s fun u =>
      let marker := aditEntry t.wtag.toNat a.entry.toNat t.id.gtid k ix
      let c := if a.logged then logAppend (counted s3) pub [marker] else (counted s3, 0)
      let w := match win with
        | some w => if a.logged && natBit w.perm 1 then logAppend c.1 (winOwner w) [marker] else (c.1, 0)
        | none => (c.1, 0)
      let fr : Frame :=
        { caller := t.asid, depth := k, logged := a.logged, rewindOk := a.rewindOk, reentrant := a.reentrant, adit := ix
          rev := a.rev, retPc := nextPc s t, fs := t.fs, srs := t.srs, budget := BitVec.ofNat 64 (min t.budget (2 ^ 64 - 1))
          vw := f.vw.toNat, vn := f.vn.toNat, sw := f.sw.toNat, sn := f.sn.toNat, st := f.st.toNat, mw := f.mw.toNat
          mwBase := (win.map (·.base)).getD 0, mwLen := (win.map (·.len)).getD 0, mwPerm := (win.map (·.perm)).getD 0
          sealVa := sealVa, markC := c.2, markW := w.2, acqBits := acqMap t.acq (fun _ => true)
          wdep := (win.map (·.depth)).getD 0, wv := win.isSome }
      u.mem = (writeSeal (writeFrame w.1 t k fr) t.asid sealVa
        (zeroWindow r f.vw.toNat f.vn.toNat f.sw.toNat f.sn.toNat) t.vregs).mem ∧
      u.clock = s.clock ∧ (∀ n, n ≠ s.cur → taskAt u n = taskAt s n) ∧
      ∃ t', curTask u = some t' ∧ t'.asid = pub ∧ t'.depth = k ∧ t'.pc = a.entry ∧ t'.entryCheck = true ∧ t'.fs = 0 ∧
        t'.srs = BitVec.ofNat 64 (seedSR (t.id.gtid.toNat ^^^ (k * 2 ^ 32))) ∧ t'.st = .inCall ∧
        t'.moveUntil = s.clock + 40 + 2 * t.vregs ∧ t'.icount = t.icount + 1 ∧ t'.home = t.home ∧ t'.acq = t.acq ∧
        (∀ n, getV t'.regs n = if n < f.vn.toNat then getV r (f.vw.toNat + n) else 0) ∧
        (∀ n, getS t'.regs n = if 1 ≤ n ∧ n ≤ f.sn.toNat then getS r (f.sw.toNat + (n - 1)) else 0) ∧
        (∀ n, n ≠ 0 → getM t'.regs n = 0)

/-- R157, R158: a `gcall` that fails pushes nothing and writes its status word to s[st]: DEPTH at depth 8, with the adit
active and not REENTRANT or no seal block free; BAD_HANDLE; WINDOW. A poisoned register raises POISON_CONSUMED, handler mode
and cleanup GATE_STATE, and registers in flight hold it. The hold for registers in flight is the model's reading (log entry
51). -/
def Obligations.GateCallFails : Prop :=
  ∀ (f : FmtG) (s : State) (t : Task), canRun (.gcall f) s t →
    let r := srcRegs s t
    let adit := handleAdit s t.asid (getS r f.h.toNat)
    let fails := fun (code : Nat) => completes (.gcall f) s fun u =>
      scalarDone s t u f.st.toNat (BitVec.ofNat 64 (code + 256 * t.depth)) false 1
    let clear := registersOut s t = false
    let clean := gatePoison r t.vregs f = false
    let may := t.handler = false ∧ t.clean = false
    (¬clear → heldBack (.gcall f) s) ∧
    (clear → ¬clean → raises (.gcall f) s .poisonConsumed) ∧
    (clear → clean → ¬may → raises (.gcall f) s .gateState) ∧
    (clear → clean → may → t.depth = 8 → fails 5) ∧
    (clear → clean → may → t.depth ≠ 8 → adit = none → fails 4) ∧
    (∀ ix a, clear → clean → may → t.depth ≠ 8 → adit = some (ix, a) → stackPinned s t = none →
      (windowOf s a t r f = none ∨ windowsFit a t f = false → fails 6) ∧
      (windowOf s a t r f ≠ none → windowsFit a t f = true →
        (a.reentrant = false ∧ aditOnStack s t ix = true) ∨ sealTake s t.asid = none → fails 5))

/-- R159, R160: `gret` with nothing pending, no engine job at its depth, clean windows and no acquire entry returns to the
caller: its registers from the seal block, the windows copied back, its flags, S and depth, PC the frame's RETPC, and the
status word OK in s[st]. At depth 0, in handler mode or in cleanup, or with an acquire entry, it raises GATE_STATE. R164,
R168, R340: `gdone` in cleanup ends it, with outcome DONE, or FAULT from its handler; in handler mode at depth 1 or more it
abandons the trapped activation with the frame's cause, waiting in IN_CALL for its engine jobs and for every access the task
has issued (R350; log entry 88); anywhere else it raises GATE_STATE. R341: `dinfo` writes to s[st] the DOM_CREATE flags, eight bytes
of the credential hash or of the measurement of the task's domain, or what s[h] names: 0 for an invalid handle, else bit 63,
PUBLISHER and the adit's LOGGED, REWIND_OK and REENTRANT. That the move takes 40 + 2V cycles exactly and that `gret` waits
for registers in flight are log entry 51. -/
def Obligations.GateReturnDoneAndInfoExecute : Prop :=
  (∀ (f : FmtG) (s : State) (t : Task), canRun (.gret f) s t →
     let may := t.depth ≠ 0 ∧ t.handler = false ∧ t.clean = false
     let k := t.depth
     let fr := readFrame s t k
     let sr := readSeal s fr.caller fr.sealVa t.vregs
     let clear := registersOut s t = false ∧ jobsInFlight s t.id.gtid k = false
     let clean := (∀ n, n < fr.vn → poiV (srcRegs s t) n = 0) ∧ (∀ n, n < fr.sn → poiS (srcRegs s t) (n + 1) = false)
     (¬may → raises (.gret f) s .gateState) ∧
     (may → ¬clear → heldBack (.gret f) s) ∧
     let mapped := pinnedFault s t.home (frameVa s t k) 256 = none
     (may → clear → mapped → ¬clean → raises (.gret f) s .poisonConsumed) ∧
     (may → clear → mapped → clean → (∃ e ∈ t.acq, e.depth = k) → raises (.gret f) s .gateState) ∧
     (may → clear → mapped → clean → (∀ e ∈ t.acq, e.depth ≠ k) →
       pinnedFault s fr.caller fr.sealVa 34112 = none → completes (.gret f) s fun u =>
         u.clock = s.clock ∧ (∀ n, n ≠ s.cur → taskAt u n = taskAt s n) ∧
         u.mem = (writeFrame (sealFree (counted s) fr.caller fr.sealVa) t k { fr with wv := false, wdep := 0 }).mem ∧
         ∃ t', curTask u = some t' ∧ t'.asid = fr.caller ∧ t'.depth = k - 1 ∧ t'.pc = fr.retPc ∧ t'.fs = fr.fs ∧
           t'.srs = fr.srs ∧ t'.st = .inCall ∧ t'.moveUntil = s.clock + 40 + 2 * t.vregs ∧ t'.icount = t.icount + 1 ∧
           (∀ n, getV t'.regs n = if fr.vw ≤ n ∧ n < fr.vw + fr.vn then getV t.regs (n - fr.vw) else getV sr n) ∧
           (∀ n, getS t'.regs n = if n = 0 then 0 else if n = fr.st then BitVec.ofNat 64 (256 * k)
             else if fr.sw ≤ n ∧ n < fr.sw + fr.sn then getS t.regs (n - fr.sw + 1) else getS sr n) ∧
           (∀ n, getM t'.regs n = getM sr n))) ∧
  (∀ (f : FmtG) (s : State) (t : Task), canRun (.gdone f) s t →
     let ended := fun (u : State) (outcome : Nat) => u = withResult (endCleanup (counted s) s.cur outcome) .retired
     (t.clean = true → t.handler = false → completes (.gdone f) s fun u => ended u 1) ∧
     (t.clean = true → t.handler = true → completes (.gdone f) s fun u => ended u 3) ∧
     (t.clean = false → t.handler = true → 0 < t.depth → pinnedFault s t.asid (trapFrameVa s t.asid s.cur) 256 = none →
       let cause := vreadNat s t.asid (trapFrameVa s t.asid s.cur + 24) 8 % 256
       completes (.gdone f) s fun u =>
         u = withResult (beginAbort (counted s) s.cur { j := t.depth, why := 3, cause := cause }) .retired ∧
         (depthsBusy s s.cur t.id.gtid t.depth = true → onlyTask s u { t with
           icount := t.icount + 1, abort := some { j := t.depth, why := 3, cause := cause, ran := t.asid }, st := .inCall
           mon := none, feWait := none, waitSince := 0, waitVal := none, raised := none, pairSrc := none
           handler := false, wantsJob := false, jobGrant := false, moveUntil := s.clock })) ∧
     (t.clean = false → t.handler = false ∨ t.depth = 0 → raises (.gdone f) s .gateState)) ∧
  (∀ (f : FmtG) (s : State) (t : Task) (d : Domain), canRun (.dinfo f) s t → domOf s t.asid = some d →
     let n := f.imm.toNat
     let out := fun (v : Word) => completes (.dinfo f) s fun u => scalarDone s t u f.st.toNat v false 1
     (n = 0 → out d.flags) ∧
     (1 ≤ n ∧ n ≤ 4 → out (d.cred.extractLsb' (64 * (n - 1)) 64)) ∧
     (6 ≤ n ∧ n ≤ 9 → out (d.meas.extractLsb' (64 * (n - 6)) 64)) ∧
     (n = 5 → poiS (srcRegs s t) f.h.toNat = true → raises (.dinfo f) s .poisonConsumed) ∧
     (n = 5 → poiS (srcRegs s t) f.h.toNat = false → match handleAdit s t.asid (getS (srcRegs s t) f.h.toNat) with
       | none => out 0
       | some (_, a) => out (BitVec.ofNat 64 (2 ^ 63 + a.publisher + (if a.logged then 2 ^ 16 else 0)
           + (if a.rewindOk then 2 ^ 17 else 0) + (if a.reentrant then 2 ^ 18 else 0)))))

/-- R179, R342: `rtake` claims the oldest QUEUED entry of the domain's ring, in index order from its next one, and writes
its address to s[d]; with none it writes 0 and changes nothing. R166, R180, R181, R342: `rcmpl` and `rfail` of an address
that is no entry of the domain's ring write BAD (4), of a VOID entry VOID (1), of one that is not CLAIMED BAD, and change
nothing else. On a CLAIMED entry with its victim, `rcmpl.supply` of a load writes the entry's data to the victim's
destination, frees the entry and writes DONE (0), of another operation BAD; `rcmpl` of an entry whose page still faults, or
lies behind an unbound window (R90; log entry 96), writes REFAULT (2), and of a load on a page that needs no check performs it and
writes DONE; `rfail` poisons the
destination, frees the entry, marks a DATA_FAULT and writes DONE. -/
def Obligations.FaultServiceExecutes : Prop :=
  (∀ (f : FmtY) (s : State) (t : Task) (d : Domain), canRun (.rtake f) s t → domOf s t.asid = some d →
     let n := ringSize s t.asid
     let queued := fun (i : Nat) => (readRetry s t.asid i).state = 1
     let mapped := fun (k : Nat) => pinnedFault s t.asid (retryVa s t.asid ((d.ringNext + k) % n)) 64 = none
     ((∀ k, k < n → mapped k ∧ ¬queued ((d.ringNext + k) % n)) →
       completes (.rtake f) s fun u => scalarDone s t u f.d.toNat 0 false 1) ∧
     (∀ k, k < n → queued ((d.ringNext + k) % n) → (∀ m, m < k → mapped m ∧ ¬queued ((d.ringNext + m) % n)) →
       let va := retryVa s t.asid ((d.ringNext + k) % n)
       mapped k → pinnedFault s t.asid d.place.ringVa 64 = none → completes (.rtake f) s fun u =>
         u.mem = (setRetryState s t.asid ((d.ringNext + k) % n) 2).mem ∧ u.hub = s.hub ∧ u.cores = s.cores ∧
         othersStand s u ∧ ∃ t', curTask u = some t' ∧ t' = { wentBy s t with regs := t'.regs, pend := t'.pend } ∧
           setsScalar t.regs t'.regs f.d.toNat (BitVec.ofNat 64 va) false)) ∧
  (∀ (f : FmtY) (s : State) (t : Task) (i : Instr), i = .rcmpl f ∨ i = .rfail f → canRun i s t →
     let a := getS (srcRegs s t) f.a.toNat
     let idle := fun (code : Nat) => completes i s fun u =>
       scalarDone s t u f.d.toNat (BitVec.ofNat 64 code) false 1
     (poiS (srcRegs s t) f.a.toNat = true → raises i s .poisonConsumed) ∧
     (poiS (srcRegs s t) f.a.toNat = false →
       (entryIndex s t.asid a.toNat = none → idle 4) ∧
       (∀ n, entryIndex s t.asid a.toNat = some n → pinnedFault s t.asid (retryVa s t.asid n) 64 = none →
         pinnedFault s t.asid (retryDataVa s t.asid n) 1024 = none →
         let e := readRetry s t.asid n
         let ends := fun (s1 : State) (code : Nat) => completes i s fun u => u.mem = s1.mem ∧ u.hub = s1.hub ∧
           u.cores = s1.cores ∧ (∀ k, k ≠ s.cur → taskAt u k = taskAt s1 k) ∧ ∃ c t', curTask s1 = some c ∧
           curTask u = some t' ∧ setsScalar c.regs t'.regs f.d.toNat (BitVec.ofNat 64 code) false ∧
           t'.retry = c.retry ∧ t'.dataFaults = c.dataFaults
         (e.state = 3 → idle 1) ∧
         (e.state ≠ 3 → e.state ≠ 2 → idle 4) ∧
         (∀ v ref, e.state = 2 → victimOf s t.asid n e.gtid = some (v, ref) → victimPinned s v ref = none →
           let es := (entryElems s t.asid n e).map (fun x => { x with mpoi := ref.mpoi })
           (i = .rcmpl f → f.fn ≠ 0 → e.op ≠ 1 → idle 4) ∧
           (i = .rcmpl f → f.fn ≠ 0 → e.op = 1 → ref.wait = false →
             ends (closeEntry s v ref (suppliedPieces s t.asid n e ref.mpoi)) 0) ∧
           (i = .rcmpl f → f.fn = 0 → portEnd s t = none → placeEntry s t.asid (entryNeed (entryOp e)) ref.win es = .error .replay → idle 2) ∧
           (∀ ps, i = .rcmpl f → f.fn = 0 → portEnd s t = none → placeEntry s t.asid (entryNeed (entryOp e)) ref.win es = .ok ps →
             (∃ x ∈ ps, ∃ owner va pa l win, x.2 = .mem owner va pa l win ∧ unboundWindow s.hub.pkg pa = true) → idle 2) ∧
           (∀ ps s0 s1 s2, i = .rcmpl f → f.fn = 0 → e.op = 1 → ref.wait = false → portEnd s t = none → heldOut s = false →
             placeEntry s t.asid .load ref.win es = .ok ps → lateFindings s v.task ref e .load ps = (s0, []) →
             s2 = lateTouch s0 v.task e .load ps →
             ownersOf ps = [] ∨ ownersOf ps = [t.asid] →
             (∀ x ∈ ps, ∃ owner va pa l win, x.2 = .mem owner va pa l win ∧ l.cls = .loose ∧ l.sys = false ∧
               unboundWindow s.hub.pkg pa = false) →
             s1 = closeEntry s2 v ref (ps.map (fun x => { roff := x.1.roff, size := x.1.size
                                                          val := (spotRead s2 x).1, poi := (spotRead s2 x).2 || x.1.mpoi })) →
             ends s1 0) ∧
           (i = .rfail f → ends (retryFail s v ref (entryPieces es)
             { cause := .dataFault, addr := ref.used, info := e.pc.toNat, record := entryCopy s t.asid n }) 0)))))

/-! ### Events: what ends a wait (R62, R75, R78, R98, R127, R160, R164, R181, R334) -/

/-- R75, R78, R127, R317, R334: a full-empty waiter whose granules are as it waits for, with no older waiter of its kind on
them; a tabled monitor waiter that has seen its condition; an acquire at its next pass; and the oldest `recv` waiter of a
domain with a message: each returns to READY and issues next. A monitor waiter that has seen nothing stays. R78:
MONITOR_SWEEP returns to READY every swept waiter of its core whose condition has been seen, and touches no task of another
core, no memory, no clock. That a woken slot issues at once, outside the rotation, is log entry 5, and that a pass of `acq`
may come at any moment log entry 41. -/
def Obligations.WaitersAreWoken : Prop :=
  (∀ (s : State) (slot : Nat) (t : Task), taskAt s slot = some t →
     (∀ w, t.st = .blkFe → t.feWait = some w → (∀ g ∈ w.grans, tabGet false g s.cores.full = decide (w.kind ≠ 2)) →
       (w.kind = 0 ∨ ∀ e ∈ s.tasks, e.1 ≠ slot → e.2.waitSince < t.waitSince →
         ∀ x, e.2.feWait = some x → x.kind = w.kind → ∀ g ∈ x.grans, g ∉ w.grans) →
       happens (.feWake slot) s fun u => woken s u slot t) ∧
     (∀ m, t.st = .blkMon → t.mon = some m →
       (m.tabled = true → m.seen ≠ none → happens (.monitorWake slot) s fun u => woken s u slot t) ∧
       (m.seen = none → happens (.monitorWake slot) s fun u => u = s)) ∧
     (t.st = .blkAcq → happens (.acqRetryPass slot) s fun u => woken s u slot t) ∧
     (t.st = .blkRecv → (∃ m ∈ tabGet [] (slot / 16) s.cores.inbox, m.kind = .user ∧ m.asid = t.asid) →
       (∀ e ∈ s.tasks, e.1 ≠ slot → e.1 / 16 = slot / 16 → e.2.st = .blkRecv → e.2.asid = t.asid →
         t.waitSince ≤ e.2.waitSince) → happens (.recvWake slot) s fun u => woken s u slot t)) ∧
  (∀ (s : State) (core : Nat), happens (.monitorSweep core) s fun u => u = { s with tasks := u.tasks } ∧
     (∀ k, k / 16 ≠ core → taskAt u k = taskAt s k) ∧
     ∀ k t m, k / 16 = core → taskAt s k = some t → t.st = .blkMon → t.mon = some m → m.tabled = false → m.seen ≠ none →
       ∃ t', taskAt u k = some t' ∧ t'.st = .ready ∧ t'.pc = t.pc ∧ t'.regs = t.regs)

/-- R62, R76, R98, R160, R164, R181: a marked fault makes its victim issue next, out of a blocked state too, but not in
handler mode; the end of a register move makes its slot READY, or takes the pre-emption that came meanwhile; an exhausted
reserve abandons the cleanup with outcome RESERVE_OUT; a requested code line arrives as memory holds it; an invalidation
leaves no translation, code line, fetch buffer or unsatisfied monitor of its range. R36, R80, R188, R189: MEMORY_ACCESS_COMPLETE
performs, with room in the owners' logs, what the access left for its host link, writes its destination, poisoned where the
completion of a block is, and closes it; a load of one part reads its bytes as they stand and changes no byte; parts that have
failed, or lie behind an unbound window (R90), no completion reaches. HOST_ACCESS_ERROR and HOST_ACCESS_TIMEOUT turn the parts
in the blocks they name that a host backs into retry entries, as far as the ring has FREE entries; the parts left without one
wait, the others go on, and the access closes when none is left; while an older access of the task to the line is
outstanding, they change nothing. What the events carry, and that they come at any moment, are the model's log entries 4, 5, 39
and 72. -/
def Obligations.StopsAndCompletionsHappen : Prop :=
  (∀ (s : State),
     (∀ slot t, taskAt s slot = some t →
       (t.dataFaults ≠ [] → t.handler = false → t.st = .ready → happens (.dataFaultDelivery slot) s fun u =>
         u = { s with force := some slot }) ∧
       (t.dataFaults ≠ [] → t.handler = false → t.st ∈ [.blkJob, .blkMon, .blkFe, .blkAcq, .blkRecv] →
         (t.st = .blkMon → ∀ m, t.mon = some m → m.seen = none) → happens (.dataFaultDelivery slot) s fun u =>
           woken s u slot { t with mon := none, feWait := none, waitSince := 0 }) ∧
       (t.handler = true → happens (.dataFaultDelivery slot) s fun u => u = s) ∧
       (t.st = .inCall → t.moveUntil ≤ s.clock → t.abort = none →
         (t.preempt = 0 → happens (.gateMoveDone slot) s fun u => oneTask s u slot { t with st := .ready }) ∧
         (t.preempt ≠ 0 → ¬(t.preempt = 0x20 ∧ t.cancelled = true) → happens (.gateMoveDone slot) s fun u =>
           oneTask s u slot { t with st := .preempting })) ∧
       (s.clock < t.moveUntil → happens (.gateMoveDone slot) s fun u => u = s) ∧
       (t.clean = true → t.reserve = 0 → t.st = .ready → happens (.cleanupReserveOut slot) s fun u =>
         u = endCleanup s slot 2)) ∧
     (∀ l : LineFill, (l.core, l.asid, l.line) ∈ s.cores.filling → happens (.icacheFill l) s fun u =>
       u.tasks = s.tasks ∧ u.clock = s.clock ∧
       (slicesOff s → ((∀ pa lf, xlatFetch s l.core l.asid l.line ≠ .ok pa lf) → u.mem = s.mem) ∧ u.cores = { s.cores with
         filling := u.cores.filling, icache := u.cores.icache, tlb := u.cores.tlb, walkers := u.cores.walkers
         l2 := u.cores.l2 } ∧
         (∀ pa lf, xlatFetch s l.core l.asid l.line = .ok pa lf → u.mem = (lineIn s l.asid pa).mem)) ∧
       (l.core, l.asid, l.line) ∉ u.cores.filling ∧
       (∀ pa lf, xlatFetch s l.core l.asid l.line = .ok pa lf → ∃ x, icLookup u l.core l.asid l.line = some x ∧
         x.data = BitVec.ofNat 512 (physNat (lineIn s l.asid pa).mem pa 64)) ∧
       ((∀ pa lf, xlatFetch s l.core l.asid l.line ≠ .ok pa lf) → u.cores.icache = s.cores.icache)) ∧
     (∀ r : VaRange, rangeBusy s r = false → happens (.translationInvalidate r) s fun u =>
       u.mem = s.mem ∧ u.hub = s.hub ∧ u.clock = s.clock ∧
       (∀ core va, r.lo ≤ va → va < r.hi → tlbHit u core r.asid va = none) ∧
       (∀ core line, line < r.hi → r.lo < line + 64 → icLookup u core r.asid line = none) ∧
       (∀ k t a b, taskAt u k = some t → t.asid = r.asid → t.fbuf = some (a, b) → ¬(a < r.hi ∧ r.lo < a + 64)) ∧
       (∀ k t m, taskAt u k = some t → t.mon = some m → m.owner = r.asid → m.va < r.hi → r.lo < m.va + m.size →
         m.seen ≠ none))) ∧
  (∀ (s : State) (id : Nat) (a : Access) (t : Task), tabFind id s.hub.accesses = some a → taskAt s a.slot = some t →
     let info : LateInfo := { wtag := a.wtag.toNat, gtid := a.gtid, icount := a.icount }
     let ps := partsPlaced a
     let others := fun (u : State) => (∀ k, k ≠ a.slot → taskAt u k = taskAt s k) ∧ u.clock = s.clock
     let closed := fun (u : State) => tabFind id u.hub.accesses = none ∧
       ∀ k, k ≠ id → tabFind k u.hub.accesses = tabFind k s.hub.accesses
     let due := owedBefore s id a = false ∧ ∀ q ∈ a.parts, partFailed s q = false
     let bad := fun (mask : Nat) (x : Elem × Spot) => match x.2 with
       | .mem _ _ pa _ _ => (namedBlocks a mask).contains (pa / 64)
       | _ => false
     (∀ m s1, m.id = id → id < 2 ^ 40 → m.crcBad = 0 → due → arrivalRoom info a.op ps a.pc (ownersOf ps) s = .ok s1 →
       happens (.memoryAccessComplete m) s fun u => others u ∧ closed u ∧
         u.mem = (performLate s1 info a.op ps).1.mem ∧
         ∃ t', taskAt u a.slot = some t' ∧ t' = { t with regs := t'.regs, arriving := t'.arriving } ∧
           (a.dests ≠ [] → (performLate s1 info a.op ps).2 ≠ [] → t'.regs = deliverRegs t.regs a.dests false
             (((performLate s1 info a.op ps).2.zip ps).map (fun x => { x.1 with poi := x.1.poi || bad m.poisoned x.2 }))) ∧
           ∀ k, id ∉ tabGet [] k t'.arriving ∨ k ∉ a.dests) ∧
     (∀ m q k, m.id = id → id < 2 ^ 40 → m.crcBad = 0 → due → a.op = .load → a.parts = [q] → a.dests = [k] → k < 64 → k ≠ 0 →
       happens (.memoryAccessComplete m) s fun u => others u ∧ closed u ∧ u.mem = s.mem ∧
         ∃ t', taskAt u a.slot = some t' ∧ getS t'.regs k =
           BitVec.ofNat 64 (putBytes (getS t.regs k).toNat q.roff q.size (physNat s.mem q.pa q.size)) ∧
           ∀ n, n ≠ k → getS t'.regs n = getS t.regs n) ∧
     (∀ m, m.id = id → id < 2 ^ 40 → (∀ q ∈ a.parts, partFailed s q = true) → a.parts ≠ [] → a.covers = [] →
       happens (.memoryAccessComplete m) s fun u => u = s) ∧
     (∀ blocks, ∀ i ∈ [Instr.hostAccessError ⟨id, blocks⟩, .hostAccessTimeout ⟨id, blocks⟩],
       let v : Victim :=
         { key := a.slot, gtid := a.gtid, pc := a.pc, op := a.op, ord := a.ord, sc := a.sc, dests := a.dests
           depth := a.depth, plain := a.plain, icount := a.icount }
       let gone := a.parts.filter (fun q => q.failed
         || (hostBacked s.hub.pkg q.pa && (namedBlocks a blocks).contains (q.pa / 64)))
       let fails := partFaults s { a with parts := gone }
       id < 2 ^ 40 → (gone = [] → happens i s fun u => u = s) ∧
       (owedBefore s id { a with parts := gone } = true → happens i s fun u => u = s) ∧
       (∀ s1 rest, gone ≠ [] → owedBefore s id { a with parts := gone } = false →
         retryAppendSome v fails s = (s1, rest, none) → happens i s fun u => others u ∧ u.mem = s1.mem ∧
           (let left := a.parts.filterMap (fun q => if q ∉ gone then some q
              else if rest.any (fun r => r.elems.any (fun e => e.ix == q.ix)) then some { q with failed := true } else none)
            if left = [] ∧ a.covers = [] then closed u
            else tabFind id u.hub.accesses = some { a with parts := left }) ∧
           ∃ t1 t', taskAt s1 a.slot = some t1 ∧ taskAt u a.slot = some t' ∧
             t' = { t1 with arriving := t'.arriving } ∧ t1.retry.length + rest.length = t.retry.length + fails.length)))

/-! ### Events: launches and tasks (R43, R53 to R66) -/

/-- R28, R53 to R58, R189, R191, R194, R195: LAUNCH_START of an accepted launch (a launch instruction's, or a host's, an item
of a job that waits for the items before it) whose records are clean and pass every check starts it, from the record as it
stands, the failed checks of what it reads counted (R37, R46): an external one first appends its EXT_LAUNCH entry to the log, where a replay that has a recorded effect before it
stops and a stall leaves the launch waiting; the launch stands with its partition; an automatic bench that is due opens; its
counter is written with REMAINING the task count and STATUS 0; one accepted under a cancelled job is cancelled at once. One
whose check fails is written faulted in its usable counter, is gone, the supervisor reads LAUNCH_FAULT with the lowest code,
and its job counts a faulted item (that poison counts as READ is the model's choice, log entry 14). R58 to R60, R65:
DISPATCH_TASK_START sends, when no RESUME comes before it, the next task of the launch of highest
priority, first in start order, that has a core; DISPATCH_RESUME sends the RESUME of highest priority when no higher task
start can go; whether a dispatcher counts the task messages on their way to a core among its slots is left to the event (log
entry 34). MESSAGE_ARRIVAL puts a message in its core's inbox, discards it when its HANDLER does not translate as
executable, or leaves it held while its class has no entry free; those of one dispatcher to one core come in order, as the
model deduces from R345 (log entry 34). -/
def Obligations.LaunchesAndMessagesTravel : Prop :=
  (∀ (s : State) (id : Nat) (l : Launch) (d : Domain), launchAt s id = some l → domOf s l.asid = some d →
     l.started = false →
     let sr := launchReads s id
     let rb := cleanRead sr l.asid l.record 128
     let rec_ := rb.map LaunchRec.ofBytes
     let kb := rec_.bind (fun r => cleanRead sr l.asid r.kmeta 32)
     let i := Instr.launchStart id
     let ahead := itemAhead s l.parent id
     let begins := fun (s0 : State) (r : LaunchRec) (k : List Byte) => { s0 with hub := { s0.hub with
       nextId := s0.hub.nextId + 1
       launches := tabMod id (fun l => launchFrom s0 d l r (KMeta.ofBytes k) s0.hub.nextId) s0.hub.launches } }
     let counted := fun (s3 : State) (r : LaunchRec) =>
       let s4 := counterWrite s3 l.asid r.counter (r.grid.foldl (· * ·) 1) 0
       if l.cancelled then cancelLaunch s4 false id else s4
     let own := match l.parent with | .graph g => some g | _ => none
     let entry := irrevocableEntry 0 0 (BitVec.ofNat 64 (l.asid * 2 ^ 54 + l.serial * 2 ^ 32)) 0 5 l.record
     let isGraph := match l.parent with | .graph _ => true | _ => false
     (ahead = true → happens i s fun u => u = s) ∧
     (∀ r k, rec_ = some r → kb = some k → launchFaults sr d l rb kb = [] → ahead = false →
       (∀ s0, (l.external = false ∧ s0 = sr) ∨ (l.external = true ∧
           (effectAhead sr l.asid = false ∨ isGraph = true ∨ l.recorded = true) ∧
           ∃ s1, logReserve sr l.asid 1 = .ok s1 ∧ s0 = (logAppend s1 l.asid [entry]).1) →
         (autoBenchDue (begins s0 r k) l.asid own = false → happens i s fun u => u = counted (begins s0 r k) r) ∧
         (autoBenchDue (begins s0 r k) l.asid own = true → (readLog (begins s0 r k) l.asid).state ≠ 2 →
           let n := (readLog (begins s0 r k) l.asid).curBench + 1
           ∀ s2, logReserve (begins s0 r k) l.asid 1 = .ok s2 →
             (∀ s3 list nt, takeSnapshot s2 l.asid n = (.done s3 list, nt) →
               happens i s fun u => u = counted (openBench s3 l.asid 0 n nt list 0 0) r) ∧
             (∀ nt, takeSnapshot s2 l.asid n = (.noRoom, nt) → happens i s fun u => u = s))) ∧
       (l.external = true → effectAhead sr l.asid = true → isGraph = false → l.recorded = false →
         happens i s fun u => u = replayHalt s l.asid 6) ∧
       (l.external = true → effectAhead sr l.asid = false → logReserve sr l.asid 1 = .stall → happens i s fun u => u = s)) ∧
     (∀ code rest, launchFaults sr d l rb kb = code :: rest → ahead = false → happens i s fun u =>
       u = parentDone (failLaunch sr id l (rec_.map (·.counter)) code) l.parent true false) ∧
     (l.parent = .none →
     (∀ r k, rec_ = some r → kb = some k → launchFaults sr d l rb kb = [] → l.external = false → l.cancelled = false →
       natBit d.flags.toNat 2 = false → happens (.launchStart id) s fun u =>
         u = { s with mem := u.mem, hub := u.hub } ∧
         u.mem = (counterWrite sr l.asid r.counter (r.grid.foldl (· * ·) 1) 0).mem ∧
         launchAt u id = some (launchFrom sr d l r (KMeta.ofBytes k) sr.hub.nextId) ∧
         ∀ n, n ≠ id → launchAt u n = launchAt s n) ∧
     (∀ code rest, launchFaults sr d l rb kb = code :: rest → happens (.launchStart id) s fun u =>
       launchAt u id = none ∧ (∀ n, n ≠ id → launchAt u n = launchAt s n) ∧ u.tasks = s.tasks ∧ u.cores = s.cores ∧
       (s.hub.faultLog.length < 4096 → u.hub.faultLog = s.hub.faultLog ++
         [({ kind := 2, code := code, asid := l.asid, addr := l.record } : Notice).bits]) ∧
       u.mem = match rec_ with
         | some r => if counterUsable sr l.asid r.counter then (counterWrite sr l.asid r.counter 0 3).mem else s.mem
         | none => s.mem))) ∧
  (∀ (s : State),
     let id := s.hub.nextId
     (∀ die counted, let cs := startChoices s counted die
       cs ≠ [] → (∀ r ∈ resumeChoices s counted die, ∀ c ∈ cs, r.2.1.task.priority < c.launch.priority) →
       happens (.dispatchTaskStart ⟨die, counted⟩) s fun u => ∃ c ∈ cs,
         (∀ c' ∈ cs, c'.launch.priority < c.launch.priority ∨
           (c'.launch.priority = c.launch.priority ∧ c.launch.order ≤ c'.launch.order)) ∧
         u.hub.msgs = tabSet id { startMsg s die c with order := id } s.hub.msgs ∧ u.tasks = s.tasks ∧ u.mem = s.mem ∧
         (∀ l, launchAt s c.id = some l → l.redo = [] →
           launchAt u c.id = some { l with next := l.next.set die (c.index + 1) })) ∧
     (∀ die counted, let rs := resumeChoices s counted die
       rs ≠ [] → (∀ r ∈ rs, ∀ c ∈ startChoices s counted die, c.launch.priority ≤ r.2.1.task.priority) →
       happens (.dispatchResume ⟨die, counted⟩) s fun u => ∃ r ∈ rs,
         (∀ r' ∈ rs, r'.2.1.task.priority ≤ r.2.1.task.priority) ∧
         u.hub.msgs = tabSet id { resumeMsg s die r.1 r.2.1 r.2.2 with order := id } s.hub.msgs ∧ u.tasks = s.tasks ∧
         u.mem = s.mem ∧ ∀ v, tabFind r.1 s.hub.saved = some v → tabFind r.1 u.hub.saved = some { v with sent := true }) ∧
     (∀ n m, tabFind n s.hub.msgs = some m → sentBefore s n m = false →
       (discarded s m = true → happens (.messageArrival n) s fun u =>
         u = { s with hub := { s.hub with msgs := tabDel n s.hub.msgs }, cores := { s.cores with discarded := u.cores.discarded } } ∧
         tabGet 0 m.core u.cores.discarded = tabGet 0 m.core s.cores.discarded + 1) ∧
       (discarded s m = false → inboxRoom s m = true → happens (.messageArrival n) s fun u =>
         u.hub.msgs = tabDel n s.hub.msgs ∧ u.tasks = s.tasks ∧ u.mem = s.mem ∧
         ∀ c, tabGet [] c u.cores.inbox = tabGet [] c s.cores.inbox ++
           (if c = m.core then [{ m with arrived := s.clock, order := id, fromCore := none }] else [])) ∧
       (discarded s m = false → inboxRoom s m = false → happens (.messageArrival n) s fun u => u = s)))

/-- R61, R65, R73, R206: TASK_ADMIT of a TASK_START places a fresh task in the berth found: its identity, ENTRY, zero
registers, the seed of S, its budget, the tag of the slot's admission count, its scratchpad window zeroed, clean, empty at
every granule and owned by its domain. TASK_ADMIT of a RESUME restores the task from its save area, with the budget loaded anew after an expiry.
(READY at once, log entry 53.) R43, R53, R62, R64 to R66: BUDGET_EXPIRY pre-empts a task whose count has reached zero, or
ends a cancelled one; TIME_SLICE_END pre-empts the domain's tasks on the clusters it shares with the next one and clears
their L1s (the whole of them: log entry 17); PREEMPT_SAVE, with the task's jobs and accesses done, writes the save area,
keeps the task for RESUME and frees the slot; TASK_FINISH frees the slot of an ended task, and its launch counts it; the
last task of a launch ends it: its STATUS is faulted where a task ended by fault, else cancelled where it was cancelled,
else done, it is gone, and its job or graph learns of it. That the hub's own count ends a launch is log entry 92. -/
def Obligations.TasksComeAndGo : Prop :=
  (∀ (s : State) (core : Nat) (skipped : List Nat) (m : Msg) (b : Berth),
     let prio := fun (m : Msg) => match msgTask s m with | some (p, _, _) => p | none => 0
     let ms := ((inboxAt s core).filter (fun m => (msgTask s m).isSome)).foldl (fun a m => insertMsg prio m a) []
     let ix := natBits m.payload.toNat 0 32
     pickMsg s core ms [] = some (skipped, m, b) →
     (∀ l, m.kind = .taskStart → launchAt s m.ref = some l → happens (.taskAdmit core) s fun u =>
       u.mem = s.mem ∧ (∀ k, k ≠ b.key → taskAt u k = taskAt s k) ∧
       (∀ x ∈ tabGet [] core u.cores.inbox, x.order ≠ m.order) ∧
       (∃ t, taskAt u b.key = some t ∧ t.id = identOf l ix ∧ t.pc = l.entry ∧ t.regs = {} ∧ t.fs = 0 ∧ t.st = .ready ∧
         t.srs = BitVec.ofNat 64 (seedSR (identOf l ix).gtid.toNat) ∧ t.budget = l.budget ∧ t.vregs = l.vregs ∧
         t.scratch = l.scratch ∧ t.asid = l.asid ∧ t.home = l.asid ∧ t.depth = 0 ∧ t.icount = 0 ∧ t.acq = [] ∧
         t.priority = l.priority ∧ t.vbase = b.vbase ∧ t.sbase = b.sbase ∧ t.launch = m.ref ∧
         t.wtag = taskTag (b.key / 16) (b.key % 16) (tabGet 0 b.key s.cores.admissions)) ∧
       tabGet 0 b.key u.cores.admissions = (tabGet 0 b.key s.cores.admissions + 1) % 256 ∧
       (∀ n, n < l.scratch → tabGet 0 (b.key / 16 * 262144 + b.sbase + n) u.cores.spad = 0 ∧
         tabGet false (b.key / 16 * 16384 + (b.sbase + n) / 16) u.cores.full = false ∧
         tabGet false (b.key / 16 * 16384 + (b.sbase + n) / 16) u.cores.spadPoi = false ∧
         tabGet 0 (b.key / 16 * 64 + b.sbase / 4096 + n / 4096) u.cores.owner = l.asid + 1)) ∧
     (∀ v, m.kind = .resume → tabFind m.ref s.hub.saved = some v → v.task.marks = [] →
       let s0 := acctTaken s m
       let saved := loadTask (readArea s0 v.area v.addr v.task) v.task
       pinnedFault s0 v.area v.addr (saveBody v.task) = none →
       (saved.handler = true → pinnedFault s0 v.task.asid (trapFrameVa s0 v.task.asid b.key) 256 = none) →
       happens (.taskAdmit core) s fun u =>
         (∀ k, k ≠ b.key → taskAt u k = taskAt s k) ∧ tabFind m.ref u.hub.saved = none ∧
         ∃ t, taskAt u b.key = some t ∧ t.id = v.task.id ∧ t.regs = saved.regs ∧ t.pc = saved.pc ∧ t.fs = saved.fs ∧
           t.srs = saved.srs ∧ t.acq = saved.acq ∧ t.icount = saved.icount ∧ t.wtag = saved.wtag ∧ t.st = .ready ∧
           t.depth = v.task.depth ∧ t.asid = v.task.asid ∧ t.retry = v.task.retry ∧ t.sbase = b.sbase ∧
           t.budget = if v.cause = 0x20 then v.task.reload else saved.budget)) ∧
  (∀ (s : State) (slot : Nat) (t : Task), taskAt s slot = some t →
     let live := t.st ≠ .ended ∧ t.st ≠ .preempting
     let done := accessesOf s slot = [] ∧ jobsInFlight s t.id.gtid 0 = false
     (t.clean = false → t.budget = 0 → live → t.cancelled = true → t.st ≠ .inCall → happens (.budgetExpiry slot) s fun u =>
       u.mem = s.mem ∧ (∀ k, k ≠ slot → taskAt u k = taskAt s k) ∧
       ∃ t', taskAt u slot = some t' ∧ t'.st = .ended ∧ t'.acq = [] ∧ t'.faulted = t.faulted ∧ t'.regs = t.regs) ∧
     (t.clean = false → t.budget = 0 → t.st = .ready → t.cancelled = false → t.preempt = 0 →
       happens (.budgetExpiry slot) s fun u => oneTask s u slot (preempted t 0x20)) ∧
     (t.budget ≠ 0 → happens (.budgetExpiry slot) s fun u => u = s) ∧
     (∀ next d n, domOf s t.home = some d → domOf s next = some n → d.timesliced = true → n.timesliced = true →
       t.home ≠ next → let c := slot / 16 / 8
       c ∈ d.allot → c ∈ n.allot → c ∉ d.evicted → happens (.timeSliceEnd t.home next) s fun u =>
         u.mem = s.mem ∧ u.clock = s.clock ∧ (∀ k, (taskAt u k).isSome = (taskAt s k).isSome) ∧
         (t.st = .ready → t.preempt = 0 → ∃ t', taskAt u slot = some t' ∧ t'.st = .preempting ∧ t'.preempt = 0x21 ∧
           t'.regs = t.regs ∧ t'.budget = t.budget) ∧
         (∃ d', domOf u t.home = some d' ∧ c ∈ d'.evicted) ∧ (∃ n', domOf u next = some n' ∧ c ∉ n'.evicted) ∧
         ∀ i, i < 512 → tabGet [] (slot / 16 * 512 + i) u.cores.l1 = []) ∧
     (t.st = .preempting → done →
       (∀ s1 va, saveTask s slot t t.preempt = .done s1 va → happens (.preemptSave slot) s fun u =>
         u.mem = s1.mem ∧ taskAt u slot = none ∧ (∀ k, k ≠ slot → taskAt u k = taskAt s k) ∧
         ∃ id v, tabFind id u.hub.saved = some v ∧ v.addr = va ∧ v.area = t.asid ∧ v.cause = t.preempt ∧
           v.withheld = t.withhold ∧ v.die = slot / 16 / 320 ∧ v.task.id = t.id ∧ v.task.depth = t.depth) ∧
       (saveTask s slot t t.preempt = .noRoom → happens (.preemptSave slot) s fun u => u = s)) ∧
     (t.st = .ended → t.retry = [] → done → ∀ l, launchAt s t.launch = some l → 1 < l.left →
       let s1 := releaseSlot (acctRun (freeSeals s t) t) slot t
       happens (.taskFinish slot) s fun u => taskAt u slot = none ∧ (∀ k, k ≠ slot → taskAt u k = taskAt s k) ∧
         u.mem = (counterAdd s1 l.asid l.counter (-1)).mem ∧
         launchAt u t.launch = some { l with left := l.left - 1, faulted := l.faulted || t.faulted }) ∧
     (t.st = .ended → t.retry = [] → done → ∀ l, launchAt s t.launch = some l → l.left = 1 →
       let st := if l.faulted = true ∨ t.faulted = true then 3 else if l.cancelled = true then 2 else 1
       let s1 := releaseSlot (acctRun (freeSeals s t) t) slot t
       let s2 := counterFinal (counterAdd s1 l.asid l.counter (-1)) l.asid l.counter st
       let s3 := { s2 with hub := { s2.hub with launches := tabDel t.launch s2.hub.launches } }
       happens (.taskFinish slot) s fun u => u = parentDone s3 l.parent (st == 3) (st == 2) ∧
         launchAt u t.launch = none ∧ taskAt u slot = none ∧ (∀ k, k ≠ slot → taskAt u k = taskAt s k) ∧
         (l.parent = .none → u.mem = s2.mem) ∧
         ∀ n j, l.parent = .job n → tabFind n s.hub.jobs = some j → 1 < j.left →
           u.mem = (if j.usable then (counterAdd s3 j.asid j.counter (-1)).mem else s2.mem) ∧
           tabFind n u.hub.jobs = some { j with
             left := j.left - 1, faulted := j.faulted || st == 3, cancelled := j.cancelled || st == 2 }))

/-! ### Events: graphs (R52, R68 to R71, R360) -/

/-- R52, R68, R70, R71: GRAPH_ARM of a graph not yet armed writes its counter with REMAINING 1, copies the parameters under
SNAPSHOT, and stands its walker before node 0; a later arm copies again; a bad header faults the graph; one without a usable
counter never starts. GRAPH_WAIT_DONE goes on once the counter's STATUS is not 0, of a halted domain's walker too (R216).
R69, R70, R360: the event of a node's kind carries the node out: LAUNCH accepts and starts its launch under the graph, which
counts one more, and faults the graph where its record does not translate; a launch that fails at start counts as a faulted
part of the graph, whose walker goes on (one whose record reads poisoned fails so with READ); WAIT waits at its counter;
COND goes to TARGET when its comparison holds, arming again for a jump back, and on by one when not; HOST counts one event
on its granted vector; END removes the walker's 1. A node that breaks R69 or does not translate faults the graph whatever
the event, and a sound node of another kind is left to its own event. The split into one event per kind is log entry 10; the
faults of misaligned addresses and of poison, and that the walker of a halted domain ends its WAIT, are log entry 15. That
the hub's own count ends the graph is log entry 92. -/
def Obligations.GraphsRun : Prop :=
  (∀ (s : State) (id : Nat) (w : Walker), walkerAt s id = some w →
     let s0 := counterWrite s w.asid w.block 1 0
     let only := fun (u : State) => u.tasks = s.tasks ∧ u.cores = s.cores ∧ u.clock = s.clock
     (walkerPaused s w.asid = false →
     (∀ h, w.state = .arming → w.arms = 0 → itemAhead s w.parent id = false → w.cancelled = false → counterUsable s w.asid w.block = true →
       readHead s0 w = some h → (∀ s1, armCopy s0 w h = some s1 → happens (.graphArm id) s fun u => only u ∧ u.mem = s1.mem ∧
         walkerAt u id = some { w with
           state := .atNode, arms := 1, counter := w.block, usable := true, left := 1, len := h.len, snapAddr := h.snapAddr })) ∧
     (∀ h s1, w.state = .arming → w.arms ≠ 0 → readHead s w = some h → armCopy s w h = some s1 →
       happens (.graphArm id) s fun u => only u ∧ u.mem = s1.mem ∧
         walkerAt u id = some { w with state := .atNode, arms := w.arms + 1, len := h.len, snapAddr := h.snapAddr }) ∧
     (w.state = .arming → w.arms ≠ 0 → readHead s w = none → 1 < w.left → happens (.graphArm id) s fun u =>
       only u ∧ walkerAt u id = some { w with state := .done, left := w.left - 1, faulted := true }) ∧
     (w.state = .arming → w.arms = 0 → counterUsable s w.asid w.block = false → w.parent = .none →
       happens (.graphArm id) s fun u => only u ∧ u.mem = s.mem ∧ walkerAt u id = none)) ∧
     (∀ va b, running s = true → rewoundStopped s w.asid = false → w.state = .waiting va → cleanRead s w.asid va 16 = some b →
       (recField b 4 4 = 0 → happens (.graphWaitDone id) s fun u => u = s) ∧
       (recField b 4 4 ≠ 0 → w.cancelled = false → happens (.graphWaitDone id) s fun u => only u ∧ u.mem = s.mem ∧
         walkerAt u id = some { w with state := .atNode, pos := w.pos + 1 }))) ∧
  (∀ (s : State) (id : Nat) (w : Walker), walkerAt s id = some w → w.state = .atNode → walkerPaused s w.asid = false →
     let walks := fun (u : State) (w' : Walker) => u = { s with hub := { s.hub with walkers := u.hub.walkers } } ∧
       walkerAt u id = some w' ∧ ∀ n, n ≠ id → walkerAt u n = walkerAt s n
     let kindOf := fun (i : Instr) => if i = .graphNodeLaunch id then 1 else if i = .graphNodeWait id then 2
       else if i = .graphNodeCond id then 3 else if i = .graphNodeHost id then 4 else 5
     let events := [Instr.graphNodeLaunch id, .graphNodeWait id, .graphNodeCond id, .graphNodeHost id, .graphNodeEnd id]
     (readNode s w = none → 1 < w.left → ∀ i ∈ events, happens i s fun u => u.tasks = s.tasks ∧
       u.mem = (if w.usable then (counterAdd s w.asid w.counter (-1)).mem else s.mem) ∧
       walkerAt u id = some { w with state := .done, left := w.left - 1, faulted := true }) ∧
     ∀ nd, readNode s w = some nd →
       (∀ i ∈ events, nd.kind ≠ kindOf i → happens i s fun u => u = s) ∧
       (nd.kind = 1 → nodeAddr s w nd 128 64 = none ∨
           (∃ va, nodeAddr s w nd 128 64 = some va ∧ vread s w.asid va 128 = none) → 1 < w.left →
         happens (.graphNodeLaunch id) s fun u => walkerAt u id =
           some { w with state := .done, left := w.left - 1, faulted := true }) ∧
       (∀ va, nd.kind = 1 → nodeAddr s w nd 128 64 = some va → (vread s w.asid va 128).isSome = true →
         (nd.pa = false → va = nd.addr ∧ va % 64 = 0) ∧
         let i := Instr.graphNodeLaunch id
         let a := acceptLaunch (graphCount (walkTo s id (w.pos + 1)) id true) w.asid va (.graph id) w.external false
         launchAt a.2 a.1 = some { asid := w.asid, serial := (match domOf s w.asid with | some d => d.serial | none => 0)
                                   record := va, parent := .graph id, external := w.external, cancelled := w.cancelled } ∧
         walkerAt a.2 id = some { w with pos := w.pos + 1, left := w.left + 1 } ∧
         (∀ s1, startLaunch a.2 a.1 = .started s1 → happens i s fun u => u = s1) ∧
         (∀ s1, startLaunch a.2 a.1 = .failed s1 true → happens i s fun u => u = parentDone s1 (.graph id) true false) ∧
         (∀ s1 w1, startLaunch a.2 a.1 = .failed s1 false → walkerAt s1 id = some w1 → happens i s fun u =>
           walkerAt u id = some { w1 with left := w1.left - 1, faulted := true } ∧
           u.mem = (counterAdd s1 w1.asid w1.counter (-1)).mem) ∧
         (∀ b, vread a.2 w.asid va 128 = some (b, true) → ∃ s1, startLaunch a.2 a.1 = .failed s1 false)) ∧
       (∀ va, nd.kind = 2 → nodeAddr s w nd 16 16 = some va → (cleanRead s w.asid va 16).isSome →
         happens (.graphNodeWait id) s fun u => walks u { w with state := .waiting va }) ∧
       (∀ va v b, nd.kind = 3 → let n := if nd.width = 1 then 8 else 4
         nodeAddr s w nd n n = some va → condValue s w nd = some v → cleanRead s w.asid va n = some b →
         let x := leNat b
         let y := v % 2 ^ (8 * n)
         let holds := (nd.cmp = 0 ∧ x = y) ∨ (nd.cmp = 1 ∧ x ≠ y) ∨ (nd.cmp = 2 ∧ x < y) ∨ (nd.cmp = 3 ∧ y ≤ x)
         (¬holds → happens (.graphNodeCond id) s fun u => walks u { w with pos := w.pos + 1 }) ∧
         (holds → w.pos < nd.target → happens (.graphNodeCond id) s fun u => walks u { w with pos := nd.target }) ∧
         (holds → nd.target ≤ w.pos → happens (.graphNodeCond id) s fun u =>
           walks u { w with state := .arming, pos := nd.target })) ∧
       (nd.kind = 4 → vectorGranted s w.asid nd.vector = true → happens (.graphNodeHost id) s fun u =>
         u = { s with hub := { s.hub with walkers := u.hub.walkers, vecs := u.hub.vecs } } ∧
         walkerAt u id = some { w with pos := w.pos + 1 } ∧
         (∀ n, tabGet {} n u.hub.vecs =
           if n = nd.vector then msixEvent (sysOutstanding s) (tabGet {} n s.hub.vecs) else tabGet {} n s.hub.vecs)) ∧
       (nd.kind = 5 → w.usable = true → happens (.graphNodeEnd id) s fun u => u.tasks = s.tasks ∧ u.cores = s.cores ∧
         (1 < w.left → u.mem = (counterAdd s w.asid w.counter (-1)).mem ∧
           walkerAt u id = some { w with state := .done, left := w.left - 1 }) ∧
         (w.left = 1 → w.parent = .none → walkerAt u id = none ∧
           u.mem = (counterFinal (counterAdd s w.asid w.counter (-1)) w.asid w.counter
             (if w.faulted then 3 else if w.cancelled then 2 else 1)).mem)))

/-! ### Events: the host interface (R21 to R32) -/

/-- R16, R21 to R24, R28, R31: a register written by the host while READY is 1: a doorbell sets SQ_TAIL of a queue that has
not been ended; EN takes bit 0; SQ_BASE and SQ_LOG2 take a value only while EN is 0; STOPPED is cleared by writing 1;
MSIX_COAL takes THRESH and TIMER; at every other offset of every BAR, and everywhere while READY is 0, a write is dropped. What
the host reads: DEV_ID, PKG_STATUS, SQ_STOPPED, CRC_ERRS, MSIX_COAL, each queue's registers, and zero at an offset not listed
and, PKG_STATUS apart, while READY is 0. R24 to R28, R52, R67: the fetch of a
queue's next record: a failed read stops the queue with FETCH, a record that fails a check with the lowest reason of R27 and
its TAG, one event on vector 0, SQ_HEAD unmoved; a sound record is consumed by the event of its kind and does what R26 says:
NOP nothing; JOB opens a job and writes its counter, or, where that is not usable, tells the supervisor; LAUNCH and GRAPH
hand an item of the open job over, which under a job whose counter is not usable never starts; WAIT stops fetching until its
counter's STATUS is not 0; CANCEL cancels the level. The model's choices: one event per kind of record (log entry 10), the
low bits of SQ_BASE kept as written (11), ERR_TAG 0 after FETCH and dropped writes (80), the level a CANCEL names (84, 89).
-/
def Obligations.QueuesServed : Prop :=
  (∀ (s : State) (k : Nat) (v : Word),
     let q := tabGet {} k s.hub.queues
     let off := k * 4096
     let sets := fun (u : State) (q' : Queue) => u = { s with hub := { s.hub with queues := u.hub.queues } } ∧
       ∀ n, tabGet {} n u.hub.queues = if n = k then q' else tabGet {} n s.hub.queues
     let queueReg := fun (bar at_ : Nat) (rs : List Nat) => bar = 2 ∧ at_ < 0x401000 ∧ at_ % 4096 ∈ rs
     let coal := fun (bar at_ : Nat) => bar = 0 ∧ 0x1000 ≤ at_ ∧ at_ < 0x1800 ∧ at_ % 8 = 0
     (s.hub.pkg.ready = false →
       (∀ i ∈ [Instr.sqTailWrite k v.toNat, .sqStoppedClear k], happens i s fun u => u = s) ∧
       ∀ bar at_, (happens (.registerWrite ⟨bar, at_, v⟩) s fun u => u = s) ∧
         (¬(bar = 0 ∧ at_ = 8) → readReg s bar at_ = 0)) ∧
     (s.hub.pkg.ready = true →
       (q.err ≠ 8 → happens (.sqTailWrite k v.toNat) s fun u => sets u { q with tail := v.toNat % 2 ^ 32 }) ∧
       (q.err = 8 → happens (.sqTailWrite k v.toNat) s fun u => u = s) ∧
       (happens (.sqStoppedClear k) s fun u => sets u { q with stopped := false }) ∧
       (k ≤ 1024 → happens (.registerWrite ⟨2, off, v⟩) s fun u => sets u (if q.en then q else { q with base := v })) ∧
       (k ≤ 1024 → happens (.registerWrite ⟨2, off + 8, v⟩) s fun u =>
         sets u (if q.en then q else { q with log2 := v.toNat % 16 })) ∧
       (k ≤ 1024 → q.err ≠ 8 → happens (.registerWrite ⟨2, off + 16, v⟩) s fun u =>
         sets u { q with tail := v.toNat % 2 ^ 32 }) ∧
       (k ≤ 1024 → q.err = 8 → happens (.registerWrite ⟨2, off + 16, v⟩) s fun u => u = s) ∧
       (k ≤ 1024 → happens (.registerWrite ⟨2, off + 32, v⟩) s fun u => sets u { q with
         en := v.getLsbD 0, stopped := if v.getLsbD 1 then false else q.stopped }) ∧
       (k < 256 → happens (.registerWrite ⟨0, 4096 + 8 * k, v⟩) s fun u =>
         u = { s with hub := { s.hub with vecs := u.hub.vecs } } ∧ ∀ n, tabGet {} n u.hub.vecs =
           if n = k then { tabGet {} k s.hub.vecs with thresh := v.toNat % 65536, timer := v.toNat / 2 ^ 32 % 65536 }
           else tabGet {} n s.hub.vecs) ∧
       (∀ bar at_, ¬coal bar at_ → ¬queueReg bar at_ [0, 8, 16, 32] →
         happens (.registerWrite ⟨bar, at_, v⟩) s fun u => u = s) ∧
       (∀ bar at_, ¬coal bar at_ → ¬queueReg bar at_ [0, 8, 16, 24, 32, 40] →
         ¬(bar = 0 ∧ (at_ ∈ [0, 8, 0x200] ∨ (0x100 ≤ at_ ∧ at_ < 0x180 ∧ at_ % 8 = 0))) → readReg s bar at_ = 0) ∧
       (k < 16 → ∀ i, i < 64 → (readReg s 0 (0x100 + 8 * k)).getLsbD i = (tabGet {} (64 * k + i) s.hub.queues).stopped) ∧
       readReg s 0 0x200 = BitVec.ofNat 64 s.hub.crcErrs ∧
       (k < 256 → let x := tabGet {} k s.hub.vecs
         readReg s 0 (4096 + 8 * k) = BitVec.ofNat 64 (x.thresh % 65536 + 65536 * x.pend + 2 ^ 32 * (x.timer % 65536))) ∧
       readReg s 0 0 = BitVec.ofNat 64 (2 ^ 16 * 0x0705 + 2 ^ 8 * Config.step.toNat + 1) ∧
       (k ≤ 1024 → readReg s 2 off = q.base ∧ readReg s 2 (off + 8) = BitVec.ofNat 64 q.log2 ∧ readReg s 2 (off + 16) = BitVec.ofNat 64 q.tail ∧
         readReg s 2 (off + 24) = BitVec.ofNat 64 q.head ∧
         readReg s 2 (off + 32) = BitVec.ofNat 64 ((if q.en then 1 else 0) + if q.stopped then 2 else 0) ∧
         readReg s 2 (off + 40) = BitVec.ofNat 64 (q.err + 256 * q.errTag))) ∧
     readReg s 0 8 = pkgStatus s.hub.pkg) ∧
  (∀ (s : State) (f : RecordFetch), running s = true → f.asid < 1024 → liveDom s f.asid = true →
     let q := queueAt s f.asid
     q.fetches = true →
     let events := [Instr.sqNopRecord f, .sqJobRecord f, .sqLaunchRecord f, .sqGraphRecord f, .sqWaitRecord f,
       .sqCancelRecord f]
     let stops := fun (u : State) (err tag : Nat) => u.mem = s.mem ∧ u.tasks = s.tasks ∧
       queueAt u f.asid = { q with stopped := true, err := err, errTag := tag % 2 ^ 24 } ∧
       tabGet {} 0 u.hub.vecs = msixEvent (sysOutstanding s) (tabGet {} 0 s.hub.vecs)
     let gone := { q with head := (q.head + 1) % q.size }
     (f.readOk = false ∨ recordBytes s q = none → ∀ i ∈ events, happens i s fun u => stops u 7 0) ∧
     ∀ b, f.readOk = true → recordBytes s q = some b →
       let r := SqRecord.ofBytes b
       let e := recordError s f.asid q r
       let item := fun (n : Nat) (id : Nat) => (if n ≤ 1 then none else some (id, n - 1) : Option (Nat × Nat))
       (e ≠ 0 → ∀ i ∈ events, happens i s fun u => stops u e r.tag) ∧
       (e = 0 → r.kind = 0 → happens (.sqNopRecord f) s fun u => u = consume s f.asid ∧ queueAt u f.asid = gone) ∧
       (e = 0 → r.kind = 1 → counterUsable s f.asid r.addrA = true → happens (.sqJobRecord f) s fun u =>
         let id := s.hub.nextId
         u.tasks = s.tasks ∧ u.cores = s.cores ∧ queueAt u f.asid = { gone with openJob := some (id, r.count) } ∧
         u.hub.jobs = tabSet id { asid := f.asid, counter := r.addrA, usable := true, left := r.count
                                  vector := if r.irq then some r.vector else none } s.hub.jobs ∧
         u.mem = (counterWrite s f.asid r.addrA r.count 0).mem) ∧
       (e = 0 → r.kind = 1 → counterUsable s f.asid r.addrA = false → happens (.sqJobRecord f) s fun u =>
         let id := s.hub.nextId
         u.mem = s.mem ∧ u.tasks = s.tasks ∧ queueAt u f.asid = { gone with openJob := some (id, r.count) } ∧
         u.hub.jobs = tabSet id { asid := f.asid, counter := r.addrA, usable := false, left := r.count
                                  vector := if r.irq then some r.vector else none } s.hub.jobs ∧
         (s.hub.faultLog.length < 4096 → u.hub.faultLog = s.hub.faultLog ++
           [({ kind := 2, code := 2, asid := f.asid, addr := r.addrA } : Notice).bits])) ∧
       (∀ id n j, e = 0 → q.openJob = some (id, n) → tabFind id s.hub.jobs = some j → j.usable = false →
         ∀ i ∈ [(2, Instr.sqLaunchRecord f), (3, .sqGraphRecord f)], r.kind = i.1 → happens i.2 s fun u =>
           u.mem = s.mem ∧ u.tasks = s.tasks ∧ queueAt u f.asid = { gone with openJob := item n id } ∧
           u.hub.launches = s.hub.launches ∧ u.hub.walkers = s.hub.walkers ∧
           tabFind id u.hub.jobs = if j.left ≤ 1 then none else some { j with left := j.left - 1, faulted := true }) ∧
       (∀ id n j, e = 0 → q.openJob = some (id, n) → tabFind id s.hub.jobs = some j → j.usable = true →
         (r.kind = 2 → happens (.sqLaunchRecord f) s fun u => u.mem = s.mem ∧ u.tasks = s.tasks ∧
           queueAt u f.asid = { gone with openJob := item n id } ∧ ∃ l, l.asid = f.asid ∧ l.record = r.addrA ∧
           l.parent = .job id ∧ l.external = true ∧ l.started = false ∧ l.cancelled = j.dropped ∧
           (∀ d, domOf s f.asid = some d → l.serial = d.serial) ∧
           u.hub.launches = tabSet s.hub.nextId l s.hub.launches) ∧
         (r.kind = 3 → happens (.sqGraphRecord f) s fun u => u.mem = s.mem ∧ u.tasks = s.tasks ∧
           queueAt u f.asid = { gone with openJob := item n id } ∧ ∃ w, w.asid = f.asid ∧ w.first = r.addrA ∧
           w.block = r.addrB ∧ w.snap = r.snapshot ∧ w.parent = .job id ∧ w.arms = 0 ∧ w.cancelled = j.dropped ∧
           u.hub.walkers = tabSet s.hub.nextId w s.hub.walkers)) ∧
       (e = 0 → r.kind = 4 → happens (.sqWaitRecord f) s fun u => u.mem = s.mem ∧ u.tasks = s.tasks ∧
         queueAt u f.asid = { gone with
           waiting := if counterStatus s f.asid r.addrA = 0 then some r.addrA else none }) ∧
       (e = 0 → r.kind = 5 → happens (.sqCancelRecord f) s fun u =>
         u = (cancelAt (consume s f.asid) f.asid r.addrA).1))

/-- R16, R24, R26, R31, R32: SQ_WAIT_DONE resumes fetching once the counter's STATUS is not 0. MSIX_UNMASK of a vector with
its pending bit set sends its message and clears PEND, and while READY is 0 a write to the table of function 0 is dropped;
MSIX_TIMER_EXPIRY with events pending makes a message due, which a masked vector notes as pending; MSIX_MESSAGE_ISSUED
issues the message being sent once the SYS stores before it are issued, and the next one, when due, is being sent. That a
message waits for every SYS store outstanding, and the rule for unmasking, are log entry 13; that vector 256 is taken while
READY is 0 is log entry 74. -/
def Obligations.WaitsAndInterrupts : Prop :=
  ∀ (s : State) (n : Nat),
    let v := tabGet {} n s.hub.vecs
    let q := queueAt s n
    let sets := fun (u : State) (v' : MsixVec) => u = { s with hub := { s.hub with vecs := u.hub.vecs } } ∧
      ∀ k, tabGet {} k u.hub.vecs = if k = n then v' else tabGet {} k s.hub.vecs
    let begun := { v with pend := 0, running := false, sending := true, dueNext := false, after := sysOutstanding s }
    (∀ va, q.waiting = some va →
      (counterStatus s n va = 0 → happens (.sqWaitDone n) s fun u => u = s) ∧
      (counterStatus s n va ≠ 0 → happens (.sqWaitDone n) s fun u =>
        u = { s with hub := { s.hub with queues := u.hub.queues } } ∧ queueAt u n = { q with waiting := none })) ∧
    let taken := n < 256 → s.hub.pkg.ready = true
    (¬taken → ∀ b, happens (.msixUnmask n b) s fun u => u = s) ∧
    (taken → happens (.msixUnmask n true) s fun u => sets u { v with masked := true }) ∧
    (taken → v.pendingBit = false → happens (.msixUnmask n false) s fun u => sets u { v with masked := false }) ∧
    (taken → v.pendingBit = true → v.sending = true → happens (.msixUnmask n false) s fun u =>
      sets u { v with masked := false, pendingBit := false, dueNext := true }) ∧
    (taken → v.pendingBit = true → v.sending = false → happens (.msixUnmask n false) s fun u =>
      sets u { begun with masked := false, pendingBit := false }) ∧
    (v.running = true → 0 < v.pend → v.masked = true → happens (.msixTimerExpiry n) s fun u =>
      sets u { v with running := false, pendingBit := true }) ∧
    (v.running = true → 0 < v.pend → v.masked = false → v.sending = false → happens (.msixTimerExpiry n) s fun u =>
      sets u begun) ∧
    (v.running = true → 0 < v.pend → v.masked = false → v.sending = true → happens (.msixTimerExpiry n) s fun u =>
      sets u { v with running := false, dueNext := true }) ∧
    (v.pend = 0 ∨ v.running = false → happens (.msixTimerExpiry n) s fun u => sets u v) ∧
    (v.sending = true → (∀ i ∈ v.after, tabFind i s.hub.accesses = none) →
      (v.dueNext = false → happens (.msixMessageIssued n) s fun u =>
        sets u { v with sending := false, sent := v.sent + 1, after := [] }) ∧
      (v.dueNext = true → 0 < v.pend → v.masked = false → happens (.msixMessageIssued n) s fun u =>
        sets u { begun with sent := v.sent + 1 })) ∧
    (v.sending = true → (∃ i ∈ v.after, tabFind i s.hub.accesses ≠ none) → happens (.msixMessageIssued n) s fun u =>
      sets u v)

/-! ### Events: the administrative queue (R38 to R51, R149 to R151) -/

/-- R27, R39, R49: a record whose ring read fails stops the administrative queue with FETCH, one that fails a check with its
reason; a sound one of another kind is left to its own event; and in RETIRED a command below ATTEST answers BAD_STATE. One
event per kind is log entry 10, BAD_STATE before any other status 18, ERR_TAG 0 after FETCH 80. -/
def Obligations.AdminRecordsChecked : Prop :=
  ∀ (s : State) (f : AdminFetch) (pl : DomPlace) (i : Instr) (kind : Nat),
    (i, kind) ∈ [(Instr.domCreate f pl, 0x10), (.domRevoke f, 0x11), (.domKill f, 0x12), (.domDestroy f, 0x13),
      (.aditPublish f, 0x14), (.aditGrant f, 0x15), (.aditRevoke f, 0x16), (.epGrant f, 0x17), (.vecGrant f, 0x18),
      (.setAllot f, 0x19), (.keyImport f, 0x1A), (.attest f, 0x1B), (.getNonce f, 0x1C), (.lifecycle f, 0x1D)] →
    let q := queueAt s admQueue
    running s = true → q.fetches = true →
    let stops := fun (err tag : Nat) => happens i s fun u => u.mem = s.mem ∧ u.tasks = s.tasks ∧
      queueAt u admQueue = { q with stopped := true, err := err, errTag := tag % 2 ^ 24 } ∧
      tabGet {} 0 u.hub.vecs = msixEvent (sysOutstanding s) (tabGet {} 0 s.hub.vecs)
    (f.ringOk = false ∨ recordBytes s q = none → stops 7 0) ∧
    ∀ b, f.ringOk = true → recordBytes s q = some b →
      let r := AdminRecord.ofBytes b
      (r.error ≠ 0 → stops r.error r.tag) ∧
      (r.error = 0 → r.kind ≠ kind → happens i s fun u => u = s) ∧
      (r.error = 0 → r.kind = kind → s.hub.pkg.lifecycle = .retired → kind < 0x1B →
        answers i s r (consume s admQueue) 4 0)

/-- R38, R40, R41: DOM_CREATE makes the domain of the lowest free ASID with its flags and credential, its areas where
placed, and bench 0 in its log. DOM_REVOKE and DOM_KILL end a domain: it is revoked or killed, its adits are not valid, the
revision of every endpoint at which it receives has risen, its queue is disabled with ERR 8, and no message for it is held
on the way. R163: every task that runs in it, or whose depth 0 it is, ends, moves registers in IN_CALL, or runs the cleanup of
another domain; one in PREEMPTING or saved is marked to be unwound at its resume. DOM_DESTROY, of one ended and without
work left, wipes the pages its tables map and the scratchpad units of no task and the MXE keys of its clusters, and frees the
ASID, of a live one it answers BAD_STATE, and it is not complete while work is left. Bad flags are BAD_ARG,
a full device NO_ASID, a credential that does not read FETCH, a target that is not live BAD_DOMAIN. The queue page that
DOM_CREATE resets is log entry 11, the order of the status values 18, the DOM_DESTROY that waits 31. -/
def Obligations.DomainCommands : Prop :=
  ∀ (s : State) (f : AdminFetch) (pl : DomPlace) (r : AdminRecord),
    let s0 := consume s admQueue
    let d := domOf s r.asid
    let stopped := fun (v : State) =>
      (∀ i, (tabGet {} i v.hub.adits).publisher = r.asid → (tabGet {} i v.hub.adits).valid = false) ∧
      (∀ i e, tabFind i s.hub.endpoints = some e → e.valid = true → e.asid = r.asid → e.ualink = none →
        tabFind i v.hub.endpoints = some { e with rev := e.rev % 65535 + 1 }) ∧
      (queueAt v r.asid).en = false ∧ (queueAt v r.asid).err = 8 ∧
      ∀ n m, tabFind n v.hub.msgs = some m → m.kind = .user → m.asid ≠ r.asid
    let unwinds := fun (v : State) (why : Nat) (st : DomState) =>
      (∃ x, domOf v r.asid = some x ∧ x.state = st) ∧
      (∀ k t, taskAt s k = some t → t.asid = r.asid ∨ (t.depth ≠ 0 ∧ t.home = r.asid) → t.st ≠ .ended → t.abort = none →
        ∃ t', taskAt v k = some t' ∧
          (t.st = .preempting → (r.asid, why) ∈ t'.marks) ∧
          (t.st ≠ .preempting → t'.st = .ended ∨ t'.st = .inCall ∨
            (t'.clean = true ∧ t'.abort.isSome = true ∧ t'.asid ≠ r.asid))) ∧
      ∀ id y, tabFind id s.hub.saved = some y → y.task.asid = r.asid ∨ (y.task.depth ≠ 0 ∧ y.task.home = r.asid) →
        ∃ y', tabFind id v.hub.saved = some y' ∧ (r.asid, why) ∈ y'.task.marks
    (offered s f 0x10 r →
      (flagsOk r.argA = false → answers (.domCreate f pl) s r s0 1 0) ∧
      (flagsOk r.argA = true → (∀ a, a < 1024 → domOf s a ≠ none) → answers (.domCreate f pl) s r s0 2 0) ∧
      (∀ a cred, flagsOk r.argA = true → a < 1024 → domOf s a = none → (∀ b, b < a → domOf s b ≠ none) →
        f.argOk = true → hostRead s r.argB 32 = some cred → ∃ s1 s2 x, answers (.domCreate f pl) s r s2 0 a ∧
          s2 = initLog s1 a (r.argA / 128 % 64) (r.argA / 32 % 4) ∧ s1.mem = s.mem ∧ domOf s1 a = some x ∧
          x.state = .live ∧ x.flags = BitVec.ofNat 64 r.argA ∧ x.cred = BitVec.ofNat 256 (leNat cred) ∧ x.place = pl ∧
          x.meas = 0 ∧ x.grants = [] ∧ x.endpoints = [] ∧ x.vectors = [] ∧ x.allot = [] ∧ x.keys = [] ∧ x.serial = 0 ∧
          x.xts.isSome = natBit r.argA 0 ∧ queueAt s1 a = {} ∧ s1.tasks = s.tasks) ∧
      (∀ a, flagsOk r.argA = true → a < 1024 → domOf s a = none → (f.argOk = false ∨ hostRead s r.argB 32 = none) →
        answers (.domCreate f pl) s r s0 6 0)) ∧
    (offered s f 0x11 r →
      (∀ x, d = some x → x.state = .live → let v := endDomain s0 r.asid 1
        answers (.domRevoke f) s r v 0 0 ∧ stopped v ∧ unwinds v 1 .revoked) ∧
      ((∀ x, d = some x → x.state ≠ .live) → answers (.domRevoke f) s r s0 3 0)) ∧
    (offered s f 0x12 r →
      (∀ x, d = some x → x.state ≠ .killed → let v := endDomain s0 r.asid 2
        answers (.domKill f) s r v 0 0 ∧ (x.state = .live → stopped v) ∧ unwinds v 2 .killed) ∧
      (∀ x, d = some x → x.state = .killed → answers (.domKill f) s r s0 0 0) ∧
      (d = none → answers (.domKill f) s r s0 3 0)) ∧
    (offered s f 0x13 r →
      (∀ x, d = some x → x.state ≠ .live → workLeft s r.asid = false →
        let v := destroyDomain s0 r.asid
        answers (.domDestroy f) s r v 0 0 ∧ domOf v r.asid = none ∧
        (∀ l ∈ domPages s r.asid, ∀ a, l.base ≤ a → a < l.base + l.size → tabGet 0 a v.mem.bytes = 0) ∧
        ∀ c, c ∈ x.allot → c ∉ x.evicted → (tabGet {} c v.hub.clusters).keys = [] ∧
          ∀ i n, i < 8 → n < 262144 → tabGet 0 ((8 * c + i) * 64 + n / 4096) s.cores.owner = 0 →
            tabGet 0 ((8 * c + i) * 262144 + n) v.cores.spad = 0) ∧
      (∀ x, d = some x → x.state ≠ .live → workLeft s r.asid = true → happens (.domDestroy f) s fun u => u = s) ∧
      (∀ x, d = some x → x.state = .live → answers (.domDestroy f) s r s0 4 0) ∧
      (d = none → answers (.domDestroy f) s r s0 3 0))

/-- R30, R40, R42, R43, R45, R149 to R151: on a live domain, ADIT_PUBLISH enters a legal image at the lowest free index and
extends the measurement; ADIT_GRANT and EP_GRANT answer a handle and enter its grant, with the tag the device draws;
ADIT_REVOKE invalidates the target's adit, raises its revision and removes every grant of it; VEC_GRANT grants a vector;
SET_ALLOT replaces the allotment, unless another domain's claim refuses it. On another target each answers BAD_DOMAIN. How
revisions go on after 0xFFFF is log entry 16; BAD_ARG of a misaligned or unreadable image and of unlisted bits, and an
endpoint's first revision, are log entry 18. -/
def Obligations.GrantCommands : Prop :=
  ∀ (s : State) (f : AdminFetch) (r : AdminRecord),
    let s0 := consume s admQueue
    (∀ i kind, (i, kind) ∈ [(Instr.domRevoke f, 0x11), (.aditPublish f, 0x14), (.aditGrant f, 0x15), (.aditRevoke f, 0x16),
        (.epGrant f, 0x17), (.vecGrant f, 0x18), (.setAllot f, 0x19), (.keyImport f, 0x1A)] → offered s f kind r →
      (∀ x, domOf s r.asid = some x → x.state ≠ .live) → answers i s r s0 3 0) ∧
    ∀ d, domOf s r.asid = some d → d.state = .live →
      (offered s f 0x14 r →
        (∀ b a i, r.argA % 64 = 0 → cleanRead s r.asid r.argA 64 = some b → aditOf b = (a, false) →
          aditOk s r.asid a = true → i < 4096 → (tabGet {} i s.hub.adits).valid = false →
          (∀ j, j < i → (tabGet {} j s.hub.adits).valid = true) → ∃ s1, answers (.aditPublish f) s r s1 0 i ∧
            s1.mem = s.mem ∧ s1.tasks = s.tasks ∧
            tabGet {} i s1.hub.adits = { a with rev := max (tabGet {} i s.hub.adits).rev 1, valid := true } ∧
            domOf s1 r.asid = some { d with
              meas := Config.shake256 (hashBytes d.meas ++ hashBytes (Config.shake256 b)) }) ∧
        (r.argA % 64 ≠ 0 ∨ cleanRead s r.asid r.argA 64 = none → answers (.aditPublish f) s r s0 1 0)) ∧
      (offered s f 0x15 r → let a := tabGet {} r.argA s.hub.adits
        (r.argA < 4096 → a.valid = true → liveDom s a.publisher = true → d.grants.length < 1024 → ∃ tag s1,
          answers (.aditGrant f) s r s1 0 (r.argA + 2 ^ 16 * a.rev + 2 ^ 32 * tag.toNat) ∧ s1.mem = s.mem ∧
          domOf s1 r.asid = some { d with grants := d.grants ++ [{ index := r.argA, rev := a.rev, tag := tag }] }) ∧
        (4096 ≤ r.argA ∨ a.valid = false → answers (.aditGrant f) s r s0 1 0)) ∧
      (offered s f 0x16 r → let a := tabGet {} r.argA s.hub.adits
        (r.argA < 4096 → a.valid = true → a.publisher = r.asid → ∃ s1, answers (.aditRevoke f) s r s1 0 0 ∧
          tabGet {} r.argA s1.hub.adits = { a with valid := false, rev := a.rev % 65535 + 1 } ∧
          (∀ e ∈ s1.hub.doms, ∀ g ∈ e.2.grants, g.index ≠ r.argA) ∧ s1.mem = s.mem ∧ s1.tasks = s.tasks) ∧
        (4096 ≤ r.argA ∨ a.valid = false ∨ a.publisher ≠ r.asid → answers (.aditRevoke f) s r s0 1 0)) ∧
      (offered s f 0x17 r →
        (∀ w i, wantedEndpoint r.argA = some w → (w.ualink ≠ none ∨ liveDom s w.asid = true) →
          (∀ e ∈ s.hub.endpoints, sameEndpoint e.2 w = false) → i < 4096 →
          (tabGet {} i s.hub.endpoints).valid = false → (∀ j, j < i → (tabGet {} j s.hub.endpoints).valid = true) →
          ∃ tag s1, answers (.epGrant f) s r s1 0 (i + 2 ^ 16 * w.rev + 2 ^ 32 * tag.toNat) ∧ s1.mem = s.mem ∧
            tabGet {} i s1.hub.endpoints = w ∧ domOf s1 r.asid = some { d with
              endpoints := d.endpoints ++ [{ index := i, rev := w.rev, tag := tag }] }) ∧
        (wantedEndpoint r.argA = none → answers (.epGrant f) s r s0 1 0)) ∧
      (offered s f 0x18 r →
        (1 ≤ r.argA → r.argA ≤ 255 → ∃ s1 d', answers (.vecGrant f) s r s1 0 0 ∧ domOf s1 r.asid = some d' ∧
          (∀ v, v ∈ d'.vectors ↔ v ∈ d.vectors ∨ v = r.argA) ∧ d' = { d with vectors := d'.vectors } ∧ s1.mem = s.mem) ∧
        (r.argA = 0 ∨ 255 < r.argA → answers (.vecGrant f) s r s0 1 0)) ∧
      (offered s f 0x19 r →
        let sliced := natBit r.argC 63
        let legal := r.argC / 2 ^ 32 % 256 = 0 ∧ r.argC / 2 ^ 56 % 128 = 0 ∧
          (sliced = true → 100 ≤ r.argC / 2 ^ 40 % 65536) ∧ ∀ c ∈ allotOf r, allotTaken s r.asid sliced c = false
        (legal → ∃ s1 d', answers (.setAllot f) s r s1 0 0 ∧ domOf s1 r.asid = some d' ∧ d'.allot = allotOf r ∧
          d'.timesliced = sliced ∧ d'.sliceUs = r.argC / 2 ^ 40 % 65536 ∧ s1.mem = s.mem) ∧
        (¬legal → answers (.setAllot f) s r s0 1 0))

/-- R44, R45, R47, R49, R50: KEY_IMPORT enters the unwrapped key and its binding in the domain's slot, or answers AUTH,
BAD_ARG or FETCH; ATTEST writes the report of a domain or of the device alone, and its signature, in RETIRED zeros;
GET_NONCE writes a fresh nonce, which a LIFECYCLE command and NONCE_EXPIRY use up; LIFECYCLE of a transition of R49 answers
OK and then resets the device into the new state, generating the identity on entry to PROVISIONED and destroying it on entry
to RETIRED; of any other pair it answers BAD_STATE. AUTH for a blob of bad layout is log entry 18, the nonce that LIFECYCLE
uses up either way 19, AUTH for ARG_B zero 81. -/
def Obligations.KeysAndLifecycle : Prop :=
  ∀ (s : State) (f : AdminFetch) (r : AdminRecord),
    let s0 := consume s admQueue
    let p := s.hub.pkg
    let spent := modHub s0 (fun h => { h with pkg := { h.pkg with nonce := none } })
    (∀ d b, offered s f 0x1A r → domOf s r.asid = some d → d.state = .live → r.argB < 16 → f.argOk = true →
      hostRead s r.argA 1676 = some b →
      let legal := recField b 1628 8 % 4096 = 0 ∧ recField b 1636 8 % 4096 = 0 ∧ recField b 1644 8 % 16 = 0 ∧
        recField b 1656 20 = 0
      (∀ key, legal → unwrapKey d.kemPub b = some key →
        let slot : KeySlot := ⟨key, recField b 1628 8, recField b 1636 8, recField b 1644 8,
          BitVec.ofNat 32 (recField b 1652 4)⟩
        ∃ s1, answers (.keyImport f) s r s1 0 0 ∧ s1.mem = s.mem ∧
          domOf s1 r.asid = some { d with keys := tabSet r.argB slot d.keys }) ∧
      (¬legal ∨ unwrapKey d.kemPub b = none → answers (.keyImport f) s r s0 5 0)) ∧
    (∀ d, offered s f 0x1A r → domOf s r.asid = some d → d.state = .live →
      (16 ≤ r.argB → answers (.keyImport f) s r s0 1 0) ∧
      (r.argB < 16 → f.argOk = false ∨ hostRead s r.argA 1676 = none → answers (.keyImport f) s r s0 6 0)) ∧
    (∀ nonce, offered s f 0x1B r → f.argOk = true → hostRead s r.argB 32 = some nonce →
      (∀ d id, p.lifecycle ≠ .retired → r.argC = 0 → domOf s r.asid = some d → d.state = .live → p.identity = some id →
        let body := reportBody s0 (some (r.asid, d)) nonce
        answers (.attest f) s r (hostWriteAt s0 r.argA (body ++ fitBytes 1280 (Config.sign id body))) 0 2992) ∧
      (∀ id, p.lifecycle ≠ .retired → r.asid = 0x3FF → r.argC = 1 → p.identity = some id →
        let body := reportBody s0 none nonce
        answers (.attest f) s r (hostWriteAt s0 r.argA (body ++ fitBytes 1280 (Config.sign id body))) 0 2992) ∧
      (p.lifecycle ≠ .retired → 2 ≤ r.argC → answers (.attest f) s r s0 1 0) ∧
      (p.lifecycle = .retired → p.identity = none → r.asid = 0x3FF → r.argC = 1 → answers (.attest f) s r
        (hostWriteAt s0 r.argA (reportBody s0 none nonce ++ List.replicate 1280 0)) 0 2992)) ∧
    (p.lifecycle = .retired → offered s f 0x1B r → r.asid ≠ 0x3FF → answers (.attest f) s r s0 4 0) ∧
    (offered s f 0x1C r → ∃ n s1, answers (.getNonce f) s r s1 0 0 ∧ s1.hub.pkg = { p with nonce := some n } ∧
      s1.mem = (hostWriteAt s r.argA (leBytes 32 n.toNat)).mem ∧ s1.tasks = s.tasks) ∧
    (happens .nonceExpiry s fun u => u = { s with hub := { s.hub with pkg := { p with nonce := none } } }) ∧
    (offered s f 0x1D r →
      (lifecycleStep p.lifecycle r.argA = none → answers (.lifecycle f) s r spent 4 0) ∧
      (∀ l, lifecycleStep p.lifecycle r.argA = some l → l ≠ .debugUnlocked → happens (.lifecycle f) s fun u =>
        physRead u.mem (hostAddr r.result) 16 = List.replicate 16 0 ∧
        u.hub.pkg.lifecycle = l ∧ u.hub.pkg.ready = false ∧ u.hub.pkg.nonce = none ∧ u.tasks = [] ∧ u.hub.doms = [] ∧
        (l = .provisioned → u.hub.pkg.identity ≠ none) ∧ (l = .retired → u.hub.pkg.identity = none) ∧
        (l = .deployed → u.hub.pkg.identity = p.identity)) ∧
      (lifecycleStep p.lifecycle r.argA = some .debugUnlocked → r.argB = 0 → answers (.lifecycle f) s r spent 5 0) ∧
      (∀ b, lifecycleStep p.lifecycle r.argA = some .debugUnlocked → r.argB ≠ 0 → f.argOk = true →
        hostRead s r.argB 1360 = some b →
        (tokenOk p b = true → happens (.lifecycle f) s fun u => u.hub.pkg.lifecycle = .debugUnlocked ∧
          u.hub.pkg.unlockSerial = BitVec.ofNat 64 (recField b 72 8) ∧ u.hub.doms = [] ∧ u.hub.pkg.ready = false) ∧
        (tokenOk p b = false → answers (.lifecycle f) s r spent 5 0)))

/-- R23, R24, R26, R31, R39 to R41, R47, R49: where the forms of the queues and of the domains' life complete. A doorbell
moves the tail, a write of STOPPED clears it, and MSIX_COAL takes THRESH; a sound record of each kind leaves the ring, its head one on; and a
command that nothing refuses answers OK, a KEY_IMPORT once its blob unwraps and AUTH otherwise. -/
def Obligations.HostFormsComplete : Prop :=
  (∀ (s : State) (k v : Nat), s.hub.pkg.ready = true →
    ((queueAt s k).err ≠ 8 → ∃ t, exec (.sqTailWrite k v) s = .next t ∧ (queueAt t k).tail = v % 2 ^ 32) ∧
    (∃ t, exec (.sqStoppedClear k) s = .next t ∧ (queueAt t k).stopped = false) ∧
    (k < 256 → ∃ t, exec (.registerWrite ⟨0, 4096 + 8 * k, BitVec.ofNat 64 v⟩) s = .next t ∧
      (tabGet {} k t.hub.vecs).thresh = v % 65536)) ∧
  (∀ (s : State) (f : RecordFetch) (b : List Byte), running s = true → f.asid < 1024 → liveDom s f.asid = true →
    (queueAt s f.asid).fetches = true → f.readOk = true → recordBytes s (queueAt s f.asid) = some b →
    recordError s f.asid (queueAt s f.asid) (SqRecord.ofBytes b) = 0 →
    ∀ i ∈ [(0, Instr.sqNopRecord f), (1, .sqJobRecord f), (2, .sqLaunchRecord f), (3, .sqGraphRecord f),
        (4, .sqWaitRecord f), (5, .sqCancelRecord f)], (SqRecord.ofBytes b).kind = i.1 →
      ∃ t, exec i.2 s = .next t ∧
        (queueAt t f.asid).head = ((queueAt s f.asid).head + 1) % (queueAt s f.asid).size) ∧
  (∀ (s : State) (f : AdminFetch) (pl : DomPlace) (r : AdminRecord),
    let ok := fun (i : Instr) => ∃ t, exec i s = .next t ∧ physRead t.mem (hostAddr r.result) 8 = leBytes 8 0
    let live := ∃ d, domOf s r.asid = some d ∧ d.state = .live
    (offered s f 0x10 r → flagsOk r.argA = true → (∃ a, a < 1024 ∧ domOf s a = none) → f.argOk = true →
      hostRead s r.argB 32 ≠ none → ok (.domCreate f pl)) ∧
    (offered s f 0x11 r → live → ok (.domRevoke f)) ∧
    (offered s f 0x12 r → domOf s r.asid ≠ none → ok (.domKill f)) ∧
    (offered s f 0x13 r → (∃ d, domOf s r.asid = some d ∧ d.state ≠ .live) → workLeft s r.asid = false →
      ok (.domDestroy f)) ∧
    (∀ d b, offered s f 0x1A r → domOf s r.asid = some d → d.state = .live → r.argB < 16 → f.argOk = true →
      hostRead s r.argA 1676 = some b → recField b 1628 8 % 4096 = 0 → recField b 1636 8 % 4096 = 0 →
      recField b 1644 8 % 16 = 0 → recField b 1656 20 = 0 → ∃ t, exec (.keyImport f) s = .next t ∧
        physRead t.mem (hostAddr r.result) 8 = leBytes 8 (if (unwrapKey d.kemPub b).isSome then 0 else 5)) ∧
    (offered s f 0x1B r → s.hub.pkg.lifecycle ≠ .retired → s.hub.pkg.identity ≠ none → r.argC = 0 → live →
      f.argOk = true → hostRead s r.argB 32 ≠ none → ok (.attest f)) ∧
    (offered s f 0x1C r → ok (.getNonce f)) ∧
    (offered s f 0x1D r → s.hub.pkg.lifecycle = .manufacture → r.argA = 1 → ok (.lifecycle f))) ∧
  ∀ s : State, ∃ t, exec .nonceExpiry s = .next t ∧ t.hub.pkg.nonce = none

/-! ### Events: the package (R7, R10, R13, R15 to R20) -/

/-- R15, R16, R18: each reset of the device holds it in reset with every SRAM and HBM zero and clean, READY 0 and WIPING 1;
the lifecycle, the identity and the store of quarantined units stay, as the memory that is not the device's does. A reset of
function 1 ends the debug sessions alone. RESET_RELEASE starts the cycle count, WIPE_COMPLETE clears WIPING, and only then
BRINGUP_COMPLETE quarantines what failed, with what the store holds, which only MANUFACTURE clears, and sets READY. The
clearing of the store by BRINGUP_COMPLETE is log entry 8, what a reset keeps and where the cycle count starts 20, HBM zeroed
at the reset's event 78. -/
def Obligations.ResetsAndBringUp : Prop :=
  ∀ (s : State),
    (∀ i ∈ [Instr.powerOn, .perstAssert, .pcieHotReset, .functionLevelResetF0, .supervisorReset], happens i s fun u =>
      u.hub = { pkg := u.hub.pkg, linkOut := s.hub.linkOut } ∧ u.tasks = [] ∧ u.cores = {} ∧ u.hub.pkg.resetHeld = true ∧
      u.hub.pkg.ready = false ∧ u.hub.pkg.wiping = true ∧ u.hub.pkg.lifecycle = s.hub.pkg.lifecycle ∧
      u.hub.pkg.identity = s.hub.pkg.identity ∧ u.hub.pkg.quarCores = s.hub.pkg.quarCores ∧
      u.hub.pkg.quarClusters = s.hub.pkg.quarClusters ∧ u.hub.pkg.quarSlices = s.hub.pkg.quarSlices ∧
      (∀ a, tabGet 0 a u.mem.bytes = if a < hbmEnd then 0 else tabGet 0 a s.mem.bytes) ∧
      (∀ g, tabGet false g u.mem.poison = if 16 * g < hbmEnd then false else tabGet false g s.mem.poison) ∧
      u.mem.pools = [] ∧ u.mem.umbra = [] ∧ u.mem.keys = []) ∧
    (happens .functionLevelResetF1 s fun u => u = { s with hub := { s.hub with sessions := [] } }) ∧
    (s.hub.pkg.resetHeld = true → happens .resetRelease s fun u =>
      u.clock = 0 ∧ pkgBecomes s { u with clock := s.clock } { s.hub.pkg with resetHeld := false }) ∧
    (s.hub.pkg.resetHeld = false → happens .wipeComplete s fun u => pkgBecomes s u { s.hub.pkg with wiping := false }) ∧
    (s.hub.pkg.resetHeld = true → happens .wipeComplete s fun u => u = s) ∧
    ∀ b, let p := s.hub.pkg
      (p.resetHeld = true ∨ p.wiping = true ∨ p.ready = true → happens (.bringupComplete b) s fun u => u = s) ∧
      (p.resetHeld = false → p.wiping = false → p.ready = false → happens (.bringupComplete b) s fun u =>
        let q := u.hub.pkg
        let kept := ¬(b.clearStore = true ∧ p.lifecycle = .manufacture)
        u.mem = { s.mem with pools := b.pools } ∧ pkgBecomes s { u with mem := s.mem } q ∧ q = { p with
          quarCores := q.quarCores, quarClusters := q.quarClusters, quarSlices := q.quarSlices, aop32 := b.aop32,
          aop64 := b.aop64, aop128 := b.aop128, uaWindows := b.uaWindows, ready := true,
          replReq := q.replReq } ∧
        (∀ c, c ∈ q.quarCores ↔ kept ∧ c ∈ p.quarCores ∨ c ∈ b.failCores) ∧
        (∀ c, c ∈ q.quarClusters ↔ kept ∧ c ∈ p.quarClusters ∨ c ∈ b.failClusters) ∧
        (∀ c, c ∈ q.quarSlices ↔ kept ∧ c ∈ p.quarSlices ∨ c ∈ b.failSlices) ∧
        (q.replReq = true ↔ ¬(q.quarCores = [] ∧ q.quarClusters = [] ∧ q.quarSlices = [])))

/-- R7, R8, R10, R13: a flit that fails its check is sent again, and nothing else comes of it; a link that fails to retrain
leaves routing, and of a hub link FATAL is set; the power limiter, under a limit set from 1,200 W to 2,800 W, lowers the
clock a step above its limit and raises it one below 97 % of it, the thermal limiter from 100 and below 95 degrees, each of
8 steps at most; at 110 degrees every core and engine stops. R18 to R20, R107: UNIT_QUARANTINE of a core, a cluster or a
slice lists it and sets REPL_REQ; a running task on a core that goes, its state readable, is pre-empted with cause 0x22, and
every task elsewhere stays as it was; the jobs of a cluster that goes fail; the lines of a slice that goes are held where the
new hash has them (R100); a running task whose state cannot be read back
ends faulted, and the supervisor reads CONTEXT_FAULT with reason 3. An uncorrectable error in HBM poisons its granule and
does nothing else. The limit that POWER_LIMIT_STEP carries is log entry 8, FATAL for hub links from 4 up 21, the event of an
HBM granule 23. -/
def Obligations.LimitsAndQuarantine : Prop :=
  (∀ (s : State), let p := s.hub.pkg
     (∀ link, happens (.flitCrcError link) s fun u =>
       u = { s with hub := { s.hub with pkg := { p with retransmits := u.hub.pkg.retransmits } } } ∧
       ∀ k, tabGet 0 k u.hub.pkg.retransmits = tabGet 0 k p.retransmits + if k = link then 1 else 0) ∧
     (∀ link, happens (.linkRetrainFail link) s fun u =>
       pkgBecomes s u { p with linksDown := u.hub.pkg.linksDown, fatal := p.fatal || decide (4 ≤ link) } ∧
       ∀ k, k ∈ u.hub.pkg.linksDown ↔ k ∈ p.linksDown ∨ k = link) ∧
     (∀ w m, let lim := if 1200 ≤ m ∧ m ≤ 2800 then m else p.powerLimit
       (lim < w → happens (.powerLimitStep ⟨w, m⟩) s fun u =>
         pkgBecomes s u { p with powerLimit := lim, powerSteps := min (p.powerSteps + 1) 8 }) ∧
       (100 * w < 97 * lim → happens (.powerLimitStep ⟨w, m⟩) s fun u =>
         pkgBecomes s u { p with powerLimit := lim, powerSteps := p.powerSteps - 1 }) ∧
       (w ≤ lim → 97 * lim ≤ 100 * w → happens (.powerLimitStep ⟨w, m⟩) s fun u => pkgBecomes s u { p with powerLimit := lim })) ∧
     (∀ c, 100 ≤ c → happens (.thermalLimitStep c) s fun u =>
       pkgBecomes s u { p with thermSteps := min (p.thermSteps + 1) 8 }) ∧
     (∀ c, c < 95 → happens (.thermalLimitStep c) s fun u => pkgBecomes s u { p with thermSteps := p.thermSteps - 1 }) ∧
     (∀ c, 95 ≤ c → c < 100 → happens (.thermalLimitStep c) s fun u => u = s) ∧
     (∀ c, 110 ≤ c → happens (.thermalTrip c) s fun u => pkgBecomes s u { p with tripped := true }) ∧
     (∀ c, c < 110 → happens (.thermalTrip c) s fun u => u = s)) ∧
  (∀ (s : State) (n : Nat), let p := s.hub.pkg
     let leaves := fun (u : State) (gone : Nat → Prop) => ∀ k t, taskAt s k = some t →
       (gone (keyCore k) → t.st = .ready → t.preempt = 0 → taskAt u k = some (preempted t 0x22)) ∧
       (¬gone (keyCore k) → taskAt u k = some t)
     (n ∉ p.quarCores → happens (.unitQuarantine ⟨.core, n, []⟩) s fun u =>
       u.hub.pkg = { p with quarCores := p.quarCores ++ [n], replReq := true } ∧ u.mem = s.mem ∧
       leaves u (fun c => c = n)) ∧
     (n ∉ p.quarClusters → happens (.unitQuarantine ⟨.cluster, n, []⟩) s fun u =>
       u.hub.pkg = { p with quarClusters := p.quarClusters ++ [n], replReq := true } ∧ u.mem = s.mem ∧
       leaves u (fun c => coreCluster c = n) ∧
       (tabGet {} n u.hub.clusters).jobs = (tabGet {} n s.hub.clusters).jobs.map failJob) ∧
     (∀ k t, taskAt s k = some t → t.st ≠ .ended →
       let loses := fun (q : QuarantineIn) => happens (.unitQuarantine q) s fun u =>
         (∃ t', taskAt u k = some t' ∧ t'.st = .ended ∧ t'.faulted = true ∧ t'.acq = []) ∧
         (s.hub.faultLog.length < 4096 → ({ kind := 1, code := 3, asid := t.asid, gtid := t.id.gtid, pc := t.pc
                                            depth := t.depth } : Notice).bits ∈ u.hub.faultLog)
       (n ∉ p.quarCores → keyCore k = n → loses ⟨.core, n, [k]⟩) ∧
       (n ∉ p.quarClusters → coreCluster (keyCore k) = n → loses ⟨.cluster, n, [k]⟩)) ∧
     (n ∉ p.quarSlices → happens (.unitQuarantine ⟨.slice, n, []⟩) s fun u =>
       pkgBecomes s { u with cores := s.cores } { p with quarSlices := p.quarSlices ++ [n], replReq := true } ∧
       u.cores = { s.cores with l2 := u.cores.l2 } ∧
       ∀ x ∈ tabGet [] n u.cores.l2, homeSlice (p.quarSlices ++ [n]) (128 * x.line) = n) ∧
     (happens (.unitQuarantine ⟨.hbmGranule, n, []⟩) s fun u =>
       u = { s with mem := { s.mem with poison := u.mem.poison } } ∧
       ∀ g, tabGet false g u.mem.poison = if g = n then true else tabGet false g s.mem.poison))

/-! ### Events: the debug function (R50, R51, R198 to R203, R215 to R222) -/

/-- R51, R215, R216: a session opens in DEPLOYED with a key whose hash some domain carries, in DEBUG_UNLOCKED with the
authority's. Every command is written to CMD; on a domain outside the session it is DENIED, and dropped while another runs.
HALT pre-empts each selected task that runs, withholds the selected saved ones, and waits; RESUME releases what is withheld,
of one task or, of the domain, lifts its stop too. A GTID of no task of the domain is BAD_ARG. BAD_ARG for a GTID of no
task, one stop event per running task, and a RESUME that lifts the log's stop are log entry 36. -/
def Obligations.DebugSessionsAndHalts : Prop :=
  (∀ (s : State) (o : SessionOpen), let x : Session := { keyHash := o.keyHash, authority := o.authority }
    let carried := ∃ e ∈ s.hub.doms, e.2.state ≠ .absent ∧ e.2.cred = o.keyHash
    let may := (s.hub.pkg.lifecycle = .deployed ∧ carried) ∨ (s.hub.pkg.lifecycle = .debugUnlocked ∧ o.authority = true)
    (running s = true → may → happens (.debugSessionOpen o) s fun u =>
      u = { s with hub := { s.hub with sessions := u.hub.sessions } } ∧ sessionAt u o.session = some x ∧
      ∀ k, k ≠ o.session → sessionAt u k = sessionAt s k) ∧
    (¬may → happens (.debugSessionOpen o) s fun u => u = s)) ∧
  ∀ (s : State) (c : DebugCmd) (x : Session),
    (∀ i ∈ [Instr.halt c, .debugResume c, .readTask c, .readMem c, .writeMem c, .setBp c, .setWp c, .tail c, .acct c, .slog c],
      sessionAt s c.session = some x → x.busy = none → s.hub.pkg.ready = true →
      (∀ d, domOf s c.asid = some d → reaches s.hub.pkg x d = false) → repliesAny i s c s 8) ∧
    (∀ i ∈ [Instr.rewind c, .replay c, .stepback c, .release c],
      sessionAt s c.session = some x → x.busy = none → s.hub.pkg.ready = true →
      (∀ d, domOf s c.asid = some d → reaches s.hub.pkg x d = false) → replies i s c s 8 0) ∧
    (∀ i ∈ [Instr.halt c, .debugResume c, .readTask c, .readMem c, .writeMem c, .setBp c, .setWp c, .tail c, .acct c, .slog c,
        .rewind c, .replay c, .stepback c, .release c],
      sessionAt s c.session = some x → x.busy ≠ none → happens i s fun u => u = writeCmd s (cmdOp i) c) ∧
    ∀ d, commands s c x d →
      let hit := selected c.asid (cmdTask c)
      (cmdTask c ≠ none → (∀ t ∈ allTasks s, hit t = false) →
        repliesAny (.halt c) s c s 9 ∧ repliesAny (.debugResume c) s c s 9) ∧
      (cmdTask c = none ∨ (∃ t ∈ allTasks s, hit t = true) → happens (.halt c) s fun u => u.mem = s.mem ∧
        (∃ y, sessionAt u c.session = some y ∧ y.busy = some (.halting c.asid (cmdTask c)) ∧ y.bps = x.bps ∧ y.wps = x.wps ∧
          y.cmd = cmdBits 1 c) ∧
        u.hub.debugEvents = s.hub.debugEvents + (s.tasks.filter (fun e => hit e.2 && decide (e.2.st ≠ .ended))).length ∧
        (∀ k t, taskAt s k = some t → hit t = true → t.st = .ready → t.preempt = 0 →
          taskAt u k = some (preempted t 0x23)) ∧
        (∀ k t, taskAt s k = some t → hit t = false → (∀ e ∈ s.tasks, e.1 = k → e.2 = t) → taskAt u k = some t) ∧
        (∀ k v, tabFind k s.hub.saved = some v → hit v.task = true →
          tabFind k u.hub.saved = some { v with withheld := true, sent := false }) ∧
        (cmdTask c = none → domOf u c.asid = some { d with halted := true })) ∧
      (∀ g, cmdTask c = some g → (∃ t ∈ allTasks s, hit t = true) → ∃ s1, repliesAny (.debugResume c) s c s1 0 ∧
        s1 = { s with hub := { s.hub with saved := s1.hub.saved } } ∧
        ∀ k, tabFind k s1.hub.saved = (tabFind k s.hub.saved).map
          (fun v => if hit v.task = true then { v with withheld := false } else v)) ∧
      (cmdTask c = none → d.rewound = false → ∃ s1 d', repliesAny (.debugResume c) s c s1 0 ∧ s1.tasks = s.tasks ∧
        domOf s1 c.asid = some d' ∧ d'.halted = false ∧ d'.logStopped = false ∧
        (replaying s c.asid = false → d'.replay = none ∧ ((readLog s c.asid).state ≠ 1 → s1.mem = s.mem)) ∧
        ∀ k, tabFind k s1.hub.saved = (tabFind k s.hub.saved).map
          (fun v => if hit v.task = true then { v with withheld := false } else v))

/-- R215, R217: READ_TASK copies the save area of a halted task to the buffer, READ_MEM a range, with the poison read;
WRITE_MEM writes a range from it; SET_BP and SET_WP set or clear one unit, with the GTID and its mask from the buffer. A
range not mapped is NOT_MAPPED, a task not halted NOT_HALTED, one held by another domain DENIED, a replay NOT_STOPPED, and a
watchpoint not aligned or too long BAD_ARG. BAD_ARG for a watchpoint that breaks R217 and unlisted bits of ARG ignored are
log entry 37. -/
def Obligations.DebugReadsAndWrites : Prop :=
  ∀ (s : State) (c : DebugCmd) (x : Session) (d : Domain), commands s c x d →
    let buf := hostAddr c.buf.toNat
    let copied := fun (asid va n : Nat) (bs : List Byte) => toBuffer (hubCounts s asid va n) c.buf (bs.zip (poiFlags s asid va n))
    (∀ e, e ∈ s.hub.saved → e.2.task.id.gtid = c.gtid → e.2.withheld = true →
      (∀ e' ∈ s.hub.saved, e'.2.task.id.gtid = c.gtid → e'.2.withheld = true → e' = e) →
      let area := vread s e.2.area e.2.addr ((saveBody e.2.task + 63) / 64 * 64)
      (∀ bs p, e.2.area = c.asid → area = some (bs, p) →
        repliesAny (.readTask c) s c (copied e.2.area e.2.addr ((saveBody e.2.task + 63) / 64 * 64) bs) 0) ∧
      (e.2.area = c.asid → area = none → repliesAny (.readTask c) s c s 4) ∧
      (e.2.area ≠ c.asid → repliesAny (.readTask c) s c s 8)) ∧
    ((∀ e ∈ s.hub.saved, e.2.task.id.gtid = c.gtid → e.2.withheld = false) → repliesAny (.readTask c) s c s 10) ∧
    (∀ bs p, vread s c.asid c.addr.toNat c.len.toNat = some (bs, p) →
      repliesAny (.readMem c) s c (copied c.asid c.addr.toNat c.len.toNat bs) 0) ∧
    (vread s c.asid c.addr.toNat c.len.toNat = none → repliesAny (.readMem c) s c s 4) ∧
    (replaying s c.asid = true → repliesAny (.writeMem c) s c s 1) ∧
    (replaying s c.asid = false → writePlaces s c.asid c.addr.toNat c.len.toNat = none → repliesAny (.writeMem c) s c s 4) ∧
    (∀ pa l, replaying s c.asid = false → (readLog s c.asid).policy ≠ 1 →
      writePlaces s c.asid c.addr.toNat c.len.toNat = some [(c.addr.toNat, c.len.toNat, pa, l)] → l.log = false →
      ∃ s1, repliesAny (.writeMem c) s c s1 0 ∧ s1 = { s with mem := s1.mem } ∧
        physRead s1.mem pa c.len.toNat = physRead s.mem buf c.len.toNat ∧
        ∀ a, a < pa ∨ pa + c.len.toNat ≤ a → tabGet 0 a s1.mem.bytes = tabGet 0 a s.mem.bytes) ∧
    (let b := physRead s.mem buf 16
      let u : DebugUnit :=
        { asid := c.asid, gtid := BitVec.ofNat 64 (recField b 0 8), gmask := BitVec.ofNat 64 (recField b 8 8), addr := c.addr }
      let n := c.arg.toNat
      (natBit n 10 = true → repliesAny (.setBp c) s c (modSession s c.session (fun x => { x with
        bps := tabSet (n % 8) { u with isTrap := natBit n 8 } x.bps })) 0) ∧
      (natBit n 10 = false → repliesAny (.setBp c) s c (modSession s c.session (fun x => { x with
        bps := tabDel (n % 8) x.bps })) 0) ∧
      let w : DebugUnit := { u with len := c.len, onRead := natBit n 8, onWrite := natBit n 9 }
      (natBit n 10 = true → c.addr.toNat % 8 = 0 → c.len.toNat % 8 = 0 → c.len.toNat ≤ 2 ^ 21 → repliesAny (.setWp c) s c
        (modSession s c.session (fun x => { x with wps := tabSet (n % 4) w x.wps })) 0) ∧
      (natBit n 10 = true → c.addr.toNat % 8 ≠ 0 ∨ c.len.toNat % 8 ≠ 0 ∨ 2 ^ 21 < c.len.toNat →
        repliesAny (.setWp c) s c s 9) ∧
      (natBit n 10 = false → repliesAny (.setWp c) s c (modSession s c.session (fun x => { x with
        wps := tabDel (n % 4) x.wps })) 0))

/-- R218, R220 to R222: TAIL switches a domain's tail on, to a mapped ring of LOG2 8 to 24, or off; a LOST packet goes out
once its ring has room, and the count of a tail that is off is dropped; ACCT names the senders counted or copies their
entries out; SLOG sets the session's filter, which only a domain of the session may match. BAD_ARG for a LEN of ACCT that is
odd or too long is log entry 33, SLOT 0 of LOST 59, NOT_MAPPED and BAD_ARG of TAIL 91, BAD_ARG of SLOG with a reserved bit
98. -/
def Obligations.TailAndAccounting : Prop :=
  (∀ (s : State) (c : DebugCmd) (x : Session) (d : Domain), commands s c x d →
    let lg := vreadNat s c.asid c.addr.toNat 4
    let mapped := vread s c.asid c.addr.toNat 64 ≠ none
    let tailTo := fun t => modDom s c.asid (fun d => { d with tail := t })
    (natBit c.arg.toNat 0 = false → repliesAny (.tail c) s c (tailTo none) 0) ∧
    (natBit c.arg.toNat 0 = true → ¬mapped → repliesAny (.tail c) s c s 4) ∧
    (natBit c.arg.toNat 0 = true → mapped → lg < 8 ∨ 24 < lg → repliesAny (.tail c) s c s 9) ∧
    (natBit c.arg.toNat 0 = true → mapped → 8 ≤ lg → lg ≤ 24 →
      repliesAny (.tail c) s c (tailTo (some { ring := c.addr.toNat, session := c.session })) 0) ∧
    (natBit c.arg.toNat 0 = true → c.len.toNat ≤ 32 → c.len.toNat % 2 = 0 → ∃ es, repliesAny (.acct c) s c
      (modDom s c.asid (fun d => { d with acct := es })) 0 ∧ es.length = c.len.toNat / 2 ∧
      ∀ i, i < es.length → es[i]? = some { sender := physNat s.mem (hostAddr c.buf.toNat + 2 * i) 2 }) ∧
    (natBit c.arg.toNat 0 = true → 32 < c.len.toNat ∨ c.len.toNat % 2 ≠ 0 → repliesAny (.acct c) s c s 9) ∧
    (natBit c.arg.toNat 0 = false → repliesAny (.acct c) s c
      (toBuffer s c.buf (cleanBytes (d.acct.foldr (fun e a => e.bytes ++ a) []))) 0) ∧
    (c.arg.toNat % 2 ^ 42 ≠ 0 → repliesAny (.slog c) s c s 9) ∧
    (c.arg.toNat % 2 ^ 42 = 0 → let named := domOf s (c.arg.toNat / 2 ^ 43 % 1024)
      (natBit c.arg.toNat 63 = false ∨ (∃ e, named = some e ∧ reaches s.hub.pkg x e = true) → repliesAny (.slog c) s c
        (modSession s c.session (fun x => { x with
          slogFilter := c.arg, slogRing := c.addr.toNat, slogAsid := c.asid, slogSkip := 0 })) 0) ∧
      (natBit c.arg.toNat 63 = true → (∀ e, named = some e → reaches s.hub.pkg x e = false) →
        repliesAny (.slog c) s c s 8))) ∧
  ∀ (s : State) (core asid n : Nat), asid < 1024 →
    s.cores.tailLost.filter (fun e => e.1 / 1024 == core) = [(core * 1024 + asid, n)] →
    let gone := fun (u : State) => tabFind (core * 1024 + asid) u.cores.tailLost = none
    ((domOf s asid).bind (·.tail) = none → happens (.tailLostPacket core) s fun u =>
      gone u ∧ u.mem = s.mem ∧ u.tasks = s.tasks) ∧
    (∀ t s1, (domOf s asid).bind (·.tail) = some t →
      ringAppend s asid t.ring 16 (7 + 2 ^ 8 * core + 2 ^ 24 * (n % 2 ^ 32)) = some s1 →
      (∀ e ∈ s.tasks, e.1 / 16 = core → e.2.asid ≠ asid) → happens (.tailLostPacket core) s fun u =>
        gone u ∧ u.mem = s1.mem ∧ u.tasks = s.tasks) ∧
    (∀ t, (domOf s asid).bind (·.tail) = some t →
      ringAppend s asid t.ring 16 (7 + 2 ^ 8 * core + 2 ^ 24 * (n % 2 ^ 32)) = none →
      happens (.tailLostPacket core) s fun u => u = s)

/-- R198 to R203, R364: the checks of REWIND, REPLAY, STEPBACK and RELEASE in their order, each with its STATUS and VALUE; a
REWIND that passes undoes the entries after bench n, newest first, discards the domain's work and restores the bench,
leaving the domain in a replay that waits, none of its tasks resident; REPLAY makes it run to its target and keeps the
session; a REWIND without room for its stop list waits, one whose save pool is not pinned answers NOT_MAPPED with the PINNED notice
(R182; the answer is the model's choice, log entry 75); a replay whose tasks can go no further stops with NOT_REACHED, one
stop of STOPEVT and of function 1's vector 0; RELEASE frees the benches before n. NO_BENCH for REPLAY of a LIVE domain,
NOT_REACHED for a goal passed, BAD_ARG for an unknown GTID of STEPBACK and what counts as stopped are log entry 38, the
cause of the stop 76. -/
def Obligations.RewindAndReplay : Prop :=
  (∀ (s : State) (c : DebugCmd) (x : Session) (d : Domain), commands s c x d →
    let n := c.arg.toNat
    let ctl := readLog s c.asid
    let quiet := domainQuiet s c.asid = true
    let dist := benchDist s c.asid ctl n (rangeLen ctl + 1) 0
    let spare := c.byte1 ≠ 0 ∨ c.bytes4 ≠ 0 ∨ c.bytes48 ≠ 0
    let bad := spare ∨ c.gtid ≠ 0 ∨ c.addr ≠ 0 ∨ 2 ^ 32 ≤ n
    (bad ∨ c.len.toNat / 2 % 2 ^ 31 ≠ 0 → replies (.rewind c) s c s 9 0) ∧
    (bad ∨ c.len ≠ 0 ∨ c.buf ≠ 0 → replies (.release c) s c s 9 0) ∧
    (¬bad → c.len = 0 → c.buf = 0 →
      (releaseBench s c.asid n = none → replies (.release c) s c s 2 0) ∧
      (∀ s1, releaseBench s c.asid n = some s1 → replies (.release c) s c s1 0 (readLog s1 c.asid).oldBench)) ∧
    (¬bad → c.len.toNat / 2 % 2 ^ 31 = 0 →
      (¬quiet → replies (.rewind c) s c s 1 0) ∧
      (quiet → activeCall s c.asid = true → replies (.rewind c) s c s 7 0) ∧
      (quiet → activeCall s c.asid = false →
        (ctl.curBench < n ∨ dist = none → replies (.rewind c) s c s 2 0) ∧
        ∀ k, n ≤ ctl.curBench → dist = some k →
          let es := rangeEntries s c.asid ctl k
          let irr := es.filter (fun e => e.kind == kIrrevocable)
          (irr ≠ [] → natBit c.len.toNat 0 = false → replies (.rewind c) s c s 3 irr.length) ∧
          (irr = [] ∨ natBit c.len.toNat 0 = true →
            ((∃ e ∈ es, restores e = true ∧ restorable s c.asid e.va e.len = false) →
              replies (.rewind c) s c s 4 irr.length) ∧
            ((∀ e ∈ es, restores e = true → restorable s c.asid e.va e.len = true) →
                listPinned s c.asid (recField (entryAt s c.asid ctl k).body 8 8) = none → stopList s c.asid = .noRoom →
              happens (.rewind c) s fun u => u = writeCmd (modSession s c.session (fun x => { x with
                busy := some (.rewinding c) })) 0x10 c) ∧
            ((∀ e ∈ es, restores e = true → restorable s c.asid e.va e.len = true) →
              (∀ va, listPinned s c.asid (recField (entryAt s c.asid ctl k).body 8 8) = some va ∨
                  (listPinned s c.asid (recField (entryAt s c.asid ctl k).body 8 8) = none ∧ stopList s c.asid = .pinned va) →
                replies (.rewind c) s c (notify s { kind := 1, code := 2, asid := c.asid, gtid := 0, addr := va, pc := 0 }) 4 0) ∧
              ∀ s1 va, listPinned s c.asid (recField (entryAt s c.asid ctl k).body 8 8) = none →
                stopList s c.asid = .done s1 va → ∃ s2 d',
                s2 = rewindTo s1 c.asid n k ∧ domOf s2 c.asid = some d' ∧ d'.logStopped = true ∧ d'.rewound = true ∧
                d'.replay = none ∧ d'.benchQ = [] ∧
                let copied := irrBytes irr (c.len.toNat / 2 ^ 32)
                (irr = [] → natBit c.len.toNat 0 = false → replies (.rewind c) s c s2 0 0) ∧
                (natBit c.len.toNat 0 = true → replies (.rewind c) s c (toBuffer s2 c.buf copied) 0 irr.length))))) ∧
    (spare ∨ c.addr ≠ 0 ∨ 2 ≤ c.len.toNat ∨ c.buf ≠ 0 → replies (.replay c) s c s 9 0) ∧
    (¬spare → c.addr = 0 → c.len.toNat < 2 → c.buf = 0 →
      (¬quiet → replies (.replay c) s c s 1 0) ∧
      (quiet → replaying s c.asid = false → replies (.replay c) s c s 2 0) ∧
      (quiet → replaying s c.asid = true → (∀ m, taskCount s c.asid c.gtid = some m → m ≤ n) →
        happens (.replay c) s fun u =>
          sessionAt u c.session = some { x with busy := some (.replaying c.asid), value := 0, cmd := cmdBits 0x11 c } ∧
          ∃ d', domOf u c.asid = some d' ∧ d'.logStopped = false ∧ d'.halted = false ∧
            ∃ g, d'.replay = some g ∧ g.gtid = c.gtid ∧ g.count = n ∧ g.session = c.session ∧ g.toEnd = false) ∧
      (∀ m, quiet → replaying s c.asid = true → taskCount s c.asid c.gtid = some m → n < m →
        replies (.replay c) s c s 5 0)) ∧
    (spare ∨ c.addr ≠ 0 ∨ c.len ≠ 0 ∨ c.buf ≠ 0 → replies (.stepback c) s c s 9 0) ∧
    (¬spare → c.addr = 0 → c.len = 0 → c.buf = 0 →
      (¬quiet → replies (.stepback c) s c s 1 0) ∧
      (quiet → (∀ t ∈ allTasks s, t.home = c.asid → t.id.gtid ≠ c.gtid) → replies (.stepback c) s c s 9 0) ∧
      ∀ t, quiet → t ∈ allTasks s → t.home = c.asid → t.id.gtid = c.gtid →
        (∀ t' ∈ allTasks s, t'.home = c.asid → t'.id.gtid = c.gtid → t' = t) →
        (t.icount < n ∨ benchBefore s c.asid c.gtid (t.icount - n) = none → replies (.stepback c) s c s 2 0) ∧
        ∀ b, n ≤ t.icount → benchBefore s c.asid c.gtid (t.icount - n) = some b →
          (∀ st v, rewind s c.asid b false = .refused st v → replies (.stepback c) s c s st 0) ∧
          ∀ s1 irr, rewind s c.asid b false = .done s1 irr → (∀ m, taskCount s1 c.asid c.gtid = some m → m ≤ t.icount - n) →
            happens (.stepback c) s fun u => ∃ d' g, domOf u c.asid = some d' ∧ d'.replay = some g ∧ g.gtid = c.gtid ∧
              g.count = t.icount - n ∧ g.session = c.session ∧ g.force = false)) ∧
  ∀ (s : State) (a : Nat), let g := (domOf s a).bind (·.replay)
    (g = none ∨ nothingRuns s a = false → happens (.replayStop a) s fun u => u = s) ∧
    ∀ goal, g = some goal → nothingRuns s a = true → happens (.replayStop a) s fun u => u.mem = s.mem ∧ u.tasks = s.tasks ∧
      u.hub.debugEvents = s.hub.debugEvents + 1 ∧
      tabGet {} 256 u.hub.vecs = msixEvent (sysOutstanding s) (tabGet {} 256 s.hub.vecs) ∧
      (∀ x d, sessionAt s goal.session = some x → domOf s a = some d → ∃ y, sessionAt u goal.session = some y ∧
        y.status = 5 ∧ y.busy = none ∧ y.stopGtid = if reaches s.hub.pkg x d then goal.gtid else x.stopGtid) ∧
      ∃ d', domOf u a = some d' ∧ d'.replay = none ∧ d'.logStopped = true

/-! ### Events: writes from outside (R14, R37, R90, R99, R126) -/

/-- R14, R37, R45, R90, R99: a write of the host stores its bytes at a backed address, clean, and no core's L1 keeps a copy
of its lines; one that the supervisor makes for a domain takes its lines under the domain's pair first (how is log entry 82);
metadata it writes in a carve-out replaces what travels with the
line; a write to an unbacked one is dropped; one whose check value does not match poisons its block and counts; an
image the supervisor maps extends its domain's measurement. A UALink peer's transaction on device memory reads, writes or
updates it whole, is answered with the value it read and its poison, and one outside device memory is answered with no data;
a block of it that fails its check value is poisoned, and counts. A host write that nothing backs, a request outside HBM,
the copies dropped and Hub.linkOut are log entry 50, the peer's atomics 79. -/
def Obligations.OutsideWrites : Prop :=
  (∀ (s : State) (h : HostStore), let image := if h.bySupervisor then h.image else none
    let taken := match image.or (if h.bySupervisor then h.asid else none) with
      | some a => (claimRuns s a [(h.pa, h.bytes)]).mem
      | none => s.mem
    (unbacked h.pa = true → image = none → happens (.hostWrite h) s fun u => u = s) ∧
    (unbacked h.pa = false → happens (.hostWrite h) s fun u =>
      physRead u.mem h.pa h.bytes.length = h.bytes ∧
      (∀ a, a < h.pa ∨ h.pa + h.bytes.length ≤ a → tabGet 0 a u.mem.bytes = tabGet 0 a taken.bytes) ∧
      u.mem.keys = taken.keys ∧ u.tasks = s.tasks ∧ u.mem.pools = s.mem.pools ∧
      (∀ line, tabFind line u.mem.umbra =
        if (metaAddr s.mem (128 * line)).any (fun a => overlaps a 8 h.pa h.bytes.length) then none
        else tabFind line s.mem.umbra) ∧
      (h.crcBad = false → image = none → u.hub = s.hub) ∧
      (h.crcBad = false → 0 < h.bytes.length → ∀ g, h.pa ≤ 16 * g → 16 * g + 16 ≤ h.pa + h.bytes.length →
        tabGet false g u.mem.poison = false) ∧
      (∀ a d, image = some a → domOf s a = some d → domOf u a = some { d with
        meas := Config.shake256 (hashBytes d.meas ++ hashBytes (Config.shake256 h.bytes)) }) ∧
      (h.crcBad = true → u.hub.crcErrs = min (s.hub.crcErrs + 1) 0xFFFFFFFF ∧
        ∀ g, g / 4 = blockAt h.pa h.bytes.length h.block / 64 → tabGet false g u.mem.poison = true) ∧
      ∀ e ∈ u.cores.l1, ∀ l ∈ e.2, overlaps (128 * l.line) 128 h.pa h.bytes.length = false)) ∧
  ∀ (s : State) (k : UaRequest),
    let w := 2 ^ (8 * k.size)
    let old := physNat s.mem k.pa k.size
    let poi := poisonAt s.mem.poison k.pa k.size
    let answered := fun (u : State) (p : Bool) (bs : List Byte) =>
      u.hub = { s.hub with linkOut := (uaAnswerPort, leBytes 1 (boolNat p) ++ bs) :: s.hub.linkOut } ∧ u.tasks = s.tasks
    let becomes := fun (u : State) (v : Nat) => physRead u.mem k.pa k.size = leBytes k.size v ∧
      ∀ a, a < k.pa ∨ k.pa + k.size ≤ a → tabGet 0 a u.mem.bytes = tabGet 0 a s.mem.bytes
    (hbmEnd < k.pa + max k.size k.bytes.length → happens (.ualinkCompleterRequest k) s fun u =>
      answered u false [] ∧ u.mem = s.mem ∧ u.cores = s.cores) ∧
    (k.pa + max k.size k.bytes.length ≤ hbmEnd → k.crcBad = true → happens (.ualinkCompleterRequest k) s fun u =>
      u.tasks = s.tasks ∧ u.hub.crcErrs = min (s.hub.crcErrs + 1) 0xFFFFFFFF ∧
      (k.kind ∈ [UaKind.read, .write, .coherence] →
        ∀ g, g / 4 = blockAt k.pa (max k.size k.bytes.length) k.block / 64 → tabGet false g u.mem.poison = true)) ∧
    (k.pa + max k.size k.bytes.length ≤ hbmEnd → k.crcBad = false →
      (k.kind = .read → happens (.ualinkCompleterRequest k) s fun u =>
        answered u poi (leBytes k.size old) ∧ u.mem = s.mem ∧ u.cores = s.cores) ∧
      (k.kind = .coherence → happens (.ualinkCompleterRequest k) s fun u => answered u false [] ∧ u.mem = s.mem ∧
        ∀ e ∈ u.cores.l1, ∀ l ∈ e.2, overlaps (128 * l.line) 128 k.pa k.size = false) ∧
      (unbacked k.pa = false →
        (k.kind = .write → happens (.ualinkCompleterRequest k) s fun u => answered u false [] ∧
          physRead u.mem k.pa k.bytes.length = k.bytes ∧
          ∀ a, a < k.pa ∨ k.pa + k.bytes.length ≤ a → tabGet 0 a u.mem.bytes = tabGet 0 a s.mem.bytes) ∧
        (k.kind = .fetchAdd → happens (.ualinkCompleterRequest k) s fun u => answered u poi (leBytes k.size old) ∧
          becomes u ((old + k.operand.toNat) % w)) ∧
        (k.kind = .swap → happens (.ualinkCompleterRequest k) s fun u => answered u poi (leBytes k.size old) ∧
          becomes u (k.operand.toNat % w)) ∧
        (k.kind = .cas → happens (.ualinkCompleterRequest k) s fun u => answered u poi (leBytes k.size old) ∧
          becomes u (if old = k.compare.toNat % w then k.operand.toNat % w else old))))

/-! ### The machine: encoding, the step, the state -/

/-- R223, R228 to R233: every well-formed instruction of the ISA reads back from its 96 bits, every field at every value its
encoding admits. -/
def Obligations.InstructionsRoundTrip : Prop :=
  ∀ i : Instr, i.isIsa = true → i.wf = true → decodeSlot (encode i) = .ok i

/-- R230, R233: words written out from the encoding tables, one or more of each format, decode to what they stand for; a
reserved opcode, a reserved bit and a mask field under an unmasked opcode are refused. -/
def Obligations.WordsDecode : Prop :=
  decodeSlot 0x010000000000000000000000 = .ok .nop ∧
  decodeSlot 0x140100000800000089ABCDEF = .ok (.mov ⟨4, 0, 0, 0, true, 0, false, 0x89ABCDEF⟩) ∧
  decodeSlot 0x150100000800000001234567 = .ok (.lih ⟨4, 0, 0, 0, true, 0, false, 0x01234567⟩) ∧
  decodeSlot 0x300140022000000000000000 = .ok (.rsys ⟨5, 0, 0x022, 0, 0⟩) ∧
  decodeSlot 0x320085020080000000000000 = .ok (.xsys ⟨2, 5, 0x020, 2, 0⟩) ∧
  decodeSlot 0xAB0000002800000000000000 = .ok (.fence ⟨0, 0, 0, 0, 0, 2, 4, .global, 0, 0, 0, 0⟩) ∧
  decodeSlot 0xBF0500000000000000000000 = .ok (.jwait ⟨20, 0, 0, false, false, 0, 0, false, 0⟩) ∧
  decodeSlot 0xC100D0044000000000000018 = .ok (.send ⟨3, 16, 0, false, true, 0, 4, false, 24⟩) ∧
  decodeSlot 0xD002841287FBC00000000000 = .ok (.gcall ⟨10, 4, 2, 20, 3, 63, 30, 0⟩) ∧
  decodeSlot 0xDB0000000000000000000000 = .ok (.tret ⟨0, 0, 0, 0, 0⟩) ∧
  decodeSlot 0x1F0000000000000000000000 = .error .unassignedOpcode ∧
  decodeSlot 0x010000000000000000000001 = .error .nopBits ∧
  decodeSlot 0x021000000000000000000000 = .error .maskField ∧
  decodeSlot 0x020000000000000100000000 = .error .reservedBits

/-- R63, R79, R223: when the slot whose turn it is may issue, and the bits at its PC decode, a step executes what they stand
for, with what follows at once: alone, or, for a pair that takes effect, the second on the state the first leaves with its
sources as at issue (an instruction that its group's first has left behind apart, log entry 65). An event of the agenda
that may happen is executed as such. -/
def Obligations.StepRunsDecoded : Prop :=
  ∀ (s : State),
    let after := fun (o : Host.Outcome State Fault Refusal) (g : State → State) => match o with
      | .next u => Host.Outcome.next (afterStep (g u))
      | .fault r => .fault r
      | .refused r => .refused r
    (∀ (k : Nat) (t : Task) (l : BitVec 512), running s = true →
      s.force = some k ∨ (s.force = none ∧ s.agenda = [] ∧ nextSlot s = some k) →
      taskAt s k = some t → wantsIssue s t = true → t.deferredBp = none → t.dataFaults = [] → t.pairSrc = none →
      fetchLine s k t = .line s l → pcForm t.pc = true → pcSlot t.pc < 5 → t.entryCheck = false ∨ btBit l (pcSlot t.pc) = true →
      let b := lineSlot l (pcSlot t.pc)
      let b2 := lineSlot l (pcSlot t.pc + 1)
      (∀ i, ptBit l (pcSlot t.pc) = false → t.bpSkip = some t.pc ∨ bpMatch s t [t.pc] = none → decodeSlot b = .ok i →
        canIssue s k t (completing s k) [b] [i] = true → step s = after (exec i (atSlot s k false false b)) (afterGroup k [b])) ∧
      (∀ i j u1 u2 mid, ptBit l (pcSlot t.pc) = true → t.bpSkip = some t.pc ∨ bpMatch s t [t.pc, t.pc + 1] = none →
        groupIllegal b b2 = false → decodeSlot b = .ok i → decodeSlot b2 = .ok j → canIssue s k t (completing s k) [b, b2] [i, j] = true →
        exec i (atSlot s k true false b) = .next u1 → exec j (atSlot s k true true b2) = .next u2 →
        u1.grp.result = .retired → u2.grp.result = .retired → secondWaits s u1 u2 k t b2 = false →
        mid = { u1 with grp := { u1.grp with
          second := true, bits := b2, snap := some t, raised := raisedBy s k b } } →
        ∀ u3, exec j mid = .next u3 → u3.grp.result = .retired → step s = .next (afterStep (afterGroup k [b, b2] u3)))) ∧
    ∀ (e : Instr) (rest : List Instr), running s = false ∨ s.force = none → s.agenda = e :: rest → acts s e = true →
      step s = after (exec e { s with agenda := rest }) id

/-- R15, R16, R107: after a reset memory reads zero and clean throughout, no task, domain or queue exists, and the part holds
READY 0 and WIPING 1; the canonical form of memory holds. The value of host memory is the model's (log entry 3). -/
def Obligations.ResetState : Prop :=
  let s := State.reset
  s.mem.wf = true ∧ (∀ a, tabGet 0 a s.mem.bytes = 0) ∧ (∀ g, tabGet false g s.mem.poison = false) ∧
    (∀ k, taskAt s k = none) ∧ (∀ a, domOf s a = none) ∧ (∀ k, queueAt s k = {}) ∧ s.hub.pkg.ready = false ∧
    s.hub.pkg.wiping = true ∧ pkgStatus s.hub.pkg = 4 ∧ s.clock = 0 ∧ running s = false

/-- Every step keeps the canonical form of memory and of its poison bits. -/
def Obligations.StepKeepsMemoryCanonical : Prop :=
  ∀ s s' : State, s.mem.wf = true → step s = .next s' → s'.mem.wf = true
end

