-- ==== Sys2Proof/Laws/Maps.lean ====
section
/-!
SUPPORT. Laws of the tables: reading after writing, for every table, and the canonical form that writes keep.
-/

namespace Sys2Proof.Machine

variable {α : Type}

/-! ### Reading after writing -/

@[simp] theorem tabFind_nil (k : Nat) : tabFind k ([] : SMap α) = none := rfl

theorem tabFind_tabSet (k j : Nat) (v : α) (m : SMap α) :
    tabFind j (tabSet k v m) = if j = k then some v else tabFind j m := by
  induction m with
  | nil => simp [tabSet, tabFind]
  | cons e t ih =>
    obtain ⟨k', v'⟩ := e
    simp only [tabSet]
    split
    · simp [tabFind]
    · split <;> simp only [tabFind, ih] <;> split <;> simp_all
      intro h; omega

@[simp] theorem tabFind_tabSet_self (k : Nat) (v : α) (m : SMap α) : tabFind k (tabSet k v m) = some v := by
  simp [tabFind_tabSet]

theorem tabFind_tabDel (k j : Nat) (m : SMap α) :
    tabFind j (tabDel k m) = if j = k then none else tabFind j m := by
  induction m with
  | nil => simp [tabDel]
  | cons e t ih =>
    obtain ⟨k', v'⟩ := e
    simp only [tabDel]
    split
    · simp_all [tabFind]
    · simp only [tabFind, ih]
      split <;> simp_all
      intro h; omega

theorem tabGet_tabPut [DecidableEq α] (d : α) (k j : Nat) (v : α) (m : SMap α) :
    tabGet d j (tabPut d k v m) = if j = k then v else tabGet d j m := by
  unfold tabGet tabPut
  split <;> simp only [tabFind_tabSet, tabFind_tabDel] <;> split <;> simp_all

@[simp] theorem tabGet_tabPut_self [DecidableEq α] (d : α) (k : Nat) (v : α) (m : SMap α) :
    tabGet d k (tabPut d k v m) = v := by simp [tabGet_tabPut]

theorem tabGet_tabSet (d : α) (k j : Nat) (v : α) (m : SMap α) :
    tabGet d j (tabSet k v m) = if j = k then v else tabGet d j m := by
  unfold tabGet; rw [tabFind_tabSet]; split <;> rfl

theorem tabFind_tabMod (k j : Nat) (f : α → α) (m : SMap α) :
    tabFind j (tabMod k f m) = if j = k then (tabFind k m).map f else tabFind j m := by
  unfold tabMod
  split
  · rename_i h; split <;> simp_all
  · rename_i v h; rw [tabFind_tabSet]; simp [h]

@[simp] theorem tabFind_tabMod_self (k : Nat) (f : α → α) (m : SMap α) :
    tabFind k (tabMod k f m) = (tabFind k m).map f := by simp [tabFind_tabMod]

theorem tabFind_tabMap (f : Nat → α → α) (k : Nat) (m : SMap α) :
    tabFind k (tabMap f m) = (tabFind k m).map (f k) := by
  induction m with
  | nil => rfl
  | cons e t ih =>
    obtain ⟨k', v'⟩ := e
    simp only [tabMap, List.map_cons, tabFind] at *
    split <;> simp_all

theorem tabFind_tabClear (lo hi k : Nat) (m : SMap α) :
    tabFind k (tabClear lo hi m) = if lo ≤ k ∧ k < hi then none else tabFind k m := by
  induction m with
  | nil => simp [tabClear]
  | cons e t ih =>
    obtain ⟨k', v'⟩ := e
    unfold tabClear at *
    simp only [List.filter_cons]
    by_cases hk : k = k'
    · subst hk
      by_cases hr : lo ≤ k ∧ k < hi
      · have : (!(decide (lo ≤ k) && decide (k < hi))) = false := by simp [hr]
        rw [this, if_neg (by simp), ih, if_pos hr, if_pos hr]
      · have : (!(decide (lo ≤ k) && decide (k < hi))) = true := by simp; omega
        simp only [this, if_true, tabFind, hr, if_false]
    · split <;> simp only [tabFind, hk, ih, if_false]

/-! ### The canonical form -/

theorem tabAbove_tabSet (lo : Option Nat) (k : Nat) (v : α) (m : SMap α) (hlo : ∀ l, lo = some l → l < k)
    (h : tabAbove lo m = true) : tabAbove lo (tabSet k v m) = true := by
  induction m generalizing lo with
  | nil => cases lo <;> simp_all [tabSet, tabAbove]
  | cons e t ih =>
    obtain ⟨k', v'⟩ := e
    simp only [tabSet]
    simp only [tabAbove, Bool.and_eq_true] at h
    split
    · rename_i hk
      cases lo <;> simp_all [tabAbove]
    · split
      · rename_i hk; subst hk; cases lo <;> simp_all [tabAbove]
      · simp only [tabAbove, Bool.and_eq_true]
        exact ⟨h.1, ih (some k') (fun l hl => by simp at hl; omega) h.2⟩

theorem tabAbove_weaken (lo : Option Nat) (k : Nat) (m : SMap α) (hlo : ∀ l, lo = some l → l < k)
    (h : tabAbove (some k) m = true) : tabAbove lo m = true := by
  cases m with
  | nil => rfl
  | cons e t =>
    obtain ⟨k', v'⟩ := e
    simp only [tabAbove, Bool.and_eq_true, decide_eq_true_eq] at h ⊢
    refine ⟨?_, h.2⟩
    cases lo with
    | none => rfl
    | some l => have := hlo l rfl; simp; omega

theorem tabAbove_tabDel (lo : Option Nat) (k : Nat) (m : SMap α) (h : tabAbove lo m = true) :
    tabAbove lo (tabDel k m) = true := by
  induction m generalizing lo with
  | nil => exact h
  | cons e t ih =>
    obtain ⟨k', v'⟩ := e
    simp only [tabDel]
    simp only [tabAbove, Bool.and_eq_true] at h
    split
    · exact ih lo (tabAbove_weaken lo k' t (fun l hl => by subst hl; simpa using h.1) h.2)
    · simp only [tabAbove, Bool.and_eq_true]; exact ⟨h.1, ih _ h.2⟩

theorem mem_tabDel {k : Nat} {m : SMap α} {e : Nat × α} (h : e ∈ tabDel k m) : e ∈ m := by
  induction m with
  | nil => exact h
  | cons x t ih =>
    obtain ⟨k', v'⟩ := x
    simp only [tabDel] at h
    split at h
    · exact List.mem_cons_of_mem _ (ih h)
    · rcases List.mem_cons.mp h with rfl | h
      · exact List.mem_cons_self
      · exact List.mem_cons_of_mem _ (ih h)

theorem mem_tabSet {k : Nat} {v : α} {m : SMap α} {e : Nat × α} (h : e ∈ tabSet k v m) : e = (k, v) ∨ e ∈ m := by
  induction m with
  | nil => simpa [tabSet] using h
  | cons x t ih =>
    obtain ⟨k', v'⟩ := x
    simp only [tabSet] at h
    split at h
    · simpa using h
    · split at h
      · rcases List.mem_cons.mp h with rfl | h
        · exact .inl rfl
        · exact .inr (List.mem_cons_of_mem _ h)
      · rcases List.mem_cons.mp h with rfl | h
        · exact .inr List.mem_cons_self
        · rcases ih h with rfl | h
          · exact .inl rfl
          · exact .inr (List.mem_cons_of_mem _ h)

/-- A write keeps the canonical form. -/
theorem tabWf_tabPut [DecidableEq α] (d : α) (k : Nat) (v : α) (m : SMap α) (h : tabWf d m = true) :
    tabWf d (tabPut d k v m) = true := by
  simp only [tabWf, Bool.and_eq_true, List.all_eq_true, decide_eq_true_eq] at h ⊢
  unfold tabPut
  split
  · exact ⟨tabAbove_tabDel _ _ _ h.1, fun e he => h.2 e (mem_tabDel he)⟩
  · rename_i hv
    refine ⟨tabAbove_tabSet _ _ _ _ (by simp) h.1, fun e he => ?_⟩
    rcases mem_tabSet he with rfl | he
    · exact hv
    · exact h.2 e he

/-- Writes in sequence keep the canonical form. -/
theorem tabWf_foldl_tabPut [DecidableEq α] {β : Type} (d : α) (k : β → Nat) (v : SMap α → β → α) (ws : List β)
    (m : SMap α) (h : tabWf d m = true) :
    tabWf d (ws.foldl (fun b w => tabPut d (k w) (v b w) b) m) = true := by
  induction ws generalizing m with
  | nil => exact h
  | cons w t ih => exact ih _ (tabWf_tabPut _ _ _ _ h)

theorem tabAbove_filter (lo : Option Nat) (p : Nat × α → Bool) (m : SMap α) (h : tabAbove lo m = true) :
    tabAbove lo (m.filter p) = true := by
  induction m generalizing lo with
  | nil => exact h
  | cons e t ih =>
    obtain ⟨k', v'⟩ := e
    simp only [tabAbove, Bool.and_eq_true] at h
    simp only [List.filter_cons]
    split
    · simp only [tabAbove, Bool.and_eq_true]; exact ⟨h.1, ih _ h.2⟩
    · exact ih lo (tabAbove_weaken lo k' t (fun l hl => by subst hl; simpa using h.1) h.2)

/-- Keeping some of the entries keeps the canonical form. -/
theorem tabWf_filter [DecidableEq α] (d : α) (p : Nat × α → Bool) (m : SMap α) (h : tabWf d m = true) :
    tabWf d (m.filter p) = true := by
  simp only [tabWf, Bool.and_eq_true, List.all_eq_true, decide_eq_true_eq] at h ⊢
  exact ⟨tabAbove_filter _ _ _ h.1, fun e he => h.2 e (List.mem_filter.mp he).1⟩

/-- Clearing a range keeps the canonical form. -/
theorem tabWf_tabClear [DecidableEq α] (d : α) (lo hi : Nat) (m : SMap α) (h : tabWf d m = true) :
    tabWf d (tabClear lo hi m) = true := tabWf_filter _ _ _ h

/-! ### Bytes -/

@[simp] theorem leBytes_length (n v : Nat) : (leBytes n v).length = n := by
  induction n generalizing v with
  | zero => rfl
  | succ n ih => simp [leBytes, ih]

/-- The value of the bytes of a value is the value, modulo their number. -/
theorem leNat_leBytes (n v : Nat) : leNat (leBytes n v) = v % 256 ^ n := by
  induction n generalizing v with
  | zero => simp [leBytes, leNat, Nat.mod_one]
  | succ n ih =>
    simp only [leBytes, leNat, ih]
    rw [Nat.pow_succ, Nat.mul_comm (256 ^ n) 256, Nat.mod_mul, BitVec.toNat_ofNat]

theorem leNat_lt (bs : List Byte) : leNat bs < 256 ^ bs.length := by
  induction bs with
  | nil => simp [leNat]
  | cons b t ih =>
    simp only [leNat, List.length_cons, Nat.pow_succ]
    have := b.isLt
    omega

end Sys2Proof.Machine
end

