-- ==== Sys2Proof/Laws/Memory.lean ====
section
/-!
SUPPORT. Laws of physical memory: a read after a write gives the bytes written, a write leaves every other byte as it
was, and every operation over memory keeps its canonical form.
-/

namespace Sys2Proof.Machine

/-! ### Runs of bytes -/

@[simp] theorem bytesAt_length (m : SMap Byte) (a n : Nat) : (bytesAt m a n).length = n := by
  induction n generalizing a with
  | zero => rfl
  | succ n ih => simp [bytesAt, ih]

@[simp] theorem physRead_length (m : Memory) (pa n : Nat) : (physRead m pa n).length = n := bytesAt_length _ _ _

/-- Reading a byte after a run has been written. -/
theorem tabGet_runOf (bs : List Byte) (a : Nat) (poi : Bool) (m : SMap Byte) (j : Nat) :
    tabGet 0 j ((runOf a poi bs).foldl (fun b w => tabPut 0 w.1 w.2.1 b) m) =
      if a ≤ j ∧ j < a + bs.length then (bs[j - a]?).getD 0 else tabGet 0 j m := by
  induction bs generalizing a m with
  | nil => simp [runOf]
  | cons b t ih =>
    simp only [runOf, List.foldl_cons, ih, tabGet_tabPut, List.length_cons]
    by_cases h1 : a + 1 ≤ j ∧ j < a + 1 + t.length
    · have h2 : a ≤ j ∧ j < a + (t.length + 1) := by omega
      have h3 : j - a = (j - (a + 1)) + 1 := by omega
      rw [if_pos h1, if_pos h2, h3, List.getElem?_cons_succ]
    · rw [if_neg h1]
      by_cases h4 : j = a
      · subst h4; simp
      · have h2 : ¬(a ≤ j ∧ j < a + (t.length + 1)) := by omega
        rw [if_neg h4, if_neg h2]

/-- A byte of memory after a run has been written at `pa`. -/
theorem physWrite_byte (m : Memory) (pa : Nat) (bs : List Byte) (poi : Bool) (a : Nat) :
    tabGet 0 a (physWrite m pa bs poi).bytes =
      if pa ≤ a ∧ a < pa + bs.length then (bs[a - pa]?).getD 0 else tabGet 0 a m.bytes :=
  tabGet_runOf bs pa poi m.bytes a

theorem bytesAt_of_get (m : SMap Byte) (bs : List Byte) (a : Nat)
    (h : ∀ i, i < bs.length → tabGet 0 (a + i) m = (bs[i]?).getD 0) : bytesAt m a bs.length = bs := by
  induction bs generalizing a with
  | nil => rfl
  | cons b t ih =>
    simp only [List.length_cons, bytesAt]
    have h0 := h 0 (by simp)
    simp only [Nat.add_zero, List.getElem?_cons_zero, Option.getD_some] at h0
    rw [h0, ih (a + 1)]
    intro i hi
    have := h (i + 1) (by simpa using hi)
    rw [List.getElem?_cons_succ] at this
    rw [← this]; congr 1; omega

/-- A read gives the bytes just written there. -/
theorem physRead_physWrite (m : Memory) (pa : Nat) (bs : List Byte) (poi : Bool) :
    physRead (physWrite m pa bs poi) pa bs.length = bs := by
  refine bytesAt_of_get _ _ _ (fun i hi => ?_)
  rw [physWrite_byte, if_pos (by omega)]; congr 2; omega

theorem bytesAt_congr (m m' : SMap Byte) (a n : Nat) (h : ∀ i, a ≤ i → i < a + n → tabGet 0 i m = tabGet 0 i m') :
    bytesAt m a n = bytesAt m' a n := by
  induction n generalizing a with
  | zero => rfl
  | succ n ih =>
    simp only [bytesAt]
    rw [h a (by omega) (by omega), ih (a + 1) (fun i h1 h2 => h i (by omega) (by omega))]

/-- A read elsewhere gives what it gave. -/
theorem physRead_physWrite_other (m : Memory) (pa a n : Nat) (bs : List Byte) (poi : Bool)
    (h : a + n ≤ pa ∨ pa + bs.length ≤ a) : physRead (physWrite m pa bs poi) a n = physRead m a n := by
  refine bytesAt_congr _ _ _ _ (fun i h1 h2 => ?_)
  rw [physWrite_byte, if_neg (by omega)]

/-! ### The canonical form -/

theorem Memory.wf_iff (m : Memory) :
    m.wf = true ↔ tabWf 0 m.bytes = true ∧ tabWf false m.poison = true ∧ tabAbove none m.umbra = true ∧
      tabAbove none m.keys = true := by
  simp [Memory.wf, and_assoc]

/-- Other bytes and poison bits in canonical form. -/
theorem Memory.wf_data (m : Memory) (b : SMap Byte) (p : SMap Bool) (h : m.wf = true) (hb : tabWf 0 b = true)
    (hp : tabWf false p = true) : Memory.wf { m with bytes := b, poison := p } = true := by
  rw [Memory.wf_iff] at h ⊢
  exact ⟨hb, hp, h.2.2⟩

/-- Other metadata travelling with lines (R205). -/
theorem Memory.wf_umbra (m : Memory) (u : SMap Word) (h : m.wf = true) (hu : tabAbove none u = true) :
    Memory.wf { m with umbra := u } = true := by
  rw [Memory.wf_iff] at h ⊢
  exact ⟨h.1, h.2.1, hu, h.2.2.2⟩

/-- Other key pairs kept for lines (R46). -/
theorem Memory.wf_keys (m : Memory) (k : SMap (BitVec 512)) (h : m.wf = true) (hk : tabAbove none k = true) :
    Memory.wf { m with keys := k } = true := by
  rw [Memory.wf_iff] at h ⊢
  exact ⟨h.1, h.2.1, h.2.2.1, hk⟩

/-- Writing a set of bytes keeps both tables canonical. -/
theorem storeBytes_wf (bytes : SMap Byte) (poi : SMap Bool) (ws : SMap (Byte × Bool))
    (hb : tabWf 0 bytes = true) (hp : tabWf false poi = true) :
    tabWf 0 (storeBytes bytes poi ws).1 = true ∧ tabWf false (storeBytes bytes poi ws).2 = true := by
  constructor
  · exact tabWf_foldl_tabPut (β := Nat × Byte × Bool) 0 (fun w => w.1) (fun _ w => w.2.1) ws bytes hb
  · exact tabWf_foldl_tabPut (β := Nat × Nat × Bool) false (fun g => g.1)
      (fun p g => if g.2.1 = 16 then g.2.2 else tabGet false g.1 p || g.2.2) _ poi hp

theorem physWrite_wf (m : Memory) (pa : Nat) (bs : List Byte) (poi : Bool) (h : m.wf = true) :
    (physWrite m pa bs poi).wf = true :=
  have hs := storeBytes_wf _ _ (runOf pa poi bs) ((Memory.wf_iff m).1 h).1 ((Memory.wf_iff m).1 h).2.1
  Memory.wf_data m _ _ h hs.1 hs.2

theorem physStore_wf (m : Memory) (ws : SMap (Byte × Bool)) (h : m.wf = true) : (physStore m ws).wf = true :=
  have hs := storeBytes_wf _ _ ws ((Memory.wf_iff m).1 h).1 ((Memory.wf_iff m).1 h).2.1
  Memory.wf_data m _ _ h hs.1 hs.2

theorem physRuns_wf (m : Memory) (runs : List (Nat × List Byte)) (h : m.wf = true) : (physRuns m runs).wf = true := by
  unfold physRuns
  induction runs generalizing m with
  | nil => exact h
  | cons r t ih => exact ih _ (physWrite_wf _ _ _ _ h)

theorem zeroRun_wf (m : Memory) (pa n : Nat) (h : m.wf = true) : (zeroRun m pa n).wf = true :=
  Memory.wf_data m _ _ h (tabWf_tabClear _ _ _ _ ((Memory.wf_iff m).1 h).1)
    (tabWf_tabClear _ _ _ _ ((Memory.wf_iff m).1 h).2.1)

theorem writeMeta_wf (m : Memory) (pa : Nat) (x : Meta) (h : m.wf = true) : (writeMeta m pa x).wf = true := by
  unfold writeMeta
  split
  · exact Memory.wf_umbra m _ h (tabAbove_tabSet none _ _ _ (fun _ hl => nomatch hl) ((Memory.wf_iff m).1 h).2.2.1)
  · exact h

/-- Metadata leaving with a line for the carve-out (R99, R205). -/
theorem metaHome_wf (m : Memory) (line : Nat) (h : m.wf = true) : (metaHome m line).wf = true := by
  have hu := Memory.wf_umbra m _ h (tabAbove_tabDel none line _ ((Memory.wf_iff m).1 h).2.2.1)
  unfold metaHome
  split
  · exact physWrite_wf _ _ _ _ hu
  · exact hu

/-- A line kept under another key pair (R46). -/
theorem keepLine_wf (m : Memory) (k : Option (BitVec 512)) (line : Nat) (h : m.wf = true) :
    (keepLine m k line).wf = true := by
  have hk := ((Memory.wf_iff m).1 h).2.2.2
  unfold keepLine
  split
  · exact h
  · refine Memory.wf_keys m _ h ?_
    cases k with
    | none => exact tabAbove_tabDel none _ _ hk
    | some x => exact tabAbove_tabSet none _ _ _ (fun _ hl => nomatch hl) hk

theorem writeObj_wf (m : Memory) (pa : Nat) (o : SyncObj) (h : m.wf = true) : (writeObj m pa o).wf = true :=
  physWrite_wf _ _ _ _ (physWrite_wf _ _ _ _ h)

theorem foldl_wf {β : Type} (f : Memory → β → Memory) (hf : ∀ m b, m.wf = true → (f m b).wf = true) (l : List β)
    (m : Memory) (h : m.wf = true) : (l.foldl f m).wf = true := by
  induction l generalizing m with
  | nil => exact h
  | cons b t ih => exact ih _ (hf _ _ h)

theorem cleanLines_wf (m : Memory) (ps : List (Nat × Nat × Nat × Leaf)) (h : m.wf = true) :
    (cleanLines m ps).wf = true := by
  refine foldl_wf _ (fun m p hm => ?_) ps m h
  split
  · exact hm
  · exact foldl_wf _ (fun m pa hm => writeMeta_wf _ _ _ hm) _ _ hm

theorem takeLine_wf (s : State) (k : Option (BitVec 512)) (line : Nat) (h : s.mem.wf = true) :
    (takeLine s k line).mem.wf = true := by
  unfold takeLine
  exact keepLine_wf _ _ _ (by split; exacts [physWrite_wf _ _ _ _ h, h])

/-- What the hub takes under a domain's pair: memory alone changes, and stays canonical (R46). -/
theorem claimRuns_wf (s : State) (asid : Nat) (runs : List (Nat × List Byte)) (h : s.mem.wf = true) :
    (claimRuns s asid runs).mem.wf = true ∧ claimRuns s asid runs = { s with mem := (claimRuns s asid runs).mem } := by
  unfold claimRuns
  split
  · exact ⟨h, rfl⟩
  · generalize runs.flatMap _ = ls
    have key : ∀ (ls : List Nat) (a : State), a.mem.wf = true →
        (ls.foldl (fun a line => takeLine a (pairOf s asid) line) a).mem.wf = true ∧
        ls.foldl (fun a line => takeLine a (pairOf s asid) line) a =
          { a with mem := (ls.foldl (fun a line => takeLine a (pairOf s asid) line) a).mem } := by
      intro ls
      induction ls with
      | nil => exact fun a ha => ⟨ha, rfl⟩
      | cons x t ih =>
        intro a ha
        have hi := ih _ (takeLine_wf a (pairOf s asid) x ha)
        exact ⟨hi.1, by rw [List.foldl_cons, hi.2]; rfl⟩
    exact key ls s h

theorem wipePages_wf (m : Memory) (ls : List Leaf) (h : m.wf = true) : (wipePages m ls).wf = true := by
  rw [Memory.wf_iff] at h ⊢
  refine ⟨?_, tabWf_filter _ _ _ h.2.1, tabAbove_filter _ _ _ h.2.2.1, tabAbove_filter _ _ _ h.2.2.2⟩
  have hf : ∀ (l : List Leaf) (b : SMap Byte), tabWf 0 b = true →
      tabWf 0 (l.foldl (fun (b : SMap Byte) (l : Leaf) => match metaAddr m l.base with
        | some a => tabClear a (a + l.size / 16) b
        | none => b) b) = true := by
    intro l
    induction l with
    | nil => exact fun _ hb => hb
    | cons x t ih =>
      intro b hb
      refine ih _ ?_
      dsimp only
      split
      · exact tabWf_tabClear _ _ _ _ hb
      · exact hb
  exact hf _ _ (tabWf_filter _ _ _ h.1)

theorem wipeHbm_wf (m : Memory) (h : m.wf = true) : (wipeHbm m).wf = true := by
  rw [Memory.wf_iff] at h ⊢
  exact ⟨tabWf_filter _ _ _ h.1, tabWf_filter _ _ _ h.2.1, rfl, rfl⟩

/-- A granule marked poisoned or not (R37, R107). -/
theorem poisonPut_wf (m : Memory) (g : Nat) (b : Bool) (h : m.wf = true) :
    Memory.wf { m with poison := tabPut false g b m.poison } = true :=
  Memory.wf_data m _ _ h ((Memory.wf_iff m).1 h).1 (tabWf_tabPut _ _ _ _ ((Memory.wf_iff m).1 h).2.1)

/-- Memory after reset lists nothing and has the canonical form. -/
theorem reset_mem_wf : State.reset.mem.wf = true := rfl

end Sys2Proof.Machine
end

