-- ==== Sys2Proof/Laws/State.lean ====
section
/-!
SUPPORT. One lemma per field of `State` per update, so that no proof unfolds a record update; and the task at a slot
after each.
-/

namespace Sys2Proof.Machine

/-! ### `setTask` -/

@[simp] theorem setTask_mem (s : State) (k : Nat) (t : Task) : (setTask s k t).mem = s.mem := rfl
@[simp] theorem setTask_cores (s : State) (k : Nat) (t : Task) : (setTask s k t).cores = s.cores := rfl
@[simp] theorem setTask_tasks (s : State) (k : Nat) (t : Task) : (setTask s k t).tasks = tabSet k t s.tasks := rfl
@[simp] theorem setTask_hub (s : State) (k : Nat) (t : Task) : (setTask s k t).hub = s.hub := rfl
@[simp] theorem setTask_clock (s : State) (k : Nat) (t : Task) : (setTask s k t).clock = s.clock := rfl
@[simp] theorem setTask_cur (s : State) (k : Nat) (t : Task) : (setTask s k t).cur = s.cur := rfl
@[simp] theorem setTask_scan (s : State) (k : Nat) (t : Task) : (setTask s k t).scan = s.scan := rfl
@[simp] theorem setTask_force (s : State) (k : Nat) (t : Task) : (setTask s k t).force = s.force := rfl
@[simp] theorem setTask_grp (s : State) (k : Nat) (t : Task) : (setTask s k t).grp = s.grp := rfl
@[simp] theorem setTask_agenda (s : State) (k : Nat) (t : Task) : (setTask s k t).agenda = s.agenda := rfl
@[simp] theorem setTask_free (s : State) (k : Nat) (t : Task) : (setTask s k t).free = s.free := rfl

/-! ### `modTask` -/

@[simp] theorem modTask_mem (s : State) (k : Nat) (f : Task → Task) : (modTask s k f).mem = s.mem := rfl
@[simp] theorem modTask_cores (s : State) (k : Nat) (f : Task → Task) : (modTask s k f).cores = s.cores := rfl
@[simp] theorem modTask_tasks (s : State) (k : Nat) (f : Task → Task) : (modTask s k f).tasks = tabMod k f s.tasks := rfl
@[simp] theorem modTask_hub (s : State) (k : Nat) (f : Task → Task) : (modTask s k f).hub = s.hub := rfl
@[simp] theorem modTask_clock (s : State) (k : Nat) (f : Task → Task) : (modTask s k f).clock = s.clock := rfl
@[simp] theorem modTask_cur (s : State) (k : Nat) (f : Task → Task) : (modTask s k f).cur = s.cur := rfl
@[simp] theorem modTask_scan (s : State) (k : Nat) (f : Task → Task) : (modTask s k f).scan = s.scan := rfl
@[simp] theorem modTask_force (s : State) (k : Nat) (f : Task → Task) : (modTask s k f).force = s.force := rfl
@[simp] theorem modTask_grp (s : State) (k : Nat) (f : Task → Task) : (modTask s k f).grp = s.grp := rfl
@[simp] theorem modTask_agenda (s : State) (k : Nat) (f : Task → Task) : (modTask s k f).agenda = s.agenda := rfl
@[simp] theorem modTask_free (s : State) (k : Nat) (f : Task → Task) : (modTask s k f).free = s.free := rfl

/-! ### `modCur` -/

@[simp] theorem modCur_mem (s : State) (f : Task → Task) : (modCur s f).mem = s.mem := rfl
@[simp] theorem modCur_cores (s : State) (f : Task → Task) : (modCur s f).cores = s.cores := rfl
@[simp] theorem modCur_tasks (s : State) (f : Task → Task) : (modCur s f).tasks = tabMod s.cur f s.tasks := rfl
@[simp] theorem modCur_hub (s : State) (f : Task → Task) : (modCur s f).hub = s.hub := rfl
@[simp] theorem modCur_clock (s : State) (f : Task → Task) : (modCur s f).clock = s.clock := rfl
@[simp] theorem modCur_cur (s : State) (f : Task → Task) : (modCur s f).cur = s.cur := rfl
@[simp] theorem modCur_scan (s : State) (f : Task → Task) : (modCur s f).scan = s.scan := rfl
@[simp] theorem modCur_force (s : State) (f : Task → Task) : (modCur s f).force = s.force := rfl
@[simp] theorem modCur_grp (s : State) (f : Task → Task) : (modCur s f).grp = s.grp := rfl
@[simp] theorem modCur_agenda (s : State) (f : Task → Task) : (modCur s f).agenda = s.agenda := rfl
@[simp] theorem modCur_free (s : State) (f : Task → Task) : (modCur s f).free = s.free := rfl

/-! ### `modHub` -/

@[simp] theorem modHub_mem (s : State) (f : Hub → Hub) : (modHub s f).mem = s.mem := rfl
@[simp] theorem modHub_cores (s : State) (f : Hub → Hub) : (modHub s f).cores = s.cores := rfl
@[simp] theorem modHub_tasks (s : State) (f : Hub → Hub) : (modHub s f).tasks = s.tasks := rfl
@[simp] theorem modHub_hub (s : State) (f : Hub → Hub) : (modHub s f).hub = f s.hub := rfl
@[simp] theorem modHub_clock (s : State) (f : Hub → Hub) : (modHub s f).clock = s.clock := rfl
@[simp] theorem modHub_cur (s : State) (f : Hub → Hub) : (modHub s f).cur = s.cur := rfl
@[simp] theorem modHub_scan (s : State) (f : Hub → Hub) : (modHub s f).scan = s.scan := rfl
@[simp] theorem modHub_force (s : State) (f : Hub → Hub) : (modHub s f).force = s.force := rfl
@[simp] theorem modHub_grp (s : State) (f : Hub → Hub) : (modHub s f).grp = s.grp := rfl
@[simp] theorem modHub_agenda (s : State) (f : Hub → Hub) : (modHub s f).agenda = s.agenda := rfl
@[simp] theorem modHub_free (s : State) (f : Hub → Hub) : (modHub s f).free = s.free := rfl

/-! ### `withResult` -/

@[simp] theorem withResult_mem (s : State) (r : Result) : (withResult s r).mem = s.mem := rfl
@[simp] theorem withResult_cores (s : State) (r : Result) : (withResult s r).cores = s.cores := rfl
@[simp] theorem withResult_tasks (s : State) (r : Result) : (withResult s r).tasks = s.tasks := rfl
@[simp] theorem withResult_hub (s : State) (r : Result) : (withResult s r).hub = s.hub := rfl
@[simp] theorem withResult_clock (s : State) (r : Result) : (withResult s r).clock = s.clock := rfl
@[simp] theorem withResult_cur (s : State) (r : Result) : (withResult s r).cur = s.cur := rfl
@[simp] theorem withResult_scan (s : State) (r : Result) : (withResult s r).scan = s.scan := rfl
@[simp] theorem withResult_force (s : State) (r : Result) : (withResult s r).force = s.force := rfl
@[simp] theorem withResult_grp (s : State) (r : Result) : (withResult s r).grp = { s.grp with result := r } := rfl
@[simp] theorem withResult_agenda (s : State) (r : Result) : (withResult s r).agenda = s.agenda := rfl
@[simp] theorem withResult_free (s : State) (r : Result) : (withResult s r).free = s.free := rfl

/-! ### `writeS` -/

@[simp] theorem writeS_mem (s : State) (n : Nat) (v : Word) (p : Bool) (l : Nat) : (writeS s n v p l).mem = s.mem := rfl
@[simp] theorem writeS_cores (s : State) (n : Nat) (v : Word) (p : Bool) (l : Nat) : (writeS s n v p l).cores = s.cores := rfl
@[simp] theorem writeS_tasks (s : State) (n : Nat) (v : Word) (p : Bool) (l : Nat) : (writeS s n v p l).tasks = tabMod s.cur (fun t => mark s { t with regs := putS t.regs n v p } n l) s.tasks := rfl
@[simp] theorem writeS_hub (s : State) (n : Nat) (v : Word) (p : Bool) (l : Nat) : (writeS s n v p l).hub = s.hub := rfl
@[simp] theorem writeS_clock (s : State) (n : Nat) (v : Word) (p : Bool) (l : Nat) : (writeS s n v p l).clock = s.clock := rfl
@[simp] theorem writeS_cur (s : State) (n : Nat) (v : Word) (p : Bool) (l : Nat) : (writeS s n v p l).cur = s.cur := rfl
@[simp] theorem writeS_scan (s : State) (n : Nat) (v : Word) (p : Bool) (l : Nat) : (writeS s n v p l).scan = s.scan := rfl
@[simp] theorem writeS_force (s : State) (n : Nat) (v : Word) (p : Bool) (l : Nat) : (writeS s n v p l).force = s.force := rfl
@[simp] theorem writeS_grp (s : State) (n : Nat) (v : Word) (p : Bool) (l : Nat) : (writeS s n v p l).grp = s.grp := rfl
@[simp] theorem writeS_agenda (s : State) (n : Nat) (v : Word) (p : Bool) (l : Nat) : (writeS s n v p l).agenda = s.agenda := rfl
@[simp] theorem writeS_free (s : State) (n : Nat) (v : Word) (p : Bool) (l : Nat) : (writeS s n v p l).free = s.free := rfl

/-! ### `writeV` -/

@[simp] theorem writeV_mem (s : State) (n : Nat) (v : Vec) (p : BitVec 32) (l : Nat) : (writeV s n v p l).mem = s.mem := rfl
@[simp] theorem writeV_cores (s : State) (n : Nat) (v : Vec) (p : BitVec 32) (l : Nat) : (writeV s n v p l).cores = s.cores := rfl
@[simp] theorem writeV_tasks (s : State) (n : Nat) (v : Vec) (p : BitVec 32) (l : Nat) : (writeV s n v p l).tasks = tabMod s.cur (fun t => mark s { t with regs := putV t.regs n v p } (vKey n) l) s.tasks := rfl
@[simp] theorem writeV_hub (s : State) (n : Nat) (v : Vec) (p : BitVec 32) (l : Nat) : (writeV s n v p l).hub = s.hub := rfl
@[simp] theorem writeV_clock (s : State) (n : Nat) (v : Vec) (p : BitVec 32) (l : Nat) : (writeV s n v p l).clock = s.clock := rfl
@[simp] theorem writeV_cur (s : State) (n : Nat) (v : Vec) (p : BitVec 32) (l : Nat) : (writeV s n v p l).cur = s.cur := rfl
@[simp] theorem writeV_scan (s : State) (n : Nat) (v : Vec) (p : BitVec 32) (l : Nat) : (writeV s n v p l).scan = s.scan := rfl
@[simp] theorem writeV_force (s : State) (n : Nat) (v : Vec) (p : BitVec 32) (l : Nat) : (writeV s n v p l).force = s.force := rfl
@[simp] theorem writeV_grp (s : State) (n : Nat) (v : Vec) (p : BitVec 32) (l : Nat) : (writeV s n v p l).grp = s.grp := rfl
@[simp] theorem writeV_agenda (s : State) (n : Nat) (v : Vec) (p : BitVec 32) (l : Nat) : (writeV s n v p l).agenda = s.agenda := rfl
@[simp] theorem writeV_free (s : State) (n : Nat) (v : Vec) (p : BitVec 32) (l : Nat) : (writeV s n v p l).free = s.free := rfl

/-! ### `writeM` -/

@[simp] theorem writeM_mem (s : State) (n : Nat) (v : Mask) (p : Bool) (l : Nat) : (writeM s n v p l).mem = s.mem := rfl
@[simp] theorem writeM_cores (s : State) (n : Nat) (v : Mask) (p : Bool) (l : Nat) : (writeM s n v p l).cores = s.cores := rfl
@[simp] theorem writeM_tasks (s : State) (n : Nat) (v : Mask) (p : Bool) (l : Nat) : (writeM s n v p l).tasks = tabMod s.cur (fun t => mark s { t with regs := putM t.regs n v p } (mKey n) l) s.tasks := rfl
@[simp] theorem writeM_hub (s : State) (n : Nat) (v : Mask) (p : Bool) (l : Nat) : (writeM s n v p l).hub = s.hub := rfl
@[simp] theorem writeM_clock (s : State) (n : Nat) (v : Mask) (p : Bool) (l : Nat) : (writeM s n v p l).clock = s.clock := rfl
@[simp] theorem writeM_cur (s : State) (n : Nat) (v : Mask) (p : Bool) (l : Nat) : (writeM s n v p l).cur = s.cur := rfl
@[simp] theorem writeM_scan (s : State) (n : Nat) (v : Mask) (p : Bool) (l : Nat) : (writeM s n v p l).scan = s.scan := rfl
@[simp] theorem writeM_force (s : State) (n : Nat) (v : Mask) (p : Bool) (l : Nat) : (writeM s n v p l).force = s.force := rfl
@[simp] theorem writeM_grp (s : State) (n : Nat) (v : Mask) (p : Bool) (l : Nat) : (writeM s n v p l).grp = s.grp := rfl
@[simp] theorem writeM_agenda (s : State) (n : Nat) (v : Mask) (p : Bool) (l : Nat) : (writeM s n v p l).agenda = s.agenda := rfl
@[simp] theorem writeM_free (s : State) (n : Nat) (v : Mask) (p : Bool) (l : Nat) : (writeM s n v p l).free = s.free := rfl

/-! ### `counted` -/

@[simp] theorem counted_mem (s : State) : (counted s).mem = s.mem := rfl
@[simp] theorem counted_cores (s : State) : (counted s).cores = s.cores := rfl
@[simp] theorem counted_tasks (s : State) : (counted s).tasks = tabMod s.cur (fun t => { t with icount := t.icount + 1 }) s.tasks := rfl
@[simp] theorem counted_hub (s : State) : (counted s).hub = s.hub := rfl
@[simp] theorem counted_clock (s : State) : (counted s).clock = s.clock := rfl
@[simp] theorem counted_cur (s : State) : (counted s).cur = s.cur := rfl
@[simp] theorem counted_scan (s : State) : (counted s).scan = s.scan := rfl
@[simp] theorem counted_force (s : State) : (counted s).force = s.force := rfl
@[simp] theorem counted_grp (s : State) : (counted s).grp = s.grp := rfl
@[simp] theorem counted_agenda (s : State) : (counted s).agenda = s.agenda := rfl
@[simp] theorem counted_free (s : State) : (counted s).free = s.free := rfl

/-! ### `transferTo` -/

@[simp] theorem transferTo_mem (s : State) (pc : Word) : (transferTo s pc).mem = s.mem := rfl
@[simp] theorem transferTo_cores (s : State) (pc : Word) : (transferTo s pc).cores = s.cores := rfl
@[simp] theorem transferTo_tasks (s : State) (pc : Word) : (transferTo s pc).tasks = tabMod s.cur (fun u => { u with pc := pc, fbuf := none, nextIssue := s.clock + 3 }) s.tasks := rfl
@[simp] theorem transferTo_hub (s : State) (pc : Word) : (transferTo s pc).hub = s.hub := rfl
@[simp] theorem transferTo_clock (s : State) (pc : Word) : (transferTo s pc).clock = s.clock := rfl
@[simp] theorem transferTo_cur (s : State) (pc : Word) : (transferTo s pc).cur = s.cur := rfl
@[simp] theorem transferTo_scan (s : State) (pc : Word) : (transferTo s pc).scan = s.scan := rfl
@[simp] theorem transferTo_force (s : State) (pc : Word) : (transferTo s pc).force = s.force := rfl
@[simp] theorem transferTo_grp (s : State) (pc : Word) : (transferTo s pc).grp = s.grp := rfl
@[simp] theorem transferTo_agenda (s : State) (pc : Word) : (transferTo s pc).agenda = s.agenda := rfl
@[simp] theorem transferTo_free (s : State) (pc : Word) : (transferTo s pc).free = s.free := rfl

/-! ### `passOver` -/

@[simp] theorem passOver_mem (s : State) (k : Nat) : (passOver s k).mem = s.mem := by unfold passOver; split <;> rfl
@[simp] theorem passOver_cores (s : State) (k : Nat) : (passOver s k).cores = s.cores := by unfold passOver; split <;> rfl
@[simp] theorem passOver_hub (s : State) (k : Nat) : (passOver s k).hub = s.hub := by unfold passOver; split <;> rfl
@[simp] theorem passOver_clock (s : State) (k : Nat) : (passOver s k).clock = s.clock := by unfold passOver; split <;> rfl
@[simp] theorem passOver_cur (s : State) (k : Nat) : (passOver s k).cur = s.cur := by unfold passOver; split <;> rfl
@[simp] theorem passOver_grp (s : State) (k : Nat) : (passOver s k).grp = s.grp := by unfold passOver; split <;> rfl
@[simp] theorem passOver_agenda (s : State) (k : Nat) : (passOver s k).agenda = s.agenda := by unfold passOver; split <;> rfl
@[simp] theorem passOver_free (s : State) (k : Nat) : (passOver s k).free = s.free := by unfold passOver; split <;> rfl
@[simp] theorem passOver_force (s : State) (k : Nat) : (passOver s k).force = none := by
  unfold passOver
  split
  · rfl
  · rename_i h; simpa using h

/-! ### `modDom` -/

@[simp] theorem modDom_mem (s : State) (a : Nat) (f : Domain → Domain) : (modDom s a f).mem = s.mem := rfl
@[simp] theorem modDom_cores (s : State) (a : Nat) (f : Domain → Domain) : (modDom s a f).cores = s.cores := rfl
@[simp] theorem modDom_tasks (s : State) (a : Nat) (f : Domain → Domain) : (modDom s a f).tasks = s.tasks := rfl
@[simp] theorem modDom_hub (s : State) (a : Nat) (f : Domain → Domain) : (modDom s a f).hub = { s.hub with doms := tabMod a f s.hub.doms } := rfl
@[simp] theorem modDom_clock (s : State) (a : Nat) (f : Domain → Domain) : (modDom s a f).clock = s.clock := rfl
@[simp] theorem modDom_cur (s : State) (a : Nat) (f : Domain → Domain) : (modDom s a f).cur = s.cur := rfl
@[simp] theorem modDom_scan (s : State) (a : Nat) (f : Domain → Domain) : (modDom s a f).scan = s.scan := rfl
@[simp] theorem modDom_force (s : State) (a : Nat) (f : Domain → Domain) : (modDom s a f).force = s.force := rfl
@[simp] theorem modDom_grp (s : State) (a : Nat) (f : Domain → Domain) : (modDom s a f).grp = s.grp := rfl
@[simp] theorem modDom_agenda (s : State) (a : Nat) (f : Domain → Domain) : (modDom s a f).agenda = s.agenda := rfl
@[simp] theorem modDom_free (s : State) (a : Nat) (f : Domain → Domain) : (modDom s a f).free = s.free := rfl

/-! ### Tasks after updates -/

@[simp] theorem taskAt_setTask (s : State) (k j : Nat) (t : Task) :
    taskAt (setTask s k t) j = if j = k then some t else taskAt s j := tabFind_tabSet _ _ _ _

@[simp] theorem taskAt_modTask (s : State) (k j : Nat) (f : Task → Task) :
    taskAt (modTask s k f) j = if j = k then (taskAt s k).map f else taskAt s j := tabFind_tabMod _ _ _ _

@[simp] theorem curTask_modCur (s : State) (f : Task → Task) : curTask (modCur s f) = (curTask s).map f :=
  tabFind_tabMod_self _ _ _

@[simp] theorem taskAt_modCur (s : State) (j : Nat) (f : Task → Task) :
    taskAt (modCur s f) j = if j = s.cur then (curTask s).map f else taskAt s j := tabFind_tabMod _ _ _ _

@[simp] theorem curTask_modHub (s : State) (f : Hub → Hub) : curTask (modHub s f) = curTask s := rfl
@[simp] theorem taskAt_modHub (s : State) (f : Hub → Hub) (j : Nat) : taskAt (modHub s f) j = taskAt s j := rfl
@[simp] theorem curTask_withResult (s : State) (r : Result) : curTask (withResult s r) = curTask s := rfl
@[simp] theorem taskAt_withResult (s : State) (r : Result) (j : Nat) : taskAt (withResult s r) j = taskAt s j := rfl
@[simp] theorem curTask_counted (s : State) :
    curTask (counted s) = (curTask s).map (fun t => { t with icount := t.icount + 1 }) := tabFind_tabMod_self _ _ _
@[simp] theorem curTask_transferTo (s : State) (pc : Word) : curTask (transferTo s pc) =
    (curTask s).map (fun u => { u with pc := pc, fbuf := none, nextIssue := s.clock + 3 }) := tabFind_tabMod_self _ _ _
@[simp] theorem curTask_writeS (s : State) (n : Nat) (v : Word) (p : Bool) (l : Nat) : curTask (writeS s n v p l) =
    (curTask s).map (fun t => mark s { t with regs := putS t.regs n v p } n l) := tabFind_tabMod_self _ _ _
@[simp] theorem curTask_writeV (s : State) (n : Nat) (v : Vec) (p : BitVec 32) (l : Nat) : curTask (writeV s n v p l) =
    (curTask s).map (fun t => mark s { t with regs := putV t.regs n v p } (vKey n) l) := tabFind_tabMod_self _ _ _
@[simp] theorem curTask_writeM (s : State) (n : Nat) (v : Mask) (p : Bool) (l : Nat) : curTask (writeM s n v p l) =
    (curTask s).map (fun t => mark s { t with regs := putM t.regs n v p } (mKey n) l) := tabFind_tabMod_self _ _ _

/-! ### `mark` touches the scoreboard alone -/

@[simp] theorem mark_regs (s : State) (t : Task) (k l : Nat) : (mark s t k l).regs = t.regs := by unfold mark; split <;> rfl
@[simp] theorem mark_pc (s : State) (t : Task) (k l : Nat) : (mark s t k l).pc = t.pc := by unfold mark; split <;> rfl
@[simp] theorem mark_st (s : State) (t : Task) (k l : Nat) : (mark s t k l).st = t.st := by unfold mark; split <;> rfl
@[simp] theorem mark_fs (s : State) (t : Task) (k l : Nat) : (mark s t k l).fs = t.fs := by unfold mark; split <;> rfl
@[simp] theorem mark_srs (s : State) (t : Task) (k l : Nat) : (mark s t k l).srs = t.srs := by unfold mark; split <;> rfl
@[simp] theorem mark_icount (s : State) (t : Task) (k l : Nat) : (mark s t k l).icount = t.icount := by
  unfold mark; split <;> rfl
@[simp] theorem mark_handler (s : State) (t : Task) (k l : Nat) : (mark s t k l).handler = t.handler := by
  unfold mark; split <;> rfl
@[simp] theorem mark_acq (s : State) (t : Task) (k l : Nat) : (mark s t k l).acq = t.acq := by unfold mark; split <;> rfl
@[simp] theorem mark_retry (s : State) (t : Task) (k l : Nat) : (mark s t k l).retry = t.retry := by
  unfold mark; split <;> rfl

end Sys2Proof.Machine
end

