-- ==== Sys2Proof/Laws/Regs.lean ====
section
/-!
SUPPORT. Laws of the register file: what a register reads as after a write, s0 and m0 included (R231).
-/

namespace Sys2Proof.Machine

@[simp] theorem getS_zero (r : Regs) : getS r 0 = 0 := rfl
@[simp] theorem getM_zero (r : Regs) : getM r 0 = maskOnes := rfl
@[simp] theorem poiS_zero (r : Regs) : poiS r 0 = false := rfl

theorem getS_putS (r : Regs) (d n : Nat) (v : Word) (p : Bool) :
    getS (putS r d v p) n = if n = d ∧ d ≠ 0 then v else getS r n := by
  unfold putS getS
  by_cases hd : d = 0
  · subst hd; simp
  · by_cases hn : n = 0
    · subst hn; simp [hd]; intro h; exact absurd h.symm hd
    · simp only [hd, hn, if_false, tabGet_tabPut]
      by_cases h : n = d <;> simp [h, hd]

theorem getM_putM (r : Regs) (d n : Nat) (v : Mask) (p : Bool) :
    getM (putM r d v p) n = if n = d ∧ d ≠ 0 then v else getM r n := by
  unfold putM getM
  by_cases hd : d = 0
  · subst hd; simp only [ne_eq, not_true_eq_false, and_false, if_false, if_true]
  · by_cases hn : n = 0
    · subst hn; simp only [hd, if_false, if_true, ne_eq, not_false_eq_true, and_true, Ne.symm hd]
    · simp only [hd, hn, if_false, tabGet_tabPut]
      by_cases h : n = d <;> simp [h, hd]

theorem getV_putV (r : Regs) (d n : Nat) (v : Vec) (p : BitVec 32) :
    getV (putV r d v p) n = if n = d then v else getV r n := by
  simp only [putV, getV, tabGet_tabPut]

theorem poiV_putV (r : Regs) (d n : Nat) (v : Vec) (p : BitVec 32) :
    poiV (putV r d v p) n = if n = d then p else poiV r n := by
  simp only [putV, poiV, tabGet_tabPut]

theorem getLsbD_putBit {w : Nat} (x : BitVec w) (n i : Nat) (b : Bool) (hn : n < w) :
    (putBit x n b).getLsbD i = if i = n then b else x.getLsbD i := by
  unfold putBit
  cases b <;> simp only [Bool.false_eq_true, if_false, if_true]
  · simp only [BitVec.getLsbD_and, BitVec.getLsbD_not, BitVec.getLsbD_shiftLeft, BitVec.getLsbD_one]
    by_cases h : i = n
    · subst h; simp; omega
    · have : ¬(i - n = 0 ∧ n ≤ i) := by omega
      by_cases hi : i < w
      · simp [h, hi]; intro hx; omega
      · simp [h, hi, BitVec.getLsbD_of_ge x i (by omega)]
  · simp only [BitVec.getLsbD_or, BitVec.getLsbD_shiftLeft, BitVec.getLsbD_one]
    by_cases h : i = n
    · subst h; simp [hn]; right; omega
    · simp [h]; intro h1 h2 h3; omega

theorem poiS_putS (r : Regs) (d n : Nat) (v : Word) (p : Bool) (hd : d < 64) :
    poiS (putS r d v p) n = if n = d ∧ d ≠ 0 then p else poiS r n := by
  unfold putS poiS
  by_cases h0 : d = 0
  · subst h0; simp
  · by_cases hn : n = 0
    · subst hn; simp [h0]; intro h; exact absurd h.symm h0
    · simp only [h0, hn, if_false, getLsbD_putBit _ _ _ _ hd]
      by_cases h : n = d <;> simp [h, h0]

@[simp] theorem putS_v (r : Regs) (d : Nat) (v : Word) (p : Bool) : (putS r d v p).v = r.v := by unfold putS; split <;> rfl
@[simp] theorem putS_m (r : Regs) (d : Nat) (v : Word) (p : Bool) : (putS r d v p).m = r.m := by unfold putS; split <;> rfl
@[simp] theorem putS_vPoi (r : Regs) (d : Nat) (v : Word) (p : Bool) : (putS r d v p).vPoi = r.vPoi := by
  unfold putS; split <;> rfl
@[simp] theorem putS_mPoi (r : Regs) (d : Nat) (v : Word) (p : Bool) : (putS r d v p).mPoi = r.mPoi := by
  unfold putS; split <;> rfl
@[simp] theorem putV_s (r : Regs) (d : Nat) (v : Vec) (p : BitVec 32) : (putV r d v p).s = r.s := rfl
@[simp] theorem putV_m (r : Regs) (d : Nat) (v : Vec) (p : BitVec 32) : (putV r d v p).m = r.m := rfl
@[simp] theorem putV_sPoi (r : Regs) (d : Nat) (v : Vec) (p : BitVec 32) : (putV r d v p).sPoi = r.sPoi := rfl
@[simp] theorem putV_mPoi (r : Regs) (d : Nat) (v : Vec) (p : BitVec 32) : (putV r d v p).mPoi = r.mPoi := rfl
@[simp] theorem putM_s (r : Regs) (d : Nat) (v : Mask) (p : Bool) : (putM r d v p).s = r.s := by unfold putM; split <;> rfl
@[simp] theorem putM_v (r : Regs) (d : Nat) (v : Mask) (p : Bool) : (putM r d v p).v = r.v := by unfold putM; split <;> rfl
@[simp] theorem putM_sPoi (r : Regs) (d : Nat) (v : Mask) (p : Bool) : (putM r d v p).sPoi = r.sPoi := by
  unfold putM; split <;> rfl
@[simp] theorem putM_vPoi (r : Regs) (d : Nat) (v : Mask) (p : Bool) : (putM r d v p).vPoi = r.vPoi := by
  unfold putM; split <;> rfl

end Sys2Proof.Machine
end

