-- ==== Sys2Proof/Laws/Ops.lean ====
section
/-!
SUPPORT. What the shared operations of `Machine/Ops.lean` can do, said once: the frame of an instruction (`runIsa`), what
each effect settles to, taking an exception and returning from one.
-/

namespace Sys2Proof.Machine

/-! ### The frame of an instruction -/

/-- All that an ISA meaning can do: hold where no task can issue at `cur`; trap when it is ill-formed or names a vector
register at or above VREGS; otherwise settle its effect. -/
theorem runIsa_cases (i : Instr) (s : State) (eff : Task → Eff) :
    (runIsa i s eff = .next (withResult s .held) ∧ ∀ t, curTask s = some t → t.st ≠ .ready ∧ s.grp.snap = none) ∨
    (∃ t, curTask s = some t ∧ (t.st = .ready ∨ s.grp.snap ≠ none) ∧
      ((i.wf = false ∨ ∃ n ∈ vectorNames i, t.vregs ≤ n) ∧
          runIsa i s eff = .next (settle s t (trapOf s .illegalInstr)) ∨
        i.wf = true ∧ (∀ n ∈ vectorNames i, n < t.vregs) ∧ runIsa i s eff = .next (settle s t (eff t)))) := by
  unfold runIsa
  cases h : curTask s with
  | none => exact .inl ⟨rfl, by simp⟩
  | some t =>
    simp only [Option.some.injEq, forall_eq', exists_eq_left']
    by_cases hr : t.st = .ready ∨ s.grp.snap ≠ none
    · right
      refine ⟨hr, ?_⟩
      have hq : ¬((decide (t.st ≠ .ready) && s.grp.snap.isNone) = true) := by
        cases hs : s.grp.snap <;> simp_all
      rw [if_neg hq]
      by_cases hb : (!i.wf || (vectorNames i).any fun n => decide (t.vregs ≤ n)) = true
      · left
        refine ⟨?_, by rw [if_pos hb]⟩
        simpa [List.any_eq_true] using hb
      · right
        rw [if_neg hb]
        simp only [Bool.or_eq_true, Bool.not_eq_true', not_or, Bool.not_eq_false, List.any_eq_true,
          decide_eq_true_eq, not_exists, not_and, Nat.not_le] at hb
        exact ⟨hb.1, hb.2, rfl⟩
    · left
      rw [not_or, not_not] at hr
      exact ⟨by simp [hr], hr⟩

/-- A well-formed instruction of a task that can issue settles its effect. -/
theorem runIsa_eq (i : Instr) (s : State) (t : Task) (eff : Task → Eff) (ht : curTask s = some t) (hr : t.st = .ready)
    (hw : i.wf = true) (hv : ∀ n ∈ vectorNames i, n < t.vregs) : runIsa i s eff = .next (settle s t (eff t)) := by
  rcases runIsa_cases i s eff with ⟨_, h⟩ | ⟨t', ht', _, h⟩
  · exact absurd hr (h t ht).1
  · obtain rfl : t = t' := by simpa [ht] using ht'
    rcases h with ⟨h | ⟨n, hn, hle⟩, _⟩ | ⟨_, _, h⟩
    · simp [hw] at h
    · have := hv n hn; omega
    · exact h

/-- An ISA meaning answers a next state. -/
theorem runIsa_next (i : Instr) (s : State) (eff : Task → Eff) : ∃ u, runIsa i s eff = .next u := by
  rcases runIsa_cases i s eff with ⟨h, _⟩ | ⟨_, _, _, ⟨_, h⟩ | ⟨_, _, h⟩⟩ <;> exact ⟨_, h⟩

/-! ### What an effect settles to -/

theorem settle_ok (s s' : State) (t : Task) : settle s t (.ok s') = withResult (counted (fallThrough s' t)) .retired := rfl
theorem settle_goto (s s' : State) (t : Task) (pc : Word) :
    settle s t (.goto s' pc) = withResult (counted (transferTo s' pc)) .retired := rfl
theorem settle_placed (s s' : State) (t : Task) : settle s t (.placed s') = withResult s' .retired := rfl
theorem settle_hold (s : State) (t : Task) : settle s t .hold = withResult s .held := rfl
theorem settle_holdIn (s s' : State) (t : Task) : settle s t (.holdIn s') = withResult s' .held := rfl

@[simp] theorem fallThrough_mem (s : State) (t : Task) : (fallThrough s t).mem = s.mem := by
  unfold fallThrough; split <;> rfl
@[simp] theorem fallThrough_cores (s : State) (t : Task) : (fallThrough s t).cores = s.cores := by
  unfold fallThrough; split <;> rfl
@[simp] theorem fallThrough_hub (s : State) (t : Task) : (fallThrough s t).hub = s.hub := by
  unfold fallThrough; split <;> rfl
@[simp] theorem fallThrough_clock (s : State) (t : Task) : (fallThrough s t).clock = s.clock := by
  unfold fallThrough; split <;> rfl
@[simp] theorem fallThrough_cur (s : State) (t : Task) : (fallThrough s t).cur = s.cur := by
  unfold fallThrough; split <;> rfl
@[simp] theorem fallThrough_grp (s : State) (t : Task) : (fallThrough s t).grp = s.grp := by
  unfold fallThrough; split <;> rfl
@[simp] theorem fallThrough_scan (s : State) (t : Task) : (fallThrough s t).scan = s.scan := by
  unfold fallThrough; split <;> rfl
@[simp] theorem fallThrough_force (s : State) (t : Task) : (fallThrough s t).force = s.force := by
  unfold fallThrough; split <;> rfl
@[simp] theorem fallThrough_agenda (s : State) (t : Task) : (fallThrough s t).agenda = s.agenda := by
  unfold fallThrough; split <;> rfl
@[simp] theorem fallThrough_free (s : State) (t : Task) : (fallThrough s t).free = s.free := by
  unfold fallThrough; split <;> rfl
@[simp] theorem curTask_fallThrough (s : State) (t : Task) : curTask (fallThrough s t) =
    (curTask s).map (fun u => { u with pc := if s.grp.second then u.pc else nextPc s t }) := by
  unfold fallThrough
  cases h : curTask s <;> split <;> simp_all

/-- A trap that is not held back changes only memory, the hub's records and the trapping task (R172, R174): what follows
says where an exception is taken. -/
theorem trapEnter_taken (s : State) (key : Nat) (t : Task) (tr : Trap) (ht : taskAt s key = some t)
    (hh : t.handler = false) (h0 : trapHandler s t.asid ≠ 0) (hp : savePending s t = false)
    (harea : pinnedFault s t.asid (trapAreaVa s t.asid) 8 = none)
    (hpin : pinnedFault s t.asid (trapFrameVa s t.asid key) 256 = none) :
    trapEnter s key tr = withResult (tailIndirect (modTask
      (vwritePoi s t.asid (trapFrameVa s t.asid key) (frameBytes s t tr) (frameByteFlags (framePoison t))) key
      (fun u => { u with
        handler := true, framePoi := framePoison t, pc := trapHandler s t.asid, fbuf := none, entryCheck := true
        regs := putS (putS u.regs 1 (BitVec.ofNat 64 tr.cause.value) false) 2
          (BitVec.ofNat 64 (trapFrameVa s t.asid key)) false
        retry := u.retry.map (fun r => { r with inFrame := true }) })) key t.asid (trapHandler s t.asid) 3) .trapped := by
  unfold trapEnter
  simp only [ht, hh, Bool.false_eq_true, if_false, h0, hp, harea, hpin]

/-- In a handler whose trap frame is pinned, a trap is a double fault (R174, R182). -/
theorem trapEnter_double (s : State) (key : Nat) (t : Task) (tr : Trap) (ht : taskAt s key = some t)
    (hh : t.handler = true) (hpin : pinnedFault s t.asid (trapFrameVa s t.asid key) 256 = none) :
    trapEnter s key tr = withResult
      (doubleFault s key (natBits (frameWord s t key 3).toNat 0 8) tr.cause.value (ownPc s t)) .trapped := by
  unfold trapEnter
  simp only [ht, hh, if_true, hpin]

end Sys2Proof.Machine
end

