-- ==== Sys2Proof/Laws/PerInstr.lean ====
section
/-!
SUPPORT. One lemma per constructor of `Instr`, about the instruction as syntax: an instruction of the ISA is encoded under
an opcode of the ranges of R229.
-/

namespace Sys2Proof.Laws.Opcode

/-- The opcodes of R229, each with a format or with none. -/
def assigned (op : Nat) : Bool :=
  [(0x00, 0x1E), (0x20, 0x29), (0x30, 0x34), (0x40, 0x78), (0x80, 0x8E), (0xA0, 0xAB), (0xB0, 0xB5), (0xBC, 0xC7),
    (0xD0, 0xD3), (0xD8, 0xDB)].any (fun r => decide (r.1 ≤ op) && decide (op ≤ r.2))

/-- An instruction of the ISA is encoded under an assigned opcode. -/
def Statement (i : Instr) : Prop := i.isIsa = true → assigned ((encode i).extractLsb' 88 8).toNat = true

/-! ### The opcode of each format -/

theorem opcode_append {n m : Nat} (lo : Nat) (a : BitVec n) (b : BitVec m) (h : m ≤ lo) :
    (a ++ b).extractLsb' lo 8 = a.extractLsb' (lo - m) 8 := by
  ext i hi
  simp only [BitVec.getElem_extractLsb', BitVec.getLsbD_append]
  rw [if_neg (by omega), show lo + i - m = lo - m + i by omega]

theorem opcode_self (op : BitVec 8) : op.extractLsb' 0 8 = op := by
  ext i hi; simp

theorem opcode_fmtS (op : BitVec 8) (f : FmtS) : (f.toBits op).extractLsb' 88 8 = op := by
  unfold FmtS.toBits
  iterate 10 rw [opcode_append _ _ _ (by decide)]
  exact opcode_self op

theorem opcode_fmtV (op : BitVec 8) (f : FmtV) : (f.toBits op).extractLsb' 88 8 = op := by
  unfold FmtV.toBits
  iterate 14 rw [opcode_append _ _ _ (by decide)]
  exact opcode_self op

theorem opcode_fmtM (op : BitVec 8) (f : FmtM) : (f.toBits op).extractLsb' 88 8 = op := by
  unfold FmtM.toBits
  iterate 13 rw [opcode_append _ _ _ (by decide)]
  exact opcode_self op

theorem opcode_fmtB (op : BitVec 8) (f : FmtB) : (f.toBits op).extractLsb' 88 8 = op := by
  unfold FmtB.toBits
  iterate 7 rw [opcode_append _ _ _ (by decide)]
  exact opcode_self op

theorem opcode_fmtJ (op : BitVec 8) (f : FmtJ) : (f.toBits op).extractLsb' 88 8 = op := by
  unfold FmtJ.toBits
  iterate 11 rw [opcode_append _ _ _ (by decide)]
  exact opcode_self op

theorem opcode_fmtG (op : BitVec 8) (f : FmtG) : (f.toBits op).extractLsb' 88 8 = op := by
  unfold FmtG.toBits
  iterate 10 rw [opcode_append _ _ _ (by decide)]
  exact opcode_self op

theorem opcode_fmtY (op : BitVec 8) (f : FmtY) : (f.toBits op).extractLsb' 88 8 = op := by
  unfold FmtY.toBits
  iterate 7 rw [opcode_append _ _ _ (by decide)]
  exact opcode_self op

theorem opcode_ok (b : Slot96) (op : BitVec 8) (h : b.extractLsb' 88 8 = op) (ho : assigned op.toNat = true) :
    assigned (b.extractLsb' 88 8).toNat = true := by
  rw [h]; exact ho

/-! ### The instructions -/

theorem bringupComplete (b : BringUp) : Statement (.bringupComplete b) := fun h => absurd h Bool.false_ne_true
theorem linkRetrainFail (link : Nat) : Statement (.linkRetrainFail link) := fun h => absurd h Bool.false_ne_true
theorem powerLimitStep (r : PowerReading) : Statement (.powerLimitStep r) := fun h => absurd h Bool.false_ne_true
theorem thermalLimitStep (hottest : Nat) : Statement (.thermalLimitStep hottest) := fun h => absurd h Bool.false_ne_true
theorem thermalTrip (hottest : Nat) : Statement (.thermalTrip hottest) := fun h => absurd h Bool.false_ne_true
theorem unitQuarantine (q : QuarantineIn) : Statement (.unitQuarantine q) := fun h => absurd h Bool.false_ne_true
theorem sqTailWrite (queue newTail : Nat) : Statement (.sqTailWrite queue newTail) := fun h => absurd h Bool.false_ne_true
theorem sqStoppedClear (queue : Nat) : Statement (.sqStoppedClear queue) := fun h => absurd h Bool.false_ne_true
theorem registerWrite (w : BarWrite) : Statement (.registerWrite w) := fun h => absurd h Bool.false_ne_true
theorem msixUnmask (vector : Nat) (mask : Bool) : Statement (.msixUnmask vector mask) := fun h => absurd h Bool.false_ne_true
theorem sqNopRecord (q : RecordFetch) : Statement (.sqNopRecord q) := fun h => absurd h Bool.false_ne_true
theorem sqJobRecord (q : RecordFetch) : Statement (.sqJobRecord q) := fun h => absurd h Bool.false_ne_true
theorem sqLaunchRecord (q : RecordFetch) : Statement (.sqLaunchRecord q) := fun h => absurd h Bool.false_ne_true
theorem sqGraphRecord (q : RecordFetch) : Statement (.sqGraphRecord q) := fun h => absurd h Bool.false_ne_true
theorem sqWaitRecord (q : RecordFetch) : Statement (.sqWaitRecord q) := fun h => absurd h Bool.false_ne_true
theorem sqWaitDone (queue : Nat) : Statement (.sqWaitDone queue) := fun h => absurd h Bool.false_ne_true
theorem sqCancelRecord (q : RecordFetch) : Statement (.sqCancelRecord q) := fun h => absurd h Bool.false_ne_true
theorem domCreate (a : AdminFetch) (place : DomPlace) : Statement (.domCreate a place) := fun h => absurd h Bool.false_ne_true
theorem domRevoke (a : AdminFetch) : Statement (.domRevoke a) := fun h => absurd h Bool.false_ne_true
theorem domKill (a : AdminFetch) : Statement (.domKill a) := fun h => absurd h Bool.false_ne_true
theorem domDestroy (a : AdminFetch) : Statement (.domDestroy a) := fun h => absurd h Bool.false_ne_true
theorem aditPublish (a : AdminFetch) : Statement (.aditPublish a) := fun h => absurd h Bool.false_ne_true
theorem aditGrant (a : AdminFetch) : Statement (.aditGrant a) := fun h => absurd h Bool.false_ne_true
theorem aditRevoke (a : AdminFetch) : Statement (.aditRevoke a) := fun h => absurd h Bool.false_ne_true
theorem epGrant (a : AdminFetch) : Statement (.epGrant a) := fun h => absurd h Bool.false_ne_true
theorem vecGrant (a : AdminFetch) : Statement (.vecGrant a) := fun h => absurd h Bool.false_ne_true
theorem setAllot (a : AdminFetch) : Statement (.setAllot a) := fun h => absurd h Bool.false_ne_true
theorem keyImport (a : AdminFetch) : Statement (.keyImport a) := fun h => absurd h Bool.false_ne_true
theorem attest (a : AdminFetch) : Statement (.attest a) := fun h => absurd h Bool.false_ne_true
theorem getNonce (a : AdminFetch) : Statement (.getNonce a) := fun h => absurd h Bool.false_ne_true
theorem lifecycle (a : AdminFetch) : Statement (.lifecycle a) := fun h => absurd h Bool.false_ne_true
theorem msixTimerExpiry (vector : Nat) : Statement (.msixTimerExpiry vector) := fun h => absurd h Bool.false_ne_true
theorem msixMessageIssued (vector : Nat) : Statement (.msixMessageIssued vector) := fun h => absurd h Bool.false_ne_true
theorem hostAccessError (f : HostFail) : Statement (.hostAccessError f) := fun h => absurd h Bool.false_ne_true
theorem hostAccessTimeout (f : HostFail) : Statement (.hostAccessTimeout f) := fun h => absurd h Bool.false_ne_true
theorem memoryAccessComplete (m : AccessDone) : Statement (.memoryAccessComplete m) := fun h => absurd h Bool.false_ne_true
theorem translationInvalidate (r : VaRange) : Statement (.translationInvalidate r) := fun h => absurd h Bool.false_ne_true
theorem icacheFill (l : LineFill) : Statement (.icacheFill l) := fun h => absurd h Bool.false_ne_true
theorem launchStart (launchId : Nat) : Statement (.launchStart launchId) := fun h => absurd h Bool.false_ne_true
theorem dispatchTaskStart (d : DispatchPick) : Statement (.dispatchTaskStart d) := fun h => absurd h Bool.false_ne_true
theorem dispatchResume (d : DispatchPick) : Statement (.dispatchResume d) := fun h => absurd h Bool.false_ne_true
theorem messageArrival (message : Nat) : Statement (.messageArrival message) := fun h => absurd h Bool.false_ne_true
theorem taskAdmit (core : Nat) : Statement (.taskAdmit core) := fun h => absurd h Bool.false_ne_true
theorem budgetExpiry (slot : Nat) : Statement (.budgetExpiry slot) := fun h => absurd h Bool.false_ne_true
theorem timeSliceEnd (asid next : Nat) : Statement (.timeSliceEnd asid next) := fun h => absurd h Bool.false_ne_true
theorem preemptSave (slot : Nat) : Statement (.preemptSave slot) := fun h => absurd h Bool.false_ne_true
theorem taskFinish (slot : Nat) : Statement (.taskFinish slot) := fun h => absurd h Bool.false_ne_true
theorem graphArm (walker : Nat) : Statement (.graphArm walker) := fun h => absurd h Bool.false_ne_true
theorem graphNodeLaunch (walker : Nat) : Statement (.graphNodeLaunch walker) := fun h => absurd h Bool.false_ne_true
theorem graphNodeWait (walker : Nat) : Statement (.graphNodeWait walker) := fun h => absurd h Bool.false_ne_true
theorem graphWaitDone (walker : Nat) : Statement (.graphWaitDone walker) := fun h => absurd h Bool.false_ne_true
theorem graphNodeCond (walker : Nat) : Statement (.graphNodeCond walker) := fun h => absurd h Bool.false_ne_true
theorem graphNodeHost (walker : Nat) : Statement (.graphNodeHost walker) := fun h => absurd h Bool.false_ne_true
theorem graphNodeEnd (walker : Nat) : Statement (.graphNodeEnd walker) := fun h => absurd h Bool.false_ne_true
theorem feWake (slot : Nat) : Statement (.feWake slot) := fun h => absurd h Bool.false_ne_true
theorem monitorWake (slot : Nat) : Statement (.monitorWake slot) := fun h => absurd h Bool.false_ne_true
theorem monitorSweep (core : Nat) : Statement (.monitorSweep core) := fun h => absurd h Bool.false_ne_true
theorem acqRetryPass (slot : Nat) : Statement (.acqRetryPass slot) := fun h => absurd h Bool.false_ne_true
theorem recvWake (slot : Nat) : Statement (.recvWake slot) := fun h => absurd h Bool.false_ne_true
theorem jobWaitDone (slot : Nat) : Statement (.jobWaitDone slot) := fun h => absurd h Bool.false_ne_true
theorem jobAccept (cluster : Nat) : Statement (.jobAccept cluster) := fun h => absurd h Bool.false_ne_true
theorem engineJobStart (cluster engine : Nat) : Statement (.engineJobStart cluster engine) := fun h => absurd h Bool.false_ne_true
theorem engineAcquireGranted (cluster job : Nat) : Statement (.engineAcquireGranted cluster job) := fun h => absurd h Bool.false_ne_true
theorem engineJobComplete (cluster job : Nat) : Statement (.engineJobComplete cluster job) := fun h => absurd h Bool.false_ne_true
theorem dataFaultDelivery (slot : Nat) : Statement (.dataFaultDelivery slot) := fun h => absurd h Bool.false_ne_true
theorem gateMoveDone (slot : Nat) : Statement (.gateMoveDone slot) := fun h => absurd h Bool.false_ne_true
theorem cleanupReserveOut (slot : Nat) : Statement (.cleanupReserveOut slot) := fun h => absurd h Bool.false_ne_true
theorem debugSessionOpen (d : SessionOpen) : Statement (.debugSessionOpen d) := fun h => absurd h Bool.false_ne_true
theorem halt (c : DebugCmd) : Statement (.halt c) := fun h => absurd h Bool.false_ne_true
theorem debugResume (c : DebugCmd) : Statement (.debugResume c) := fun h => absurd h Bool.false_ne_true
theorem readTask (c : DebugCmd) : Statement (.readTask c) := fun h => absurd h Bool.false_ne_true
theorem readMem (c : DebugCmd) : Statement (.readMem c) := fun h => absurd h Bool.false_ne_true
theorem writeMem (c : DebugCmd) : Statement (.writeMem c) := fun h => absurd h Bool.false_ne_true
theorem setBp (c : DebugCmd) : Statement (.setBp c) := fun h => absurd h Bool.false_ne_true
theorem setWp (c : DebugCmd) : Statement (.setWp c) := fun h => absurd h Bool.false_ne_true
theorem tail (c : DebugCmd) : Statement (.tail c) := fun h => absurd h Bool.false_ne_true
theorem acct (c : DebugCmd) : Statement (.acct c) := fun h => absurd h Bool.false_ne_true
theorem slog (c : DebugCmd) : Statement (.slog c) := fun h => absurd h Bool.false_ne_true
theorem rewind (c : DebugCmd) : Statement (.rewind c) := fun h => absurd h Bool.false_ne_true
theorem replay (c : DebugCmd) : Statement (.replay c) := fun h => absurd h Bool.false_ne_true
theorem replayStop (asid : Nat) : Statement (.replayStop asid) := fun h => absurd h Bool.false_ne_true
theorem stepback (c : DebugCmd) : Statement (.stepback c) := fun h => absurd h Bool.false_ne_true
theorem release (c : DebugCmd) : Statement (.release c) := fun h => absurd h Bool.false_ne_true
theorem tailLostPacket (core : Nat) : Statement (.tailLostPacket core) := fun h => absurd h Bool.false_ne_true
theorem ill (bits : BitVec 88) : Statement (.ill bits) := fun _ => opcode_ok _ 0 ((opcode_append _ _ _ (by decide)).trans (opcode_self _)) rfl
theorem add (f : FmtS) : Statement (.add f) := fun _ => opcode_ok _ _ (opcode_fmtS _ f) rfl
theorem sub (f : FmtS) : Statement (.sub f) := fun _ => opcode_ok _ _ (opcode_fmtS _ f) rfl
theorem mul (f : FmtS) : Statement (.mul f) := fun _ => opcode_ok _ _ (opcode_fmtS _ f) rfl
theorem mulh (f : FmtS) : Statement (.mulh f) := fun _ => opcode_ok _ _ (opcode_fmtS _ f) rfl
theorem div (f : FmtS) : Statement (.div f) := fun _ => opcode_ok _ _ (opcode_fmtS _ f) rfl
theorem rem (f : FmtS) : Statement (.rem f) := fun _ => opcode_ok _ _ (opcode_fmtS _ f) rfl
theorem and (f : FmtS) : Statement (.and f) := fun _ => opcode_ok _ _ (opcode_fmtS _ f) rfl
theorem or (f : FmtS) : Statement (.or f) := fun _ => opcode_ok _ _ (opcode_fmtS _ f) rfl
theorem xor (f : FmtS) : Statement (.xor f) := fun _ => opcode_ok _ _ (opcode_fmtS _ f) rfl
theorem andn (f : FmtS) : Statement (.andn f) := fun _ => opcode_ok _ _ (opcode_fmtS _ f) rfl
theorem shl (f : FmtS) : Statement (.shl f) := fun _ => opcode_ok _ _ (opcode_fmtS _ f) rfl
theorem shr (f : FmtS) : Statement (.shr f) := fun _ => opcode_ok _ _ (opcode_fmtS _ f) rfl
theorem sra (f : FmtS) : Statement (.sra f) := fun _ => opcode_ok _ _ (opcode_fmtS _ f) rfl
theorem rot (f : FmtS) : Statement (.rot f) := fun _ => opcode_ok _ _ (opcode_fmtS _ f) rfl
theorem min (f : FmtS) : Statement (.min f) := fun _ => opcode_ok _ _ (opcode_fmtS _ f) rfl
theorem max (f : FmtS) : Statement (.max f) := fun _ => opcode_ok _ _ (opcode_fmtS _ f) rfl
theorem cmp (f : FmtS) : Statement (.cmp f) := fun _ => opcode_ok _ _ (opcode_fmtS _ f) rfl
theorem sel (f : FmtS) : Statement (.sel f) := fun _ => opcode_ok _ _ (opcode_fmtS _ f) rfl
theorem mov (f : FmtS) : Statement (.mov f) := fun _ => opcode_ok _ _ (opcode_fmtS _ f) rfl
theorem lih (f : FmtS) : Statement (.lih f) := fun _ => opcode_ok _ _ (opcode_fmtS _ f) rfl
theorem clz (f : FmtS) : Statement (.clz f) := fun _ => opcode_ok _ _ (opcode_fmtS _ f) rfl
theorem ctz (f : FmtS) : Statement (.ctz f) := fun _ => opcode_ok _ _ (opcode_fmtS _ f) rfl
theorem popc (f : FmtS) : Statement (.popc f) := fun _ => opcode_ok _ _ (opcode_fmtS _ f) rfl
theorem bext (f : FmtS) : Statement (.bext f) := fun _ => opcode_ok _ _ (opcode_fmtS _ f) rfl
theorem bins (f : FmtS) : Statement (.bins f) := fun _ => opcode_ok _ _ (opcode_fmtS _ f) rfl
theorem lea (f : FmtS) : Statement (.lea f) := fun _ => opcode_ok _ _ (opcode_fmtS _ f) rfl
theorem abs (f : FmtS) : Statement (.abs f) := fun _ => opcode_ok _ _ (opcode_fmtS _ f) rfl
theorem ext (f : FmtS) : Statement (.ext f) := fun _ => opcode_ok _ _ (opcode_fmtS _ f) rfl
theorem bswap (f : FmtS) : Statement (.bswap f) := fun _ => opcode_ok _ _ (opcode_fmtS _ f) rfl
theorem br (f : FmtB) : Statement (.br f) := fun _ => opcode_ok _ _ (opcode_fmtB _ f) rfl
theorem jmp (f : FmtB) : Statement (.jmp f) := fun _ => opcode_ok _ _ (opcode_fmtB _ f) rfl
theorem call (f : FmtB) : Statement (.call f) := fun _ => opcode_ok _ _ (opcode_fmtB _ f) rfl
theorem calli (f : FmtB) : Statement (.calli f) := fun _ => opcode_ok _ _ (opcode_fmtB _ f) rfl
theorem ret (f : FmtB) : Statement (.ret f) := fun _ => opcode_ok _ _ (opcode_fmtB _ f) rfl
theorem loop (f : FmtB) : Statement (.loop f) := fun _ => opcode_ok _ _ (opcode_fmtB _ f) rfl
theorem endTask (f : FmtB) : Statement (.endTask f) := fun _ => opcode_ok _ _ (opcode_fmtB _ f) rfl
theorem pfi (f : FmtB) : Statement (.pfi f) := fun _ => opcode_ok _ _ (opcode_fmtB _ f) rfl
theorem trap (f : FmtB) : Statement (.trap f) := fun _ => opcode_ok _ _ (opcode_fmtB _ f) rfl
theorem bpt (f : FmtB) : Statement (.bpt f) := fun _ => opcode_ok _ _ (opcode_fmtB _ f) rfl
theorem rsys (f : FmtY) : Statement (.rsys f) := fun _ => opcode_ok _ _ (opcode_fmtY _ f) rfl
theorem wsys (f : FmtY) : Statement (.wsys f) := fun _ => opcode_ok _ _ (opcode_fmtY _ f) rfl
theorem xsys (f : FmtY) : Statement (.xsys f) := fun _ => opcode_ok _ _ (opcode_fmtY _ f) rfl
theorem bench (f : FmtY) : Statement (.bench f) := fun _ => opcode_ok _ _ (opcode_fmtY _ f) rfl
theorem tmark (f : FmtY) : Statement (.tmark f) := fun _ => opcode_ok _ _ (opcode_fmtY _ f) rfl
theorem vadd (f : FmtV) : Statement (.vadd f) := fun _ => opcode_ok _ _ (opcode_fmtV _ f) rfl
theorem vsub (f : FmtV) : Statement (.vsub f) := fun _ => opcode_ok _ _ (opcode_fmtV _ f) rfl
theorem vmul (f : FmtV) : Statement (.vmul f) := fun _ => opcode_ok _ _ (opcode_fmtV _ f) rfl
theorem vfma (f : FmtV) : Statement (.vfma f) := fun _ => opcode_ok _ _ (opcode_fmtV _ f) rfl
theorem vmin (f : FmtV) : Statement (.vmin f) := fun _ => opcode_ok _ _ (opcode_fmtV _ f) rfl
theorem vmax (f : FmtV) : Statement (.vmax f) := fun _ => opcode_ok _ _ (opcode_fmtV _ f) rfl
theorem vdiv (f : FmtV) : Statement (.vdiv f) := fun _ => opcode_ok _ _ (opcode_fmtV _ f) rfl
theorem vsqrt (f : FmtV) : Statement (.vsqrt f) := fun _ => opcode_ok _ _ (opcode_fmtV _ f) rfl
theorem vrcp (f : FmtV) : Statement (.vrcp f) := fun _ => opcode_ok _ _ (opcode_fmtV _ f) rfl
theorem vrsq (f : FmtV) : Statement (.vrsq f) := fun _ => opcode_ok _ _ (opcode_fmtV _ f) rfl
theorem vexp2 (f : FmtV) : Statement (.vexp2 f) := fun _ => opcode_ok _ _ (opcode_fmtV _ f) rfl
theorem vlog2 (f : FmtV) : Statement (.vlog2 f) := fun _ => opcode_ok _ _ (opcode_fmtV _ f) rfl
theorem vfcmp (f : FmtV) : Statement (.vfcmp f) := fun _ => opcode_ok _ _ (opcode_fmtV _ f) rfl
theorem vfclass (f : FmtV) : Statement (.vfclass f) := fun _ => opcode_ok _ _ (opcode_fmtV _ f) rfl
theorem vcvt (f : FmtV) : Statement (.vcvt f) := fun _ => opcode_ok _ _ (opcode_fmtV _ f) rfl
theorem vabs (f : FmtV) : Statement (.vabs f) := fun _ => opcode_ok _ _ (opcode_fmtV _ f) rfl
theorem viadd (f : FmtV) : Statement (.viadd f) := fun _ => opcode_ok _ _ (opcode_fmtV _ f) rfl
theorem visub (f : FmtV) : Statement (.visub f) := fun _ => opcode_ok _ _ (opcode_fmtV _ f) rfl
theorem vimul (f : FmtV) : Statement (.vimul f) := fun _ => opcode_ok _ _ (opcode_fmtV _ f) rfl
theorem vimulh (f : FmtV) : Statement (.vimulh f) := fun _ => opcode_ok _ _ (opcode_fmtV _ f) rfl
theorem vimad (f : FmtV) : Statement (.vimad f) := fun _ => opcode_ok _ _ (opcode_fmtV _ f) rfl
theorem vand (f : FmtV) : Statement (.vand f) := fun _ => opcode_ok _ _ (opcode_fmtV _ f) rfl
theorem vor (f : FmtV) : Statement (.vor f) := fun _ => opcode_ok _ _ (opcode_fmtV _ f) rfl
theorem vxor (f : FmtV) : Statement (.vxor f) := fun _ => opcode_ok _ _ (opcode_fmtV _ f) rfl
theorem vshl (f : FmtV) : Statement (.vshl f) := fun _ => opcode_ok _ _ (opcode_fmtV _ f) rfl
theorem vshr (f : FmtV) : Statement (.vshr f) := fun _ => opcode_ok _ _ (opcode_fmtV _ f) rfl
theorem vsra (f : FmtV) : Statement (.vsra f) := fun _ => opcode_ok _ _ (opcode_fmtV _ f) rfl
theorem vimin (f : FmtV) : Statement (.vimin f) := fun _ => opcode_ok _ _ (opcode_fmtV _ f) rfl
theorem vimax (f : FmtV) : Statement (.vimax f) := fun _ => opcode_ok _ _ (opcode_fmtV _ f) rfl
theorem vicmp (f : FmtV) : Statement (.vicmp f) := fun _ => opcode_ok _ _ (opcode_fmtV _ f) rfl
theorem vsel (f : FmtV) : Statement (.vsel f) := fun _ => opcode_ok _ _ (opcode_fmtV _ f) rfl
theorem vmov (f : FmtV) : Statement (.vmov f) := fun _ => opcode_ok _ _ (opcode_fmtV _ f) rfl
theorem vbcast (f : FmtV) : Statement (.vbcast f) := fun _ => opcode_ok _ _ (opcode_fmtV _ f) rfl
theorem vid (f : FmtV) : Statement (.vid f) := fun _ => opcode_ok _ _ (opcode_fmtV _ f) rfl
theorem vperm (f : FmtV) : Statement (.vperm f) := fun _ => opcode_ok _ _ (opcode_fmtV _ f) rfl
theorem vrot (f : FmtV) : Statement (.vrot f) := fun _ => opcode_ok _ _ (opcode_fmtV _ f) rfl
theorem vslide (f : FmtV) : Statement (.vslide f) := fun _ => opcode_ok _ _ (opcode_fmtV _ f) rfl
theorem vred (f : FmtV) : Statement (.vred f) := fun _ => opcode_ok _ _ (opcode_fmtV _ f) rfl
theorem vscan (f : FmtV) : Statement (.vscan f) := fun _ => opcode_ok _ _ (opcode_fmtV _ f) rfl
theorem vext (f : FmtV) : Statement (.vext f) := fun _ => opcode_ok _ _ (opcode_fmtV _ f) rfl
theorem vins (f : FmtV) : Statement (.vins f) := fun _ => opcode_ok _ _ (opcode_fmtV _ f) rfl
theorem vpack (f : FmtV) : Statement (.vpack f) := fun _ => opcode_ok _ _ (opcode_fmtV _ f) rfl
theorem vunpack (f : FmtV) : Statement (.vunpack f) := fun _ => opcode_ok _ _ (opcode_fmtV _ f) rfl
theorem vdot4 (f : FmtV) : Statement (.vdot4 f) := fun _ => opcode_ok _ _ (opcode_fmtV _ f) rfl
theorem vdot8 (f : FmtV) : Statement (.vdot8 f) := fun _ => opcode_ok _ _ (opcode_fmtV _ f) rfl
theorem vquant (f : FmtV) : Statement (.vquant f) := fun _ => opcode_ok _ _ (opcode_fmtV _ f) rfl
theorem vdequant (f : FmtV) : Statement (.vdequant f) := fun _ => opcode_ok _ _ (opcode_fmtV _ f) rfl
theorem vpopc (f : FmtV) : Statement (.vpopc f) := fun _ => opcode_ok _ _ (opcode_fmtV _ f) rfl
theorem mand (f : FmtV) : Statement (.mand f) := fun _ => opcode_ok _ _ (opcode_fmtV _ f) rfl
theorem mor (f : FmtV) : Statement (.mor f) := fun _ => opcode_ok _ _ (opcode_fmtV _ f) rfl
theorem mxor (f : FmtV) : Statement (.mxor f) := fun _ => opcode_ok _ _ (opcode_fmtV _ f) rfl
theorem mnot (f : FmtV) : Statement (.mnot f) := fun _ => opcode_ok _ _ (opcode_fmtV _ f) rfl
theorem mpop (f : FmtV) : Statement (.mpop f) := fun _ => opcode_ok _ _ (opcode_fmtV _ f) rfl
theorem mfirst (f : FmtV) : Statement (.mfirst f) := fun _ => opcode_ok _ _ (opcode_fmtV _ f) rfl
theorem mfroms (f : FmtV) : Statement (.mfroms f) := fun _ => opcode_ok _ _ (opcode_fmtV _ f) rfl
theorem mtos (f : FmtV) : Statement (.mtos f) := fun _ => opcode_ok _ _ (opcode_fmtV _ f) rfl
theorem mlen (f : FmtV) : Statement (.mlen f) := fun _ => opcode_ok _ _ (opcode_fmtV _ f) rfl
theorem ld (f : FmtM) : Statement (.ld f) := fun _ => opcode_ok _ _ (opcode_fmtM _ f) rfl
theorem st (f : FmtM) : Statement (.st f) := fun _ => opcode_ok _ _ (opcode_fmtM _ f) rfl
theorem vld (f : FmtM) : Statement (.vld f) := fun _ => opcode_ok _ _ (opcode_fmtM _ f) rfl
theorem vst (f : FmtM) : Statement (.vst f) := fun _ => opcode_ok _ _ (opcode_fmtM _ f) rfl
theorem vlds (f : FmtM) : Statement (.vlds f) := fun _ => opcode_ok _ _ (opcode_fmtM _ f) rfl
theorem vsts (f : FmtM) : Statement (.vsts f) := fun _ => opcode_ok _ _ (opcode_fmtM _ f) rfl
theorem vldx (f : FmtM) : Statement (.vldx f) := fun _ => opcode_ok _ _ (opcode_fmtM _ f) rfl
theorem vstx (f : FmtM) : Statement (.vstx f) := fun _ => opcode_ok _ _ (opcode_fmtM _ f) rfl
theorem pf (f : FmtM) : Statement (.pf f) := fun _ => opcode_ok _ _ (opcode_fmtM _ f) rfl
theorem cln (f : FmtM) : Statement (.cln f) := fun _ => opcode_ok _ _ (opcode_fmtM _ f) rfl
theorem feclr (f : FmtM) : Statement (.feclr f) := fun _ => opcode_ok _ _ (opcode_fmtM _ f) rfl
theorem feset (f : FmtM) : Statement (.feset f) := fun _ => opcode_ok _ _ (opcode_fmtM _ f) rfl
theorem fetst (f : FmtM) : Statement (.fetst f) := fun _ => opcode_ok _ _ (opcode_fmtM _ f) rfl
theorem mld (f : FmtM) : Statement (.mld f) := fun _ => opcode_ok _ _ (opcode_fmtM _ f) rfl
theorem mst (f : FmtM) : Statement (.mst f) := fun _ => opcode_ok _ _ (opcode_fmtM _ f) rfl
theorem aadd (f : FmtM) : Statement (.aadd f) := fun _ => opcode_ok _ _ (opcode_fmtM _ f) rfl
theorem aand (f : FmtM) : Statement (.aand f) := fun _ => opcode_ok _ _ (opcode_fmtM _ f) rfl
theorem aor (f : FmtM) : Statement (.aor f) := fun _ => opcode_ok _ _ (opcode_fmtM _ f) rfl
theorem axor (f : FmtM) : Statement (.axor f) := fun _ => opcode_ok _ _ (opcode_fmtM _ f) rfl
theorem amin (f : FmtM) : Statement (.amin f) := fun _ => opcode_ok _ _ (opcode_fmtM _ f) rfl
theorem amax (f : FmtM) : Statement (.amax f) := fun _ => opcode_ok _ _ (opcode_fmtM _ f) rfl
theorem aswp (f : FmtM) : Statement (.aswp f) := fun _ => opcode_ok _ _ (opcode_fmtM _ f) rfl
theorem acas (f : FmtM) : Statement (.acas f) := fun _ => opcode_ok _ _ (opcode_fmtM _ f) rfl
theorem acas2 (f : FmtM) : Statement (.acas2 f) := fun _ => opcode_ok _ _ (opcode_fmtM _ f) rfl
theorem red (f : FmtM) : Statement (.red f) := fun _ => opcode_ok _ _ (opcode_fmtM _ f) rfl
theorem vatom (f : FmtM) : Statement (.vatom f) := fun _ => opcode_ok _ _ (opcode_fmtM _ f) rfl
theorem fence (f : FmtM) : Statement (.fence f) := fun _ => opcode_ok _ _ (opcode_fmtM _ f) rfl
theorem acq (f : FmtM) : Statement (.acq f) := fun _ => opcode_ok _ _ (opcode_fmtM _ f) rfl
theorem rel (f : FmtM) : Statement (.rel f) := fun _ => opcode_ok _ _ (opcode_fmtM _ f) rfl
theorem arv (f : FmtM) : Statement (.arv f) := fun _ => opcode_ok _ _ (opcode_fmtM _ f) rfl
theorem sgen (f : FmtM) : Statement (.sgen f) := fun _ => opcode_ok _ _ (opcode_fmtM _ f) rfl
theorem sini (f : FmtM) : Statement (.sini f) := fun _ => opcode_ok _ _ (opcode_fmtM _ f) rfl
theorem waita (f : FmtM) : Statement (.waita f) := fun _ => opcode_ok _ _ (opcode_fmtM _ f) rfl
theorem mxj (f : FmtJ) : Statement (.mxj f) := fun _ => opcode_ok _ _ (opcode_fmtJ _ f) rfl
theorem cpj (f : FmtJ) : Statement (.cpj f) := fun _ => opcode_ok _ _ (opcode_fmtJ _ f) rfl
theorem jpoll (f : FmtJ) : Statement (.jpoll f) := fun _ => opcode_ok _ _ (opcode_fmtJ _ f) rfl
theorem jwait (f : FmtJ) : Statement (.jwait f) := fun _ => opcode_ok _ _ (opcode_fmtJ _ f) rfl
theorem jcan (f : FmtJ) : Statement (.jcan f) := fun _ => opcode_ok _ _ (opcode_fmtJ _ f) rfl
theorem send (f : FmtJ) : Statement (.send f) := fun _ => opcode_ok _ _ (opcode_fmtJ _ f) rfl
theorem recv (f : FmtJ) : Statement (.recv f) := fun _ => opcode_ok _ _ (opcode_fmtJ _ f) rfl
theorem launch (f : FmtJ) : Statement (.launch f) := fun _ => opcode_ok _ _ (opcode_fmtJ _ f) rfl
theorem ccnt (f : FmtJ) : Statement (.ccnt f) := fun _ => opcode_ok _ _ (opcode_fmtJ _ f) rfl
theorem cancel (f : FmtJ) : Statement (.cancel f) := fun _ => opcode_ok _ _ (opcode_fmtJ _ f) rfl
theorem graph (f : FmtJ) : Statement (.graph f) := fun _ => opcode_ok _ _ (opcode_fmtJ _ f) rfl
theorem hnote (f : FmtJ) : Statement (.hnote f) := fun _ => opcode_ok _ _ (opcode_fmtJ _ f) rfl
theorem gcall (f : FmtG) : Statement (.gcall f) := fun _ => opcode_ok _ _ (opcode_fmtG _ f) rfl
theorem gret (f : FmtG) : Statement (.gret f) := fun _ => opcode_ok _ _ (opcode_fmtG _ f) rfl
theorem gdone (f : FmtG) : Statement (.gdone f) := fun _ => opcode_ok _ _ (opcode_fmtG _ f) rfl
theorem dinfo (f : FmtG) : Statement (.dinfo f) := fun _ => opcode_ok _ _ (opcode_fmtG _ f) rfl
theorem rtake (f : FmtY) : Statement (.rtake f) := fun _ => opcode_ok _ _ (opcode_fmtY _ f) rfl
theorem rcmpl (f : FmtY) : Statement (.rcmpl f) := fun _ => opcode_ok _ _ (opcode_fmtY _ f) rfl
theorem rfail (f : FmtY) : Statement (.rfail f) := fun _ => opcode_ok _ _ (opcode_fmtY _ f) rfl
theorem tret (f : FmtY) : Statement (.tret f) := fun _ => opcode_ok _ _ (opcode_fmtY _ f) rfl
theorem hostWrite (h : HostStore) : Statement (.hostWrite h) := fun h => absurd h Bool.false_ne_true
theorem ualinkCompleterRequest (u : UaRequest) : Statement (.ualinkCompleterRequest u) := fun h => absurd h Bool.false_ne_true
theorem flitCrcError (link : Nat) : Statement (.flitCrcError link) := fun h => absurd h Bool.false_ne_true
theorem powerOn : Statement .powerOn := fun h => absurd h Bool.false_ne_true
theorem perstAssert : Statement .perstAssert := fun h => absurd h Bool.false_ne_true
theorem pcieHotReset : Statement .pcieHotReset := fun h => absurd h Bool.false_ne_true
theorem functionLevelResetF0 : Statement .functionLevelResetF0 := fun h => absurd h Bool.false_ne_true
theorem functionLevelResetF1 : Statement .functionLevelResetF1 := fun h => absurd h Bool.false_ne_true
theorem supervisorReset : Statement .supervisorReset := fun h => absurd h Bool.false_ne_true
theorem wipeComplete : Statement .wipeComplete := fun h => absurd h Bool.false_ne_true
theorem nonceExpiry : Statement .nonceExpiry := fun h => absurd h Bool.false_ne_true
theorem nop : Statement .nop := fun _ => rfl
theorem resetRelease : Statement .resetRelease := fun h => absurd h Bool.false_ne_true

end Sys2Proof.Laws.Opcode
end

