-- ==== Sys2Proof/Laws/Scalar.lean ====
section
/-!
SUPPORT. What the shared frames of the instructions that write one register do (`scalarOp`, and writes of a scalar, mask
or vector register that go on): the whole of their effect, in the terms of `Sys2Proof.Safety`.
-/

namespace Sys2Proof.Machine

/-- An instruction that goes on settles to a state that differs in the acting task alone, when its own effect does. -/
theorem settle_ok_onlyTask (s s' : State) (t t' : Task) (hs : s' = { s with tasks := s'.tasks })
    (hc : curTask s' = some t') (ho : ∀ k, k ≠ s.cur → taskAt s' k = taskAt s k) (hp : t'.pc = t.pc) :
    onlyTask s (settle s t (.ok s')) { t' with pc := pcOn s t, icount := t'.icount + 1 } := by
  have hcur : s'.cur = s.cur := by rw [hs]
  have hgrp : s'.grp = s.grp := by rw [hs]
  rw [settle_ok]
  refine ⟨?_, ?_, ?_⟩
  · rw [hs]; unfold fallThrough; split <;> rfl
  · rw [curTask_withResult, curTask_counted, curTask_fallThrough, hc]
    have hn : nextPc s' t = nextPc s t := by unfold nextPc groupSize groupPc; rw [hgrp]
    simp only [Option.map_some, pcOn, hgrp, hn, hp]
  · intro k hk
    have h1 : ∀ x : State, x.cur = s.cur → taskAt (counted x) k = taskAt x k := by
      intro x hx
      simp only [counted, taskAt_modCur, hx, if_neg hk]
    rw [taskAt_withResult, h1 _ (by rw [fallThrough_cur, hcur])]
    unfold fallThrough
    split
    · exact ho k hk
    · rw [taskAt_modCur, hcur, if_neg hk]; exact ho k hk

theorem setsScalar_putS (r : Regs) (d : Nat) (v : Word) (p : Bool) (hd : d < 64) : setsScalar r (putS r d v p) d v p := by
  refine ⟨fun n => getS_putS _ _ _ _ _, fun n => poiS_putS _ _ _ _ _ hd, ?_, ?_, ?_, ?_⟩ <;> simp

theorem setsVector_putV (r : Regs) (d : Nat) (v : Vec) (p : BitVec 32) : setsVector r (putV r d v p) d v p := by
  refine ⟨fun n => getV_putV _ _ _ _ _, fun n => poiV_putV _ _ _ _ _, ?_, ?_, ?_, ?_⟩ <;> simp

theorem poiM_putM (r : Regs) (d n : Nat) (v : Mask) (p : Bool) (hd : d < 8) :
    poiM (putM r d v p) n = if n = d ∧ d ≠ 0 then p else poiM r n := by
  unfold putM poiM
  by_cases h0 : d = 0
  · subst h0; simp only [ne_eq, not_true_eq_false, and_false, if_false, if_true]
  · by_cases hn : n = 0
    · subst hn; simp only [h0, if_false, if_true, ne_eq, not_false_eq_true, and_true, Ne.symm h0]
    · simp only [h0, hn, if_false, getLsbD_putBit _ _ _ _ hd]
      by_cases h : n = d <;> simp [h, h0]

theorem setsMask_putM (r : Regs) (d : Nat) (v : Mask) (p : Bool) (hd : d < 8) : setsMask r (putM r d v p) d v p := by
  refine ⟨fun n => getM_putM _ _ _ _ _, fun n => poiM_putM _ _ _ _ _ hd, ?_, ?_, ?_, ?_⟩ <;> simp

/-- Writing one scalar register and going on. -/
theorem settle_writeS (s : State) (t : Task) (d : Nat) (v : Word) (p : Bool) (lat : Nat) (ht : curTask s = some t)
    (hd : d < 64) : scalarDone s t (settle s t (.ok (writeS s d v p lat))) d v p lat := by
  have hc : curTask (writeS s d v p lat) = some (mark s { t with regs := putS t.regs d v p } d lat) := by
    rw [curTask_writeS, ht]; rfl
  refine ⟨_, settle_ok_onlyTask s _ t _ rfl hc (fun k hk => ?_) (by simp), ?_, ?_, ?_, ?_, ?_⟩
  · simp only [writeS, taskAt_modCur, if_neg hk]
  · unfold wentOn mark; split <;> rfl
  · simp
  · simp
  · simpa using setsScalar_putS t.regs d v p hd
  · intro k
    by_cases h0 : d = 0
    · subst h0; simp [mark]
    · simp only [mark, h0, if_false, tabGet_tabPut, ne_eq, not_false_eq_true, and_true]

/-- Writing one mask register and going on. -/
theorem settle_writeM (s : State) (t : Task) (d : Nat) (v : Mask) (p : Bool) (lat : Nat) (ht : curTask s = some t)
    (hd : d < 8) : maskDone s t (settle s t (.ok (writeM s d v p lat))) d v p lat := by
  have hc : curTask (writeM s d v p lat) = some (mark s { t with regs := putM t.regs d v p } (mKey d) lat) := by
    rw [curTask_writeM, ht]; rfl
  have hk0 : mKey d ≠ 0 := by unfold mKey; omega
  refine ⟨_, settle_ok_onlyTask s _ t _ rfl hc (fun k hk => ?_) (by simp), ?_, ?_, ?_, ?_, ?_⟩
  · simp only [writeM, taskAt_modCur, if_neg hk]
  · unfold wentOn mark; split <;> rfl
  · simp
  · simp
  · simpa using setsMask_putM t.regs d v p hd
  · intro k
    simp only [mark, hk0, if_false, tabGet_tabPut]

/-- Every instruction of `scalarOp` writes its value to s[d] and goes on. -/
theorem scalarOp_done (i : Instr) (f : FmtS) (s : State) (t : Task) (lat : Nat) (poi : Regs → Bool) (val : Regs → Word)
    (h : canRun i s t) : ∃ u, scalarOp i f s lat poi val = .next u ∧
      scalarDone s t u f.d.toNat (val (srcRegs s t)) (poi (srcRegs s t)) lat := by
  obtain ⟨ht, hr, hw, hv⟩ := h
  exact ⟨_, runIsa_eq i s t _ ht hr hw hv, settle_writeS s t _ _ _ _ ht f.d.isLt⟩

end Sys2Proof.Machine
end

