-- ==== Sys2Proof/Laws/Vector.lean ====
section
/-!
SUPPORT. What the shared frame of the vector instructions does (`vecResult`, `plainOp`, `floatOp`): each element of the
result, the flags and the stochastic rounding state.
-/

namespace Sys2Proof.Machine

/-- The lanes of a packed list, read back. -/
theorem natBits_foldr (w : Nat) (l : List Nat) (i : Nat) (hi : i < l.length) :
    natBits (l.foldr (fun x acc => acc * 2 ^ w + x % 2 ^ w) 0) (w * i) w = l[i] % 2 ^ w := by
  induction l generalizing i with
  | nil => simp at hi
  | cons x t ih =>
    have hpos : 0 < 2 ^ w := Nat.two_pow_pos w
    simp only [List.foldr_cons, natBits, Nat.shiftRight_eq_div_pow]
    cases i with
    | zero =>
      simp [Nat.add_mod]
    | succ i =>
      have hi' : i < t.length := by simpa using hi
      rw [List.getElem_cons_succ, ← ih i hi', natBits, Nat.shiftRight_eq_div_pow, Nat.mul_succ, Nat.add_comm (w * i) w,
        Nat.pow_add, ← Nat.div_div_eq_div_mul, Nat.mul_comm _ (2 ^ w), Nat.mul_add_div hpos,
        Nat.div_eq_of_lt (Nat.mod_lt _ hpos), Nat.add_zero]

theorem foldr_pack_lt (w : Nat) (l : List Nat) :
    l.foldr (fun x acc => acc * 2 ^ w + x % 2 ^ w) 0 < 2 ^ (w * l.length) := by
  induction l with
  | nil => simp
  | cons x t ih =>
    have hpos : 0 < 2 ^ w := Nat.two_pow_pos w
    have hx := Nat.mod_lt x hpos
    simp only [List.foldr_cons, List.length_cons, Nat.mul_succ, Nat.pow_add]
    have h : (t.foldr (fun x acc => acc * 2 ^ w + x % 2 ^ w) 0 + 1) * 2 ^ w ≤ 2 ^ (w * t.length) * 2 ^ w :=
      Nat.mul_le_mul_right _ ih
    rw [Nat.add_mul, Nat.one_mul] at h
    omega

/-- Element i of packed lanes is lane i. -/
theorem elt_packLanes (w : Nat) (l : List Nat) (i : Nat) (hi : i < l.length) (hl : w * l.length ≤ 4096) :
    elt w (packLanes w l) i = l[i] % 2 ^ w := by
  unfold elt packLanes
  have h : l.foldr (fun x acc => acc * 2 ^ w + x % 2 ^ w) 0 < 2 ^ 4096 :=
    lt_of_lt_of_le (foldr_pack_lt w l) (Nat.pow_le_pow_right Nat.two_pos hl)
  rw [BitVec.toNat_ofNat, Nat.mod_eq_of_lt h]
  exact natBits_foldr w l i hi

theorem elt_lt (w : Nat) (v : Vec) (i : Nat) : elt w v i < 2 ^ w := Nat.mod_lt _ (Nat.two_pow_pos w)

/-- Every element of the result of `vecLanes`. -/
theorem vecLanes_elt (w : Nat) (act : Nat → Bool) (old : Vec) (f : Nat → Nat × Nat) :
    lanesAre w (vecLanes w act old f).1 act old (fun i => (f i).1) := by
  intro i hi
  have hw : w * (4096 / w) ≤ 4096 := Nat.mul_div_le 4096 w
  simp only [vecLanes]
  rw [elt_packLanes _ _ _ (by simpa [upTo] using hi) (by simpa [upTo] using hw)]
  simp only [upTo, List.map_map, List.getElem_map, List.getElem_range, Function.comp]
  by_cases h : act i = true
  · rw [if_pos h, if_pos h]
  · rw [if_neg h, if_neg h]; exact Nat.mod_eq_of_lt (elt_lt _ _ _)

/-- The flags `vecLanes` gathers. -/
theorem vecLanes_flags (w : Nat) (act : Nat → Bool) (old : Vec) (f : Nat → Nat × Nat) :
    (vecLanes w act old f).2 = laneFlags w act (fun i => (f i).2) := by
  simp only [vecLanes, laneFlags, List.foldl_map]
  congr 1
  funext a i
  split <;> rfl

/-- Writing one vector register and going on. -/
theorem writeV_curTask (s : State) (t : Task) (d : Nat) (v : Vec) (p : BitVec 32) (lat : Nat) (ht : curTask s = some t) :
    curTask (writeV s d v p lat) = some (mark s { t with regs := putV t.regs d v p } (vKey d) lat) := by
  rw [curTask_writeV, ht]; rfl

/-- A vector result of an instruction without flags. -/
theorem settle_vecResult (s : State) (t : Task) (f : FmtV) (w lat : Nat) (act : Nat → Bool) (lane : Nat → Nat)
    (src : Nat → Bool) (ht : curTask s = some t) :
    vectorDone s t (settle s t (.ok (vecResult s t f w lat act (fun i => (lane i, 0)) src false))) f.d.toNat w act lane
      (vecPoison w act (poiV (srcRegs s t) f.d.toNat) (fun i => poiMq (srcRegs s t) f.mq || src i)) lat := by
  have hk0 : vKey f.d.toNat ≠ 0 := by unfold vKey; omega
  unfold vecResult
  simp only [Bool.false_eq_true, if_false]
  have hc := writeV_curTask s t f.d.toNat
    (vecLanes w act (getV (srcRegs s t) f.d.toNat) (fun i => (lane i, 0))).1
    (vecPoison w act (poiV (srcRegs s t) f.d.toNat) (fun i => poiMq (srcRegs s t) f.mq || src i)) lat ht
  refine ⟨_, (vecLanes w act (getV (srcRegs s t) f.d.toNat) (fun i => (lane i, 0))).1,
    settle_ok_onlyTask s _ t _ rfl hc (fun k hk => ?_) (by simp), ?_, ?_, ?_, ?_, ?_, ?_⟩
  · simp only [writeV, taskAt_modCur, if_neg hk]
  · unfold wentOn mark; split <;> rfl
  · simp
  · simp
  · exact vecLanes_elt _ _ _ _
  · simpa using setsVector_putV t.regs _ _ _
  · intro k
    simp only [mark, hk0, if_false, tabGet_tabPut]

/-- A vector result of an instruction that raises flags. -/
theorem settle_floatResult (s : State) (t : Task) (f : FmtV) (w lat mode : Nat) (act : Nat → Bool)
    (lane : Nat → Nat × Nat) (src : Nat → Bool) (ht : curTask s = some t) :
    floatDone s t (settle s t (.ok (advanceSR (vecResult s t f w lat act lane src true) t mode))) f.d.toNat w act lane
      (vecPoison w act (poiV (srcRegs s t) f.d.toNat) (fun i => poiMq (srcRegs s t) f.mq || src i)) mode := by
  unfold vecResult
  simp only [if_true]
  generalize hv : vecLanes w act (getV (srcRegs s t) f.d.toNat) lane = res
  generalize hpz : vecPoison w act (poiV (srcRegs s t) f.d.toNat) (fun i => poiMq (srcRegs s t) f.mq || src i) = p
  have hl : lanesAre w res.1 act (getV (srcRegs s t) f.d.toNat) (fun i => (lane i).1) := hv ▸ vecLanes_elt _ _ _ _
  have hf : res.2 = laneFlags w act (fun i => (lane i).2) := hv ▸ vecLanes_flags _ _ _ _
  have hc := writeV_curTask s t f.d.toNat res.1 p lat ht
  -- the task after the flags
  have hc2 : ∃ m : Task, curTask (raiseFlags (writeV s f.d.toNat res.1 p lat) res.2 lat) = some m ∧
      m = { t with regs := putV t.regs f.d.toNat res.1 p, fs := t.fs ||| BitVec.ofNat 64 res.2, pend := m.pend } := by
    refine ⟨_, by rw [raiseFlags, curTask_modCur, hc]; rfl, ?_⟩
    unfold mark; split <;> rfl
  obtain ⟨m, hm, hmt⟩ := hc2
  have hr : raiseFlags (writeV s f.d.toNat res.1 p lat) res.2 lat =
      { s with tasks := (raiseFlags (writeV s f.d.toNat res.1 p lat) res.2 lat).tasks } := rfl
  have hcur : (raiseFlags (writeV s f.d.toNat res.1 p lat) res.2 lat).cur = s.cur := rfl
  have ho : ∀ k, k ≠ s.cur → taskAt (raiseFlags (writeV s f.d.toNat res.1 p lat) res.2 lat) k = taskAt s k := by
    intro k hk
    rw [raiseFlags, taskAt_modCur, writeV_cur, if_neg hk, writeV, taskAt_modCur, if_neg hk]
  generalize hs1 : raiseFlags (writeV s f.d.toNat res.1 p lat) res.2 lat = s1 at hm hr hcur ho
  have hg : s1.grp = s.grp := by rw [hr]
  unfold advanceSR
  rw [hg]
  by_cases hmode : (decide (mode = 5) && !s.grp.wroteSR) = true
  · have hmode' : mode = 5 ∧ s.grp.wroteSR = false := by simpa using hmode
    rw [if_pos hmode]
    have hc3 : curTask (modCur s1 fun u => { u with srs := BitVec.ofNat 64 (stepsSR 64 t.srs.toNat) }) =
        some { m with srs := BitVec.ofNat 64 (stepsSR 64 t.srs.toNat) } := by rw [curTask_modCur, hm]; rfl
    have hr3 : (modCur s1 fun u => { u with srs := BitVec.ofNat 64 (stepsSR 64 t.srs.toNat) }) =
        { s with tasks := (modCur s1 fun u => { u with srs := BitVec.ofNat 64 (stepsSR 64 t.srs.toNat) }).tasks } := by
      rw [hr]; rfl
    refine ⟨_, res.1, settle_ok_onlyTask s _ t _ hr3 hc3 (fun k hk => ?_) (by rw [hmt]), ?_, ?_, ?_, hl, ?_⟩
    · rw [taskAt_modCur, hcur, if_neg hk, ho k hk]
    · unfold wentOn; rw [hmt]
    · rw [hmt, ← hf]
    · rw [if_pos hmode']
    · have : m.regs = putV t.regs f.d.toNat res.1 p := by rw [hmt]
      simpa [this] using setsVector_putV t.regs f.d.toNat res.1 p
  · have hmode' : ¬(mode = 5 ∧ s.grp.wroteSR = false) := by simpa using hmode
    rw [if_neg hmode]
    refine ⟨_, res.1, settle_ok_onlyTask s _ t _ hr hm ho (by rw [hmt]), ?_, ?_, ?_, hl, ?_⟩
    · unfold wentOn; rw [hmt]
    · rw [hmt, ← hf]
    · rw [hmt, if_neg hmode']
    · have : m.regs = putV t.regs f.d.toNat res.1 p := by rw [hmt]
      simpa [this] using setsVector_putV t.regs f.d.toNat res.1 p

/-- Every instruction of `plainOp`. -/
theorem plainOp_done (i : Instr) (f : FmtV) (s : State) (t : Task) (base : Nat) (src : Regs → FmtV → Nat → Bool)
    (lane : Regs → Nat → Nat) (h : canRun i s t) : ∃ u, runIsa i s (plainOp f base src lane s) = .next u ∧
      vectorDone s t u f.d.toNat f.ty.width (active (srcRegs s t) f.mq f.ty.width) (lane (srcRegs s t))
        (vecPoison f.ty.width (active (srcRegs s t) f.mq f.ty.width) (poiV (srcRegs s t) f.d.toNat)
          (fun i => poiMq (srcRegs s t) f.mq || src (srcRegs s t) f i)) (vLat f base) := by
  obtain ⟨ht, hr, hw, hv⟩ := h
  exact ⟨_, runIsa_eq i s t _ ht hr hw hv, settle_vecResult s t f _ _ _ _ _ ht⟩

/-- The mode a floating-point instruction rounds in, and its rounding of element i. -/
theorem floatOp_done (i : Instr) (f : FmtV) (s : State) (t : Task) (base : Nat) (rounds : Bool)
    (src : Regs → FmtV → Nat → Bool) (lane : Regs → Bool → Rounding → Nat → Nat × Nat) (h : canRun i s t) :
    ∃ u, runIsa i s (floatOp f base rounds src lane s) = .next u ∧
      floatDone s t u f.d.toNat f.ty.width (active (srcRegs s t) f.mq f.ty.width)
        (fun i => lane (srcRegs s t) (fsDaz (srcTask s t).fs)
          (rounding (if rounds then effRm f.rm (srcTask s t).fs else 0) f.sat (srcTask s t).fs
            (srFor s t (if rounds then effRm f.rm (srcTask s t).fs else 0)) i) i)
        (vecPoison f.ty.width (active (srcRegs s t) f.mq f.ty.width) (poiV (srcRegs s t) f.d.toNat)
          (fun i => poiMq (srcRegs s t) f.mq || (fsPoison s t (if rounds then effRm f.rm (srcTask s t).fs else 0)
            || src (srcRegs s t) f i)))
        (if rounds then effRm f.rm (srcTask s t).fs else 0) := by
  obtain ⟨ht, hr, hw, hv⟩ := h
  exact ⟨_, runIsa_eq i s t _ ht hr hw hv, settle_floatResult s t f _ _ _ _ _ _ ht⟩

end Sys2Proof.Machine
end

