-- ==== Sys2Proof/Tests/Slice0.lean ====
section
/-!
SUPPORT. The tests of the model: an ill-formed term for each check of `WellFormed`, words written out from the encoding
tables, and, for every statement, states and operands that meet its hypotheses, a `witness_` each. Expected values are
worked out by hand from the spec's tables and rules.
-/

namespace Sys2Proof.Tests

open Sys2Proof.Machine

-- One theorem at a time: each of these is a computation in the kernel, and side by side they crowd out its threads.
set_option Elab.async false

/-! ### A small part

Domain 1 maps its first 64 GiB to the first of HBM with one leaf (readable, writable, executable, PIN), its next to an
ATOMIC page of a checked pool, the one after to a BOUND page of region 1, and nothing else. Its areas lie at round
addresses; its handler and its task stand in the line at 0x40000, whose slot 0 is a branch target. -/

/-- Memory with the 8 bytes of a word at an address. -/
def put (m : Memory) (a v : Nat) : Memory := physWrite m a (leBytes 8 v) false

def place : DomPlace :=
  { root := 0x100000, regionPa := 0x200000, trapVa := 0x1000000, ringVa := 0x2000000, stackVa := 0x3000000,
    sealVa := 0x4000000, sealCount := 16, saveVa := 0x8000000, saveLen := 0x1000000, logVa := 0xA000000,
      raceVa := 0xB000000 }

/-- The checked pool from 0x1000000000 to 0x2000000000, its metadata from 0x4000000000. -/
def pools1 : List (Nat × Nat × Nat) := [(0x1000000000, 0x2000000000, 0x4000000000)]

def tables : Memory :=
  [(0x100000, 0x110001), (0x110000, 0x41F), (0x110010, 0x100000050F), (0x110020, 0x200000048F), (0x110028, 1),
    (0x1000000, 0x40000), (0x40000, 0x4001)].foldl (fun m e => put m e.1 e.2) { pools := pools1 }

def pkg : Package := { ready := true, wiping := false, lifecycle := .deployed }

def dom : Domain := { state := .live, flags := 2, place := place, allot := [0] }

def task0 : Task := { asid := 1, home := 1, pc := 0x40000, vregs := 64, id := { gtid := 7 }, scratch := 0x1000 }

def base : State := { mem := tables, tasks := [(0, task0)], hub := { pkg := pkg, doms := [(1, dom)] }, clock := 100 }

/-- The state with its task changed. -/
def withTask (s : State) (f : Task → Task) : State := modTask s 0 f
/-- The state with scalar registers set. -/
def withS (s : State) (l : List (Nat × Nat)) : State :=
  withTask s (fun t => { t with regs := { t.regs with s := l.map (fun e => (e.1, BitVec.ofNat 64 e.2)) } })
/-- The state with scalar registers poisoned. -/
def withPoison (s : State) (p : BitVec 64) : State := withTask s (fun t => { t with regs := { t.regs with sPoi := p } })
/-- The state with words of memory set. -/
def withMem (s : State) (l : List (Nat × Nat)) : State := { s with mem := l.foldl (fun m e => put m e.1 e.2) s.mem }
/-- The acting task. -/
def me (s : State) : Task := (curTask s).getD {}

/-- The acting task's instruction can run, and ends so. -/
def ends (r : Result) (s : State) (i : Instr) : Bool :=
  match curTask s, exec i s with
  | some t, .next u => decide (t.st = .ready) && i.wf && (vectorNames i).all (fun n => decide (n < t.vregs)) &&
      decide (u.grp.result = r)
  | _, _ => false

theorem canRun_of_ends {r : Result} {s : State} {i : Instr} (h : ends r s i = true) : ∃ t, canRun i s t := by
  unfold ends at h
  split at h
  · rename_i t u ht hu
    simp only [Bool.and_eq_true, decide_eq_true_eq, List.all_eq_true] at h
    exact ⟨t, ht, h.1.1.1, h.1.1.2, fun n hn => h.1.2 n hn⟩
  · cases h

/-- It takes effect. -/
def runs (s : State) (i : Instr) : Bool := ends .retired s i
/-- It traps. -/
def traps (s : State) (i : Instr) : Bool := ends .trapped s i
/-- It is held. -/
def holds (s : State) (i : Instr) : Bool := ends .held s i
/-- It blocks its slot. -/
def blocks (s : State) (i : Instr) : Bool := ends .blocked s i
/-- An event goes on, and the state after it is as asked. -/
def goes (i : Instr) (s : State) (p : State → Bool) : Bool := match exec i s with | .next u => p u | _ => false
/-- The cause an instruction traps with. -/
def raced (s : State) (i : Instr) (c : Cause) : Bool := goes i s (fun u => u.grp.result == .trapped && u.grp.cause == some c)

/-! ### Scalar instructions -/

def fS (fn : BitVec 6) : FmtS := ⟨3, 1, 2, fn, false, 0, false, 0⟩
def fS1 (fn : BitVec 6) : FmtS := ⟨3, 1, 0, fn, false, 2, true, 0⟩

theorem witness_scalarArithmetic : ([Instr.add (fS 0), .add (fS 1), .add (fS 2), .sub (fS 0), .sub (fS 1), .sub (fS 2),
    .mul (fS 0), .mulh (fS 0), .mulh (fS 1), .mulh (fS 2), .div (fS 0), .div (fS 1), .rem (fS 0), .rem (fS 1),
      .min (fS 0),
    .min (fS 1), .max (fS 0), .max (fS 1), .abs (fS1 0), .lea (fS 6), .and (fS 0), .or (fS 0), .xor (fS 0),
      .andn (fS 0),
    .shl (fS 0), .shr (fS 0), .sra (fS 0), .rot (fS 0), .rot (fS 1), .clz (fS1 0), .ctz (fS1 0), .popc (fS1 0),
    .bswap (fS1 0), .bswap (fS1 1)].all (runs (withS base [(1, 2 ^ 63), (2, 2 ^ 64 - 1)]))) = true := by decide +kernel

theorem witness_scalarMoves : ([Instr.cmp (fS 0), .cmp (fS 6), .sel (fS 0), .mov ⟨3, 0, 2, 0, false, 1, true, 0⟩,
    .mov ⟨4, 0, 0, 1, true, 0, false, 0x89ABCDEF⟩, .lih ⟨4, 0, 0, 0, true, 0, false, 1⟩, .ext (fS1 0), .bext (fS 1),
      .bins (fS 0),
    .nop].all (runs (withS base [(1, 5), (2, 64 * 8 + 60)]))) = true := by decide +kernel

/-! ### Vector and mask instructions -/

def fV (fn : BitVec 5) (ty : ElemTy) : FmtV := ⟨0, 4, 1, 2, 0, fn, ty, 0, false, false, false, 0, 0⟩
def fV1 (fn : BitVec 5) (ty : ElemTy) : FmtV := ⟨0, 4, 1, 0, 0, fn, ty, 0, false, false, false, 0, 0⟩
def fV3 (fn : BitVec 5) (ty : ElemTy) : FmtV := ⟨0, 4, 1, 2, 3, fn, ty, 0, false, false, false, 0, 0⟩
def fVk (fn : BitVec 5) (ty : ElemTy) : FmtV := ⟨0, 4, 1, 0, 0, fn, ty, 0, false, false, true, 0, 3⟩

theorem witness_vectorFloat : ([Instr.vadd (fV 0 .f64), .vsub (fV 0 .f64), .vmul (fV 0 .f64), .vfma (fV3 0 .f64),
    .vdiv (fV 0 .f64), .vsqrt (fV1 0 .f64), .vrcp (fV1 0 .f32), .vrsq (fV1 0 .f32), .vexp2 (fV1 0 .f32),
      .vlog2 (fV1 0 .f32),
    .vabs (fV1 0 .bf16), .vmin (fV 1 .f64), .vmax (fV 0 .f64)].all (runs base)) = true := by decide +kernel

theorem witness_vectorCompare : ([Instr.vfcmp (fV 7 .f64), .vfclass (fV1 0 .f64), .vcvt (fV1 0 .f64),
  .vquant (fV 0 .f32),
    .vdequant (fV 0 .f32)].all (runs base)) = true := by decide +kernel

theorem witness_vectorInteger : ([Instr.viadd (fV 0 .i64), .visub (fV 0 .n64), .vimul (fV 0 .i64), .vimulh (fV 0 .i64),
    .vimad (fV3 0 .i64), .vand (fV 1 .i64), .vor (fV 0 .i64), .vxor (fV 0 .i64), .vshl (fV 0 .i64), .vshr (fV 0 .n64),
    .vsra (fV 0 .i64), .vimin (fV 0 .i64), .vimax (fV 0 .n64), .vpopc (fV1 0 .i64),
      .vicmp (fV 5 .i64)].all (runs base)) = true := by
  decide +kernel

theorem witness_vectorMoves : ([Instr.vsel (fV3 0 .i64), .vmov (fV1 0 .i64), .vbcast (fV1 0 .i64), .vbcast (fV1 1 .i64),
    .vbcast ⟨0, 4, 0, 0, 0, 2, .f16, 0, false, false, false, 0, 0x3C00⟩,
      .vid ⟨0, 4, 0, 0, 0, 0, .n64, 0, false, false, false, 0, 1⟩,
    .vperm (fV3 1 .f64), .vrot (fVk 1 .i64), .vslide (fVk 0 .i64),
      .vpack ⟨0, 4, 1, 0, 3, 0, .n16, 0, true, false, false, 0, 0⟩,
    .vunpack ⟨0, 4, 1, 0, 0, 0, .i32, 0, false, false, false, 0, 1⟩, .vdot4 (fV3 0 .i32), .vdot8 (fV3 3 .i32),
    .vext ⟨0, 4, 1, 0, 0, 0, .i64, 0, false, false, false, 0, 64⟩,
      .vins ⟨0, 4, 1, 0, 0, 0, .i64, 0, false, false, false, 0, 63⟩].all
    (runs base)) = true := by decide +kernel

theorem witness_reductionsAndMasks : ([Instr.vred (fV1 0 .f64), .vred (fV1 6 .f64), .vred (fV1 0 .i64),
  .vscan (fV1 8 .f64),
    .vscan (fV1 0 .i64), .mand (fV 1 .f32), .mor (fV 0 .f32), .mxor (fV 1 .i4), .mnot (fV1 0 .f32), .mpop (fV1 0 .f32),
    .mfirst (fV1 0 .f32), .mfroms ⟨0, 4, 1, 0, 0, 0, .i8, 0, false, false, false, 0, 7⟩,
    .mtos ⟨0, 4, 1, 0, 0, 0, .i8, 0, false, false, false, 0, 7⟩,
      .mlen ⟨0, 4, 0, 0, 0, 0, .i8, 0, false, false, true, 0, 512⟩].all
    (runs base)) = true := by decide +kernel

/-! ### Control -/

def brTo (cc : BitVec 3) (a : BitVec 6) (loff : BitVec 45) : FmtB := ⟨a, cc, 0, 0, loff⟩

/-- Not taken, taken, and to a line whose slot 0 is no target; with a poisoned test. -/
theorem witness_branches :
    (runs base (.br (brTo 2 1 0)) && runs base (.br (brTo 1 1 0)) && traps base (.br (brTo 1 1 1)) &&
      runs base (.br ⟨1, 5, 2, 0, 0⟩) && runs base (.br ⟨0, 6, 2, 0, 0⟩) && runs base (.br (brTo 3 1 0)) &&
        runs base (.br (brTo 4 1 0)) &&
      traps (withPoison base 2) (.br (brTo 1 1 0)) && runs base (.jmp (brTo 0 0 0)) && runs base (.br (brTo 0 0 0)) &&
      traps base (.jmp (brTo 0 0 1)) && traps base (.br (brTo 0 0 1)) &&
        runs (withS base [(1, 1)]) (.loop (brTo 0 1 1)) &&
      runs (withS base [(1, 2)]) (.loop (brTo 0 1 0)) && traps (withS base [(1, 2)]) (.loop (brTo 0 1 1)) &&
      traps (withPoison base 2) (.loop (brTo 0 1 0))) = true ∧
    targetBad base task0 (targetOf base task0 (brTo 0 0 0)) = false ∧
    targetBad base task0 (targetOf base task0 (brTo 0 0 1)) = true := by decide +kernel

/-- A poisoned test, taken to a bad target and to a good one (R169). -/
theorem witness_poisonedBranches :
    (raced (withPoison base 2) (.br (brTo 1 1 1)) .control && raced (withPoison base 2) (.br (brTo 1 1 0)) .poisonConsumed &&
      raced (withPoison base 2) (.loop (brTo 0 1 1)) .control &&
      raced (withPoison base 2) (.loop (brTo 0 1 0)) .poisonConsumed &&
      raced (withPoison (withS base [(1, 0x40008)]) 2) (.calli (brTo 0 1 0)) .control &&
      raced (withPoison (withS base [(1, 5)]) 2) (.ret (brTo 0 1 0)) .control) = true := by decide +kernel

theorem witness_calls :
    (runs base (.call (brTo 0 0 0)) && traps base (.call (brTo 0 0 1)) &&
      runs (withS base [(1, 0x40000)]) (.calli (brTo 0 1 0)) &&
      traps (withS base [(1, 0x40008)]) (.calli (brTo 0 1 0)) && traps (withPoison base 2) (.calli (brTo 0 1 0)) &&
      runs (withS base [(1, 4)]) (.ret (brTo 0 1 0)) && traps (withS base [(1, 5)]) (.ret (brTo 0 1 0)) &&
      traps (withS base [(1, 2 ^ 57)]) (.ret (brTo 0 1 0)) &&
        traps (withPoison base 2) (.ret (brTo 0 1 0))) = true := by decide +kernel

def aRef : RetryRef := { owner := 1, index := 0, line := 0, dests := [], depth := 0, acquire := false }

theorem witness_endAndPrefetch :
    (runs base (.endTask (brTo 0 0 0)) &&
      holds (withTask base (fun t => { t with retry := [aRef] })) (.endTask (brTo 0 0 0)) &&
      traps (withTask base (fun t => { t with clean := true })) (.endTask (brTo 0 0 0)) &&
        runs base (.pfi ⟨0, 0, 3, 0, 0⟩) &&
      (match xlatFetch base 0 1 0x400C0 with | .ok _ _ => true | _ => false)) = true := by decide +kernel

theorem witness_trapInstructions :
    (traps base (.trap (brTo 0 0 7)) && traps base (.bpt (brTo 0 0 7)) && traps base (.ill 5) &&
      goes (.bpt (brTo 0 0 7)) (withTask base (fun t => { t with preempt := 0x21 }))
        (fun u => (me u).deferredBp.isSome) &&
      goes (.add (fS 3)) base (fun u => decide (u.grp.result = .trapped)) && !(Instr.add (fS 3)).wf &&
      goes (.vmov (fV1 0 .i64)) (withTask base (fun t => { t with vregs := 1 }))
        (fun u => decide (u.grp.result = .trapped))) = true := by
  decide +kernel

theorem witness_trapEntry :
    (canEnter base 0 task0) ∧ trapHandler (withMem base [(0x1000000, 0)]) 1 = 0 ∧ task0.depth = 0 ∧
      task0.clean = false ∧
      (me (trapped base { cause := .software })).pc = 0x40000 ∧
      getS (me (trapped base { cause := .software })).regs 2 = 0x1001000 ∧
      (me (trapped (withTask base (fun t => { t with handler := true })) { cause := .software })).st = .ended ∧
      pinnedFault base 1 (trapFrameVa base 1 0) 256 = none ∧
      pinnedFault (withMem base [(0x1000000, 0)]) 1 (trapAreaVa base 1) 8 = none := by
  refine ⟨⟨?_, ?_, ?_, ?_, ?_⟩, ?_, ?_, ?_, ?_, ?_, ?_, ?_, ?_⟩ <;> decide +kernel

theorem witness_trapReturn :
    (runs (withTask base (fun t => { t with handler := true })) (.tret ⟨0, 0, 0, 0, 0⟩) &&
      traps base (.tret ⟨0, 0, 0, 0, 0⟩) &&
      (pinnedFault base 1 (trapFrameVa base 1 0) 256).isNone) = true := by decide +kernel

/-! ### System registers -/

def fY (d a : BitVec 6) (sr : BitVec 12) (fn : BitVec 6) : FmtY := ⟨d, a, sr, fn, 0⟩
def inHandler : State := withTask base (fun t => { t with handler := true })

/-- Every number that reads: at the ends of each range, in and out of the handler; and the numbers that do not. -/
theorem witness_systemRead :
    (([0x00, 0x13, 0x14, 0x1F, 0x20, 0x21, 0x22, 0x26, 0x28, 0x29, 0x3F, 0x40, 0x44, 0x45, 0x5F, 0x60, 0x61, 0x62,
      0x7F].all
        (fun n => runs base (.rsys (fY 5 0 n 0)))) &&
      ([0x80, 0x9F, 0xA0, 0xFF].all (fun n => runs inHandler (.rsys (fY 5 0 n 0)) &&
        traps base (.rsys (fY 5 0 n 0)))) &&
      goes (.rsys (fY 5 0 0x100 0)) inHandler (fun u => (me u).st == .ended) &&
      (pinnedFault inHandler 1 (trapFrameVa inHandler 1 0) 256).isNone && (stackPinned base (me base)).isNone &&
      traps base (.rsys (fY 5 0 0xFFF 0))) = true := by decide +kernel

theorem witness_systemWrite :
    (runs base (.wsys (fY 0 1 0x20 0)) && runs base (.wsys (fY 0 1 0x26 0)) && runs inHandler (.wsys (fY 0 1 0x81 0)) &&
      runs inHandler (.wsys (fY 0 1 0x88 0)) && runs inHandler (.wsys (fY 0 1 0x8F 0)) &&
        runs inHandler (.wsys (fY 0 1 0x98 0)) &&
      traps (withS base [(1, 0x8000)]) (.wsys (fY 0 1 0x20 0)) && traps base (.wsys (fY 0 1 0x22 0)) &&
      traps base (.wsys (fY 0 1 0x81 0)) && runs base (.xsys (fY 2 1 0x20 2)) && runs base (.xsys (fY 2 1 0x26 1)) &&
      runs inHandler (.xsys (fY 2 1 0x98 0)) && traps (withS base [(1, 0x8000)]) (.xsys (fY 2 1 0x20 1)) &&
      traps base (.xsys (fY 2 1 0x00 0))) = true := by decide +kernel

/-! ### Memory, atomics and synchronisation

s1 names plain memory, s2 the ATOMIC page, s3 is an operand, s8 an own scratchpad address. -/

def fM (d x : BitVec 6) (sz ord sc ch : BitVec 3) (a : BitVec 6) (sp : Space) (fe : BitVec 2) : FmtM :=
  ⟨0, d, a, x, sz, ord, sc, sp, fe, ch, 0, 0⟩
/-- Plain, at s1. -/
def fM0 (d x : BitVec 6) (sz : BitVec 3) : FmtM := fM d x sz 0 0 0 1 .global 0
/-- Plain, at s1, lane 1 alone (m1 holds its bit). -/
def fM1 (d x : BitVec 6) (sz : BitVec 3) : FmtM := { fM0 d x sz with mq := 1 }
/-- In the own scratchpad, at s8. -/
def fOwn (d : BitVec 6) (sz : BitVec 3) (fe : BitVec 2) : FmtM := fM d 0 sz 0 0 0 8 .own fe

def lock0 : SyncObj :=
  { gen := 3, kind := 1, excl := false, xwait := false, holders := 0, expect := 0, arrived := 0, xtag := 0 }
def phase0 : SyncObj := { lock0 with kind := 2, expect := 2 }

/-- The part with a lock at the start of the ATOMIC page and a phase 32 bytes on. -/
def memo : State :=
  let s := withTask (withS base [(1, 0x50000), (2, 0x1000000000), (3, 7), (8, 0xFF0), (9, 0x1000000020), (10, 16)])
    (fun t => { t with regs := { t.regs with m := [(1, 2)] } })
  { s with mem := writeObj (writeObj s.mem 0x1000000000 lock0) 0x1000000020 phase0 }

/-- The access reaches its places, and none of them faults. -/
def placed (s : State) (f : FmtM) (rq : MemReq) (more : Placed → List Finding) : Bool :=
  match resolve s (me s) f rq more with
  | .ok (_, ps) => !lineBusy (me s) ps && (watchHit s (me s) rq ps).isNone &&
      ps.all (fun x => match x.2 with | .fault _ _ => false | _ => true) && !lineOwed s ps && !scHolds s (me s) f
  | .error _ => false

theorem placedAs_of_placed {s : State} {f : FmtM} {rq : MemReq} {more : Placed → List Finding}
    (h : placed s f rq more = true) : ∃ s1 ps, placedAs s (me s) f rq more s1 ps := by
  unfold placed at h
  split at h
  · rename_i s1 ps hr
    simp only [Bool.and_eq_true, Bool.not_eq_true', Option.isNone_iff_eq_none, List.all_eq_true] at h
    exact ⟨s1, ps, hr, h.1.1.1.1, h.1.1.1.2, fun x hx o va he => by have := h.1.1.2 x hx; rw [he] at this; cases this⟩
  · cases h

/-- An access with no findings of its own is placed and executes. -/
def does (s : State) (f : FmtM) (rq : MemReq) (i : Instr) : Bool := placed s f rq (fun _ => []) && runs s i

theorem witness_loads :
    (let r := (me memo).regs
     does memo (fM0 4 0 3) (ldReq r (fM0 4 0 3)) (.ld (fM0 4 0 3)) &&
       does memo (fM0 4 0 4) (ldReq r (fM0 4 0 4)) (.ld (fM0 4 0 4)) &&
      does memo (fM0 3 0 0) (mldReq r (fM0 3 0 0)) (.mld (fM0 3 0 0)) &&
      does memo (fM1 4 0 3) (vecLoadReq r (fM1 4 0 3) .contiguous) (.vld (fM1 4 0 3)) &&
      does memo (fM1 4 10 3) (vecLoadReq r (fM1 4 10 3) .strided) (.vlds (fM1 4 10 3)) &&
      does memo (fM1 4 6 3) (vecLoadReq r (fM1 4 6 3) .indexed) (.vldx (fM1 4 6 3))) = true := by decide +kernel

def filled : State := { memo with cores := { memo.cores with full := [(255, true)] } }

/-- With the full-empty condition: the last granule of the window is full. -/
theorem witness_loadsFull :
    (does filled (fOwn 4 3 2) (ldReq (me filled).regs (fOwn 4 3 2)) (.ld (fOwn 4 3 2)) &&
      blocks memo (.ld (fOwn 4 3 1)) &&
      does memo (fOwn 4 3 2) (stReq (me memo).regs (fOwn 4 3 2)) (.st (fOwn 4 3 2)) &&
        blocks filled (.st (fOwn 4 3 2))) = true := by
  decide +kernel

theorem witness_stores :
    (let r := (me memo).regs
     does memo (fM0 4 0 3) (stReq r (fM0 4 0 3)) (.st (fM0 4 0 3)) &&
       does memo (fM0 4 0 4) (stReq r (fM0 4 0 4)) (.st (fM0 4 0 4)) &&
      does memo (fM0 0 0 0) (mstReq r (fM0 0 0 0)) (.mst (fM0 0 0 0)) &&
      does memo (fM1 4 0 3) (vecStoreReq r (fM1 4 0 3) .contiguous) (.vst (fM1 4 0 3)) &&
      does memo (fM1 4 10 3) (vecStoreReq r (fM1 4 10 3) .strided) (.vsts (fM1 4 10 3)) &&
      does memo (fM1 4 6 3) (vecStoreReq r (fM1 4 6 3) .indexed) (.vstx (fM1 4 6 3)) &&
      does memo (fM 4 0 3 2 4 0 1 .global 0) (stReq r (fM 4 0 3 2 4 0 1 .global 0)) (.st
        (fM 4 0 3 2 4 0 1 .global 0)) &&
      quiet memo (me memo) && memo.hub.sessions.isEmpty) = true := by decide +kernel

/-- The last 8 bytes of the window, and the first outside it; at depth 0 no address reads the domain stack. -/
theorem witness_ownScratchpad :
    ((windowPinned base (me base) 0x50001).isNone && (windowPinned base (me base) apertureBase).isNone &&
      runs (withS base [(8, 0xFF8)]) (.ld (fOwn 4 3 0)) && runs (withS base [(8, 0xFF8)]) (.st (fOwn 4 3 0)) &&
      traps (withS base [(8, 0x1000)]) (.ld (fOwn 4 0 0)) &&
        runs (withS base [(8, 0xFFF)]) (.ld (fOwn 4 0 0))) = true := by
  decide +kernel

theorem witness_accessFaults :
    (traps (withPoison memo 2) (.ld (fM0 4 0 3)) && traps (withS base [(1, 0x50001)]) (.ld (fM0 4 0 3)) &&
      traps (withS base [(1, 2 ^ 57)]) (.st (fM0 4 0 3)) &&
        traps (withS base [(8, 2 ^ 63)]) (.st (fOwn 4 3 0))) = true ∧
    locate (withS base [(1,
      0x4000000000)]) 0 (me base) (fM0 4 0 3) .load { p := 0x4000000000, size := 8 } = .at_ (.fault 1 0x4000000000) ∧
    (runs (withS base [(1, 0x4000000000)]) (.ld (fM0 4 0 3)) && (readRetry base 1 0).state == 0 &&
      (pinnedFault base 1 (retryVa base 1 0) 64).isNone &&
        (pinnedFault base 1 (retryDataVa base 1 0) 1024).isNone) = true := by
  refine ⟨?_, ?_, ?_⟩ <;> decide +kernel

theorem witness_prefetchCleanFence :
    (runs memo (.pf (fM0 0 0 0)) && runs memo (.cln (fM 0 0 0 0 0 2 1 .global 0)) &&
      traps (withPoison memo 2) (.pf (fM0 0 0 0)) &&
      (namedLine memo (me memo) 0x50000).isSome && runs memo (.fence (fM 0 0 0 1 3 0 0 .global 0)) &&
      runs memo (.fence (fM 0 0 0 2 5 0 0 .global 0)) &&
      holds (withTask memo (fun t => { t with retry := [aRef] })) (.fence
        (fM 0 0 0 4 5 0 0 .global 0))) = true := by decide +kernel

/-- A group of the memory class may not issue behind a fence while an access is outstanding, and may without one. -/
theorem witness_fenceHolds :
    (let b : Slot96 := encode (.ld (fM0 4 0 3))
     let a : Access := { slot := 0, gtid := 7, dests := [], isStore := true, acquire := false }
     let s := withTask { memo with hub := { memo.hub with accesses := [(1, a)] } } (fun t => { t with fenceAll := true })
     (classOf (slotOp b) == some .memory) && !(accessesOf s 0).isEmpty &&
       !canIssue s 0 (me s) false [b] [.ld (fM0 4 0 3)] &&
       (let t := { me memo with fenceReads := true, retry := [{ aRef with reads := true }] }
        !canIssue memo 0 t false [b] [.ld (fM0 4 0 3)]) &&
       canIssue memo 0 { me memo with fenceAll := true } false [b] [.ld (fM0 4 0 3)]) = true := by decide +kernel

/-- A lock's entry, and a line of its region on a BOUND page with the metadata given. -/
def guarded (mode : Nat) (x : Meta) : State :=
  let s := withTask (withS base [(1, 0x2000000000)]) (fun t =>
    { t with acq := [{ obj := 0x1000000000, gen := 3, mode := mode, scope := 4, depth := 0 }] })
  let m := (withMem s [(0x200010, 0x1000000000), (0x200018, 0x84)]).mem
  { s with mem := writeMeta { m with pools := [(0x1000000000, 0x3000000000, 0x4000000000)] } 0x2000000000 x }

/-- Each cause of R208, of a line another core's task has written, or an engine is writing. -/
theorem witness_races :
    (let other := taskTag 9 0 0
     let line := fun (state scope gen : Nat) => ({ state := state, scope := scope, gen := gen, tag := other.toNat } : Meta)
     let f := fM0 4 0 3
     raced (withTask (guarded 1 cleanMeta) (fun t => { t with acq := [] })) (.ld f) .unacquired &&
       runs (guarded 1 cleanMeta) (.ld f) && runs (guarded 1 (line 1 4 2)) (.ld f) &&
       raced (guarded 1 (line 2 4 2)) (.ld f) .raceEngine && raced (guarded 1 (line 1 2 2)) (.ld f) .raceScope &&
       raced (guarded 1 (line 1 4 3)) (.ld f) .raceRw && raced (guarded 1 (line 1 4 3)) (.st f) .raceWw &&
       raced (guarded 2 (line 1 4 2)) (.st f) .raceMode && raced (guarded 2 (line 1 4 3)) (.red (fM 3 0 3 0 0 0 1 .global 0)) .raceRw &&
       raced (withS memo [(1, 0x1000000000)]) (.ld f) .atomicOnly &&
       umbraMode base 1 == 0 && (metaAddr (guarded 1 cleanMeta).mem 0x2000000000).isSome) = true := by decide +kernel

/-- Under REPORT and OFF the access goes on, with a line that does not fit. -/
theorem witness_racesAside :
    (let bad : Meta := { state := 1, scope := 4, gen := 3, tag := 9 * 4096 }
     let mode := fun (n : Nat) => { guarded 1 bad with
       hub := { base.hub with doms := [(1, { dom with flags := BitVec.ofNat 64 (2 + 8 * n) })] } }
     umbraMode (mode 1) 1 == 1 && umbraMode (mode 2) 1 == 2 && runs (mode 1) (.ld (fM0 4 0 3)) &&
       runs (mode 2) (.ld (fM0 4 0 3))) = true := by decide +kernel

def outstanding (s : State) : State :=
  let a : Access := { slot := 0, gtid := 7, dests := [], isStore := true, acquire := false }
  { s with hub := { s.hub with accesses := [(1, a)] } }

theorem witness_fullEmpty :
    (does memo (fOwn 0 4 0) (feReq (me memo).regs (fOwn 0 4 0)) (.feclr (fOwn 0 4 0)) &&
      does memo (fOwn 0 4 0) (feReq (me memo).regs (fOwn 0 4 0)) (.feset (fOwn 0 4 0)) &&
        holds (outstanding memo) (.feset (fOwn 0 4 0)) &&
      does filled (fOwn 4 4 0) { feReq (me filled).regs (fOwn 4 4 0) with dests := [4] } (.fetst
        (fOwn 4 4 0))) = true := by decide +kernel

theorem witness_atomics :
    (let r := (me memo).regs
     let f := fM 4 3 3 0 0 0 1 .global 0
     does memo f (atomicReq r f 0) (.aadd f) && does memo f (atomicReq r f 1) (.aand f) &&
       does memo f (atomicReq r f 2) (.aor f) &&
      does memo f (atomicReq r f 3) (.axor f) && does memo f (atomicReq r f 4) (.amin f) &&
        does memo f (atomicReq r f 5) (.amax f) &&
      does memo f (atomicReq r f 6) (.aswp f) && does memo f (atomicReq r f 7) (.acas f)) = true := by decide +kernel

theorem witness_atomicsWide :
    (let r := (me memo).regs
     let f := fM 4 6 0 3 4 0 1 .global 0
     let g := fM 3 0 2 0 0 5 1 .global 0
     let h := { fM 4 6 2 0 0 6 1 .global 0 with mq := 1 }
     does memo f (acas2Req r f) (.acas2 f) && does memo g (redReq r g) (.red g) &&
       does memo h (vatomReq r h) (.vatom h)) = true := by
  decide +kernel

/-- Mode ch + 1 at the object s[a] names, s[x] its generation. -/
def fAcq (ch : BitVec 3) (a : BitVec 6) (x : BitVec 6) : FmtM := fM 4 x 0 1 0 ch a .global 0
/-- A release: of the object s[a] names; `d` for `arv`. -/
def fRel (d a : BitVec 6) : FmtM := fM d 0 0 2 0 0 a .global 0
/-- The part with the lock in a state, and the task holding an entry of a mode. -/
def held (m : Nat) (o : SyncObj) : State :=
  let s := withTask memo (fun t =>
    { t with acq := [{ obj := if m ≤ 2 then 0x1000000000 else 0x1000000020, gen := 3, mode := m, scope := 0, depth := 0 }] })
  { s with mem := writeObj s.mem 0x1000000000 o }
/-- The access of an acquire is placed. -/
def acqPlaced (s : State) (f : FmtM) (kind : Nat) : Bool :=
  let t := me s
  placed s f (objReq t.regs f .rmw (scalarDests f.d.toNat false))
    (fun ps => objFindings s (some kind) ps ++ acqFull t (memBase t.regs f).toNat)

/-- Granted: exclusive of a free lock, shared of a free and of a shared one, a phase joined, and one at its generation.
Not granted: a lock with a holder, a phase not yet there. -/
theorem witness_acquire :
    (acqPlaced memo (fAcq 0 2 0) 1 && runs memo (.acq (fAcq 0 2 0)) && acqPlaced memo (fAcq 1 2 0) 1 &&
      runs memo (.acq (fAcq 1 2 0)) &&
      runs (held 0 { lock0 with holders := 1 }) (.acq (fAcq 1 2 0)) && acqPlaced memo (fAcq 2 9 0) 2 &&
        runs memo (.acq (fAcq 2 9 0)) &&
      acqPlaced memo (fAcq 3 9 0) 2 && runs memo (.acq (fAcq 3 9 0)) && blocks memo (.acq (fAcq 3 9 3)) &&
      blocks (held 0 { lock0 with holders := 1 }) (.acq (fAcq 0 2 0)) && !replaying memo 1 &&
      (match logReserve memo 1 0 with | .ok _ => true | _ => false)) = true := by decide +kernel

/-- Any region allows scope 0. -/
theorem witness_acquireScope (s : State) (obj : Nat) : (fAcq 0 2 0).sc.toNat ≤ regionLimit s 1 obj := Nat.zero_le _

theorem witness_release :
    (runs (held 1 { lock0 with excl := true, holders := 1 }) (.rel (fRel 0 2)) &&
      runs (held 2 { lock0 with holders := 2 }) (.rel (fRel 0 2)) &&
      runs (held 3 lock0) (.rel (fRel 0 9)) && runs (held 3 lock0) (.arv (fRel 4 9)) &&
        runs (held 4 lock0) (.rel (fRel 0 9)) &&
      traps memo (.rel (fRel 0 2)) && traps memo (.arv (fRel 4 9)) &&
        holds (outstanding (held 3 lock0)) (.arv (fRel 4 9)) &&
      (let s := held 3 lock0
       placed s (fRel 4 9) (objReq (me s).regs (fRel 4 9) .rmw [4]) (fun ps => objFindings s (some 2) ps) &&
       (newestEntry (me s) 0x1000000020
         (· == 3) == some { obj := 0x1000000020, gen := 3, mode := 3, scope := 0, depth := 0 }) &&
       quiet s (me s))) = true := by decide +kernel

theorem witness_objects :
    (placed memo (fM 4 0 0 0 0 0 2 .global 0) (sgenReq (me memo).regs (fM 4 0 0 0 0 0 2 .global 0))
      (objFindings memo none) &&
      runs memo (.sgen (fM 4 0 0 0 0 0 2 .global 0)) &&
      placed memo (fM 3 10 0 0 0 2 2 .global 0) (siniReq (me memo).regs (fM 3 10 0 0 0 2 2 .global 0))
        (siniFindings memo (me memo).regs (fM 3 10 0 0 0 2 2 .global 0)) &&
      runs memo (.sini (fM 3 10 0 0 0 2 2 .global 0))) = true := by decide +kernel

/-- The first word of the lock is 3: equal to s3's 7 it is not, at least 7 neither. -/
def fWait (ch : BitVec 3) : FmtM := fM 4 3 2 1 0 ch 2 .global 0

theorem witness_wait :
    (placed memo (fWait 1) (waitReq (me memo).regs (fWait 1)) waitFindings && runs memo (.waita (fWait 1)) &&
      runs memo (.waita (fWait 3)) &&
      blocks memo (.waita (fWait 0)) && blocks memo (.waita (fWait 2))) = true := by decide +kernel

/-- PCIe host memory at VA 0x3000000000, and at 0x5000000000 a UALink window that nobody has bound. -/
def linked : State := withMem (withS base [(1, 0x5000000000), (2, 0x3000000000), (3, 7), (8, 0x3000000040)])
  [(0x110030, pcieBase + 0xC0F), (0x110050, ualinkBase + 0xC0F)]

/-- The read goes out over the link; once it has come back, its value decides. -/
theorem witness_linkWaits :
    (let v : WaitVal := { val := 3, poi := false, pc := 0x40000, depth := 0 }
     let out := fun (i : Instr) => holds linked i && goes i linked (fun u => u.hub.accesses.length == 1)
     out (.waita (fWait 1)) && out (.ccnt ⟨20, 8, 1, false, false, 0, 0, false, 0⟩) &&
      runs (withTask memo (fun t => { t with waitVal := some v })) (.waita (fWait 1)) &&
      runs (withTask memo (fun t => { t with waitVal := some { v with val := 2 ^ 32 } }))
        (.ccnt ⟨20, 8, 1, false, false, 0, 0, false, 0⟩)) = true := by
  decide +kernel

/-! ### Engines, messages and launches -/

def fJ (d f : BitVec 6) (fn : BitVec 4) (imm : BitVec 32) : FmtJ := ⟨d, f, fn, false, false, 0, 0, false, imm⟩

/-- A copy job: one row of 16 zero bytes to 0x50000. -/
def job0 : EngineJob :=
  { id := 5, copy := true, core := 0, gtid := 7, depth := 0, asid := 1, frame := [0, 0x50000, 0x100000010, 0, 0x100, 0, 0, 0]
    fn := 0, aq := false, rl := false, aqs := 0, rls := 0, st := false, imm := 0, pc := 0, icount := 0, sbase := 0,
      scratch := 0 }
def withJob (s : State) (j : EngineJob) : State := { s with hub := { s.hub with clusters := [(0, { jobs := [j] })] } }
/-- The job the task has in flight; s20 names it. -/
def jobbed (j : EngineJob) : State := withJob (withS base [(20, 5)]) j

theorem witness_engines :
    (runs (withTask base (fun t => { t with jobGrant := true })) (.mxj (fJ 20 8 0 0)) &&
      holds base (.mxj (fJ 20 8 0 0)) &&
      runs (withTask base (fun t => { t with jobGrant := true })) (.cpj (fJ 20 8 0 0)) &&
        traps (withPoison base 0x8000) (.cpj (fJ 20 8 0 0)) &&
      holds (withTask base (fun t => { t with retry := [aRef] })) (.cpj (fJ 20 8 0 0)) &&
        runs (jobbed job0) (.jpoll (fJ 20 0 1 0)) &&
      runs base (.jwait (fJ 20 0 0 0)) && blocks (jobbed job0) (.jwait (fJ 20 0 0 0)) &&
        runs (jobbed job0) (.jcan (fJ 20 0 0 0)) &&
      runs (jobbed { job0 with phase := .running }) (.jcan (fJ 20 0 0 0)) &&
        runs base (.jcan (fJ 20 0 0 0))) = true := by decide +kernel

theorem witness_engineJobs :
    (goes (.jobAccept 0) (withTask base (fun t => { t with wantsJob := true })) (fun u => (me u).jobGrant &&
      u.force == some 0) &&
      goes (.engineJobStart 0 1) (jobbed job0) (fun u => (jobAt u 0 5).any (fun j => j.phase == .running &&
        j.code == 0)) &&
      goes (.engineAcquireGranted 0 5)
        (jobbed { job0 with aq := true, phase := .acquiring, fn := 1, frame := job0.frame.set 6 0x1000000040 })
        (fun u => (jobAt u 0 5).isSome) &&
      goes (.engineJobComplete 0 5) (withMem (jobbed { job0 with phase := .running }) [(0x50000, 9)])
        (fun u => (jobAt u 0 5).isNone && tabGet 0 0x50000 u.mem.bytes == 0) &&
      goes (.jobWaitDone 0) (withTask base (fun t => { t with st := .blkJob }))
        (fun u => (me u).st == .ready)) = true := by decide +kernel

/-- A job with a record at 0x60000 and a stamp, in its last cycle. -/
def recJob : EngineJob := { job0 with phase := .running, st := true, frame := [0, 0x50000, 0x100000010, 0, 0x100, 0x60000, 0, 99] }
/-- Its entry for the lock, held exclusive. -/
def relJob (kind : Nat) : State :=
  let j := { recJob with rl := true, held := some { obj := 0x1000000000, gen := 3, mode := 1, scope := 0, depth := 0 } }
  let s := withJob memo j
  { s with mem := writeObj s.mem 0x1000000000 { lock0 with kind := kind, excl := true, holders := 1, xtag := j.tag } }
/-- The record's CODE, DETAIL and STAMP, and that the job has left. -/
def recordedAs (s : State) (code detail stamp : Nat) : Bool := goes (.engineJobComplete 0 5) s (fun u =>
  physNat u.mem 0x60000 1 == code && physNat u.mem 0x60008 8 == detail && physNat u.mem 0x60038 8 == stamp &&
    physNat u.mem 0x60002 2 == 5 && (jobAt u 0 5).isNone)

/-- Without release, with one, with one that meets an object of another kind, and after a failed check. -/
theorem witness_engineJobsEnd :
    (let s := jobbed recJob
     mayComplete (tabGet {} 0 s.hub.clusters) recJob && (metAnew s recJob == (s, recJob)) && !goesUnbound s recJob &&
       (sysBytes s recJob ((copyTransfer s recJob).runs ++ recRuns s recJob 0 (0, 0, 0))).isEmpty && recOk s recJob &&
       recordedAs s 0 16 99 && recordedAs (relJob 1) 0 16 99 && recordedAs (relJob 2) 6 0 0 &&
       recordedAs (jobbed { recJob with code := 3, detail := 0x51 }) 3 0x51 0 &&
       goes (.engineJobComplete 0 5) (relJob 1) (fun u => (readObj u.mem 0x1000000000).holders == 0)) = true := by decide +kernel

/-- Operands from words of 16 bits. -/
def halves (l : List Nat) : Array OpByte := (l.flatMap (fun v => (leBytes 2 v).map (fun b => some (b, false)))).toArray
/-- One element of a job with the types given. -/
def oneElem (ta tb tc : ElemTy) (k : Nat) : MxeShape :=
  { m := 1, n := 1, k := k, acc := false, sat := false, ta := ta, tb := tb, tc := tc, g := 0, zw := false, sparse := false, sealed := false }
/-- What the element comes to. -/
def mxeVal (p : MxeShape) (o : MxeOps) : Option Nat := match mxeElement p o 0 0 with | .done r _ => some r.val | .fail _ => none

/-- R143's and R144's examples, and an integer sum: (-128)·(-128) + 127·(-1) + C. -/
theorem test_mxeElements :
    mxeVal (oneElem .f16 .f16 .f32 3)
      { a := halves [0x7800, 0x0600, 0xF800], b := halves [0x7800, 0x0010, 0x7800], c := #[], aux := #[] } = some 0x2E800000 ∧
    mxeVal { oneElem .f16 .n4 .f32 64 with g := 2 }
      { a := halves (List.replicate 32 0x3C00 ++ List.replicate 32 0x3800)
        b := ((List.replicate 4 [0x10, 0x32, 0x54, 0x76, 0x98, 0xBA, 0xDC, 0xFE]).flatten.map (fun n =>
          some (BitVec.ofNat 8 n, false))).toArray
        c := #[], aux := halves [0x3400, 8] } = some 0xC0C00000 ∧
    mxeVal { oneElem .i8 .i8 .i32 2 with acc := true }
      { a := halves [0x7F80], b := halves [0xFF80], c := halves [0xFFFE, 0xFFFF], aux := #[] } = some (16384 - 127 - 2) := by
  decide +kernel

/-- 2:4 sparsity: index 0b1101 places the pair at k = 1 and 3; an entry with lo ≥ hi ends the job; a byte that is not there. -/
theorem witness_mxe :
    (let p := { oneElem .i8 .i8 .i32 4 with sparse := true }
     let o : MxeOps := { a := halves [0x0201, 0x0403], b := halves [0x0705], c := #[], aux := halves [0x000D] }
     mxeVal p o == some (2 * 5 + 4 * 7) && mxeElement p { o with aux := halves [0] } 0 0 == .fail 1 &&
       mxeElement p { o with b := #[none, none] } 0 0 == .fail 8) = true ∧
    (let j := { job0 with copy := false, frame := [0x50000, 0x51000, 0x52000, 0x100010001, 0x111, 0, 0, 0] }
     (locOf j (j.word 0)).isSome && (locOf j (j.word 1)).isSome && (locOf j (j.word 2)).isSome &&
       (engRanges j).all (fun r => !rangeUnbound base j r) && (mxeTransfer base j).code == 0) = true := by decide +kernel

def handle1 : Nat := 1 + 0x10000 + 0xBEEF * 2 ^ 32
/-- The domain with a grant of endpoint 1, on core `core` or a link, of adit 1, and of vector 5. -/
def granted (e : Endpoint) (a : Adit) : State :=
  let g : Grant := { index := 1, rev := 1, tag := 0xBEEF }
  let s := withS (withTask base (fun t => { t with vregs := 8 })) [(8, handle1), (1, 0x1000000000), (2, 0x1000000040)]
  { s with hub := { s.hub with endpoints := [(1, e)], adits := [(1, a)]
                               doms := [(1, { dom with grants := [g], endpoints := [g], vectors := [5] }), (2,
                                 { dom with state := .live })] } }
def endp : Endpoint := { rev := 1, core := 0, asid := 1, valid := true }
def adit1 : Adit :=
  { publisher := 1, rev := 1, valid := true, entry := 0x40000, cleanup := 0x40000, vmax := 16, smax := 8, mperm := 3, vneed := 8, mwmax := 0x1000 }

def msg1 : Msg :=
  { kind := .user, sender := 0, size := 8, stamp := 9, handler := 3, payload := 0x55, core := 0, asid := 1, ref := 1 }
def listening : State := withTask base (fun t => { t with resident := true })
def boxed : State := { listening with cores := { listening.cores with inbox := [(0, [msg1])] } }

theorem witness_messages :
    (runs (granted endp adit1) (.send (fJ 20 8 0 48)) &&
      runs (granted { endp with asid := 2 } adit1) (.send (fJ 20 8 0 0)) &&
      runs (granted { endp with ualink := some 3 } adit1) (.send (fJ 20 8 0 48)) &&
        traps (withPoison (granted endp adit1) 0x8000) (.send (fJ 20 8 0 8)) &&
      traps base (.send (fJ 20 8 0 8)) && traps (granted { endp with core := 1280 } adit1) (.send (fJ 20 8 0 8)) &&
      (let s := granted endp adit1
       let h := { msg1 with fromCore := some 0 }
       holds { s with hub := { s.hub with msgs := [(1, h), (2, h), (3, h), (4, h)], nextId := 5 } } (.send (fJ 20 8 0 8))) &&
      runs boxed (.recv (fJ 1 8 0 0)) && runs listening (.recv (fJ 1 8 1 0)) && blocks listening (.recv (fJ 1 8 0 0)) &&
      traps base (.recv (fJ 1 8 0 0))) = true := by decide +kernel

theorem witness_launches :
    (runs base (.launch (fJ 20 8 0 0)) && holds (outstanding base) (.launch (fJ 20 8 0 0)) &&
      traps (withPoison base 0x100) (.launch (fJ 20 8 0 0)) &&
      runs base (.graph (fJ 0 8 1 0)) && holds (outstanding base) (.graph (fJ 0 8 0 0)) &&
        traps (withPoison base 0x200) (.graph (fJ 0 8 1 0))) = true := by
  decide +kernel

def launch1 : Launch := { asid := 1, serial := 0, record := 0x60000, started := true, counter := 0x1000000040, left := 1, grid := [1, 1, 1] }

theorem witness_counters :
    (let s := withS base [(8, 0x1000000040)]
     let f := fJ 20 8 0 0
     let l := { s with hub := { s.hub with launches := [(9, launch1)] } }
     placed s (counterFmt f) (counterReq (me s).regs f 16 (scalarDests 20 false)) counterFindings && runs s (.ccnt f) &&
      runs (withMem s [(0x1000000040, 2 ^ 32)]) (.ccnt (fJ 20 8 1 0)) && blocks s (.ccnt (fJ 20 8 1 0)) &&
      placed l (counterFmt f) (counterReq (me l).regs f 1 []) (fun _ => []) && runs l (.cancel f) &&
        runs s (.cancel f) &&
      runs (granted endp adit1) (.hnote (fJ 0 0 0 5)) && traps (granted endp adit1) (.hnote (fJ 0 0 0 0)) &&
      traps (granted endp adit1) (.hnote (fJ 0 0 0 6)) && !effectAhead (granted endp adit1) 1 &&
      (match logReserve (granted endp adit1) 1 1 with | .ok _ => true | _ => false)) = true := by decide +kernel

/-! ### Gates -/

def fG (h : BitVec 6) (vn : BitVec 5) (sn : BitVec 4) (mw : BitVec 6) : FmtG := ⟨h, 1, vn, 2, sn, mw, 21, 0⟩
def fG0 (h st : BitVec 6) (imm : BitVec 32) : FmtG := ⟨h, 0, 0, 0, 0, 63, st, imm⟩

/-- The state conditions of a `gcall`, with the windows the largest that fit, and what it makes of the task. -/
theorem witness_gateCall :
    (let s := granted endp adit1
     let t := me s
     let f := fG 8 7 8 63
     !registersOut s t && !gatePoison t.regs t.vregs f && (handleAdit s 1 (getS t.regs 8) == some (1, adit1)) &&
      (windowOf s adit1 t t.regs f == some none) && (stackPinned s t).isNone && windowsFit adit1 t f && !aditOnStack s t 1 && !replaying s 1 &&
        !effectAhead s 1 &&
      (match sealTake s 1 with
       | some (va, _) => (pinnedFault s 1 (frameVa s t 1) 256).isNone && (pinnedFault s 1 va 34112).isNone
       | none => false) &&
      (match withLogs s t [1] Eff.ok with | .ok _ => true | _ => false)) = true := by decide +kernel

theorem witness_gateCallFails :
    (let s := granted endp adit1
     let f := fG 8 7 8 63
     let deep := { s with tasks := tabMod 0 (fun t => { t with depth := 8 }) s.tasks }
     holds (withTask s (fun t => { t with pend := [(3, 200)] })) (.gcall f) && traps (withPoison s 0x100) (.gcall f) &&
      traps (withTask s (fun t => { t with clean := true })) (.gcall f) && runs deep (.gcall f) &&
        runs (granted endp {}) (.gcall f) &&
      runs (granted endp { adit1 with smax := 7 }) (.gcall f) && runs s (.gcall (fG 8 7 8 1)) &&
      runs { s with hub := { s.hub with doms := tabMod 1 (fun d => { d with place := { d.place with sealCount := 0 } }) s.hub.doms } } (.gcall f)) = true := by
  decide +kernel

/-- The older of two entries is freed: the newer keeps its place, and the next one takes the place left (R270, R318). -/
theorem test_acq_place :
    let e : AcqEntry := { obj := 32, gen := 0, mode := 1, scope := 0, depth := 0 }
    let t : Task := freeEntry { acq := [e, { e with obj := 64, ix := 1 }] } e
    acqBits t = 2 ∧ acqPlace t.acq = 0 := by decide

/-- The task one depth up, its frame and seal block all zero but the caller. -/
def called : State := withMem (withTask base (fun t => { t with depth := 1, vregs := 8 })) [(0x3000000, 0x10001),
  (0x3000040, 0x4000000)]

/-- One depth up, the caller and the adit read from the frame. -/
theorem witness_stackReads :
    ((stackPinned called (me called)).isNone &&
      [0x43, 0x44].all (fun n => runs called (.rsys (fY 5 0 n 0)) && traps called (.xsys (fY 5 1 n 1)))) = true := by
  decide +kernel

theorem witness_gateReturn :
    (let s := called
     let t := me s
     traps base (.gret (fG0 0 0 0)) && !registersOut s t && !jobsInFlight s 7 1 && (readFrame s t 1).caller == 1 &&
      (readFrame s t 1).sealVa == 0x4000000 && (pinnedFault s 1 (frameVa s t 1) 256).isNone &&
        (pinnedFault s 1 0x4000000 34112).isNone &&
      traps (withTask s (fun t => { t with acq := [{ obj := 0, gen := 0, mode := 1, scope := 0, depth := 1 }] }))
        (.gret (fG0 0 0 0)) &&
      holds (withTask s (fun t => { t with retry := [aRef] })) (.gret (fG0 0 0 0))) = true := by decide +kernel

/-- A job of the trapped activation is in flight, so that the abort waits for it. -/
theorem witness_gateDone :
    (traps base (.gdone (fG0 0 0 0)) && traps inHandler (.gdone (fG0 0 0 0)) && (me called).depth == 1 &&
      goes (.gdone (fG0 0 0 0)) (withTask (jobbed { job0 with depth := 1 })
        (fun t => { t with depth := 1, handler := true }))
        (fun u => (me u).abort.isSome && (me u).st == .inCall) &&
      goes (.gdone (fG0 0 0 0)) (withTask called (fun t => { t with clean := true }))
        (fun u => u.grp.result == .retired) &&
      (pinnedFault called 1 (trapFrameVa called 1 0) 256).isNone) = true := by
  decide +kernel

theorem witness_domainInfo :
    (runs base (.dinfo (fG0 0 5 0)) && runs base (.dinfo (fG0 0 5 1)) && runs base (.dinfo (fG0 0 5 4)) &&
      runs base (.dinfo (fG0 0 5 6)) &&
      runs base (.dinfo (fG0 0 5 9)) && runs base (.dinfo (fG0 8 5 5)) &&
        runs (granted endp adit1) (.dinfo (fG0 8 5 5)) &&
      traps (withPoison base 0x100) (.dinfo (fG0 8 5 5))) = true := by decide +kernel

/-! ### Fault service, benches and marks -/

/-- The ring's one entry in a state, its load of 8 bytes at 0x50000 into s6 the task's. -/
def ringed (state op : Nat) : State :=
  let e : RetryEntry := { gtid := 7, pc := 0, va := 0x50000, op := op, aop := 0, sz := 3, dest := 6, depth := 0, state := state, ord := 0, sc := 0, roff := 0, data := [] }
  let s := withTask (withS base [(4,
    0x2000040)]) (fun t => { t with retry := [{ aRef with line := 0xA00, dests := [6] }] })
  { s with mem := physWrite s.mem 0x2000040 e.bytes false }

def fYs (d a fn : BitVec 6) : FmtY := ⟨d, a, 0, fn, 0⟩

theorem witness_faultService :
    (runs base (.rtake (fYs 3 0 0)) && runs (ringed 1 1) (.rtake (fYs 3 0 0)) &&
      traps (withPoison base 0x10) (.rcmpl (fYs 3 4 0)) &&
      runs base (.rfail (fYs 3 4 0)) && runs (ringed 3 1) (.rcmpl (fYs 3 4 0)) &&
        runs (ringed 0 1) (.rfail (fYs 3 4 0)) &&
      runs (ringed 2 2) (.rcmpl (fYs 3 4 1)) && runs (ringed 2 1) (.rcmpl (fYs 3 4 1)) &&
        runs (ringed 2 1) (.rcmpl (fYs 3 4 0)) &&
      runs (ringed 2 1) (.rfail (fYs 3 4 0)) && (victimOf (ringed 2 1) 1 0 7).isSome &&
      (portEnd (ringed 2 1) (me (ringed 2 1))).isNone && !heldOut (ringed 2 1)) = true := by decide +kernel

/-- An entry whose page lies behind an unbound window: REFAULT. -/
theorem witness_faultUnbound :
    (let e : RetryEntry := { gtid := 7, pc := 0, va := 0x5000000000, op := 1, aop := 0, sz := 3, dest := 6, depth := 0, state := 2, ord := 0, sc := 0, roff := 0, data := [] }
     let s0 := withTask (withS linked [(4, 0x2000040)])
       (fun t => { t with retry := [{ aRef with line := 0xA00, dests := [6] }] })
     let s := { s0 with mem := physWrite s0.mem 0x2000040 e.bytes false }
     (portEnd s (me s)).isNone && (match placeEntry s 1 .load false (entryElems s 1 0 (readRetry s 1 0)) with
       | .ok ps => ps.all (fun x => match x.2 with | .mem _ _ pa _ _ => unboundWindow pkg pa | _ => false) && !ps.isEmpty
       | _ => false) &&
      goes (.rcmpl (fYs 3 4 0)) s (fun u => u.grp.result == .retired && getS (me u).regs 3 == 2)) = true := by decide +kernel

theorem witness_mark : runs base (.tmark (fYs 3 0 0)) = true := by decide +kernel

/-- The conditions of a bench: its issuer stands alone at depth 0, and the log has room. -/
theorem witness_bench :
    (let s := withTask listening (fun t => { t with vregs := 8 })
     (benchLine s 1).isEmpty && benchReady s 1 s.cur && !replaying s 1 &&
       (match logReserve s 1 1 with | .ok _ => true | _ => false) &&
      traps base (.bench (fYs 3 0 0)) &&
        traps (withTask listening (fun t => { t with handler := true })) (.bench (fYs 3 0 0))) = true := by
  decide +kernel

/-! ### Events: waits, completions -/

theorem witness_wakes :
    (goes (.feWake 0) (withTask filled
      (fun t => { t with st := .blkFe, feWait := some { kind := 0, grans := [255] } }))
      (fun u => (me u).st == .ready) &&
      (let m : Monitor := { va := 0x1000000000, pa := 0x1000000000, size := 4, cond := 1, comparand := 3, tabled := true, order := 1, seen := some 4 }
       goes (.monitorWake 0) (withTask base (fun t => { t with st := .blkMon, mon := some m }))
         (fun u => (me u).st == .ready) &&
       goes (.monitorWake 0) (withTask base
         (fun t => { t with st := .blkMon, mon := some { m with seen := none } })) (fun u => (me u).st == .blkMon) &&
       goes (.monitorSweep 0) (withTask base
         (fun t => { t with st := .blkMon, mon := some { m with tabled := false } })) (fun u => (me u).st == .ready)) &&
      goes (.acqRetryPass 0) (withTask base (fun t => { t with st := .blkAcq })) (fun u => (me u).st == .ready) &&
      goes (.recvWake 0) (withTask boxed (fun t => { t with st := .blkRecv }))
        (fun u => (me u).st == .ready)) = true := by decide +kernel

def aFault : LateFault := { cause := .dataFault, addr := 0, info := 0, record := 0 }

theorem witness_stops :
    (goes (.dataFaultDelivery 0) (withTask base (fun t => { t with dataFaults := [aFault] }))
      (fun u => u.force == some 0) &&
      goes (.dataFaultDelivery 0) (withTask base (fun t => { t with dataFaults := [aFault], st := .blkMon }))
        (fun u => (me u).st == .ready) &&
      goes (.dataFaultDelivery 0) (withTask base (fun t => { t with dataFaults := [aFault], handler := true }))
        (fun u => u.force == none) &&
      goes (.gateMoveDone 0) (withTask base (fun t => { t with st := .inCall, moveUntil := 100 }))
        (fun u => (me u).st == .ready) &&
      goes (.gateMoveDone 0) (withTask base (fun t => { t with st := .inCall, moveUntil := 101 }))
        (fun u => (me u).st == .inCall) &&
      goes (.gateMoveDone 0) (withTask base (fun t => { t with st := .inCall, preempt := 0x21 }))
        (fun u => (me u).st == .preempting) &&
      goes (.cleanupReserveOut 0) (withTask called (fun t => { t with clean := true })) (fun _ => true) &&
      (let s := { base with cores := { base.cores with filling := [(0, 1, 0x40000)] } }
       goes (.icacheFill ⟨0, 1, 0x40000⟩) s (fun u => u.cores.filling.isEmpty &&
         (icLookup u 0 1 0x40000).any (fun x => x.data == 0x4001))) &&
      goes (.translationInvalidate ⟨1, 0, 0x1000⟩) base (fun _ => true) &&
        !rangeBusy base ⟨1, 0, 0x1000⟩) = true := by decide +kernel

/-- A load of 8 bytes of a host page, left for its link. -/
def late : State :=
  let q : SysPart := { owner := 1, va := 0x2000000000, pa := hostAddr 0, size := 8, data := 0, cmp := 0, roff := 0 }
  let s := withTask base (fun t => { t with arriving := [(6, [4])] })
  { s with hub := { s.hub with accesses := [(4, { slot := 0, gtid := 7, dests := [6], isStore := false, acquire := false, parts := [q] })] } }

theorem witness_completions :
    (goes (.memoryAccessComplete ⟨4, 0, 0⟩) late (fun u => u.hub.accesses.isEmpty && (me u).arriving.isEmpty) &&
      goes (.hostAccessError ⟨4, 1⟩) late (fun u => u.hub.accesses.isEmpty && (me u).retry.length == 1) &&
      goes (.hostAccessTimeout ⟨4, 1⟩) { late with mem := (ringed 1 1).mem } (fun u => u.hub.accesses.length == 1) &&
      goes (.hostAccessError ⟨1, 1⟩) (outstanding base) (fun u => u.hub.accesses.length == 1)) = true := by decide +kernel

/-! ### Events: launches, messages and tasks -/

/-- A launch record at 0x60000 of one task, its metadata of 8 vector registers at 0x60080, its counter in the ATOMIC page. -/
def recorded : State :=
  let s := withMem base [(0x60000, 0x40000), (0x60008, 0x60080), (0x60010, 0x100000001), (0x60018, 1), (0x60050,
    0x1000000040), (0x60080, 8)]
  { s with hub := { s.hub with launches := [(9, { asid := 1, serial := 0, record := 0x60000 })], nextId := 10 } }
def startable : Launch := { launch1 with next := [0, 1, 1, 1], stop := [1, 1, 1, 1], entry := 0x40000 }
def withLaunch (s : State) (l : Launch) : State := { s with hub := { s.hub with launches := [(9, l)], nextId := 10 } }
def sleeper : Saved := { task := { task0 with vregs := 8, id := { gtid := 8 } }, addr := 0x8000000, area := 1, cause := 0x21, order := 1 }
def withSaved (s : State) (v : Saved) : State := { s with hub := { s.hub with saved := [(6, v)], nextId := 10 } }
def startOf : Msg := { msg1 with kind := .taskStart, handler := 0x40000, ref := 9, payload := 0, order := 3 }

theorem witness_launchStart :
    (goes (.launchStart 9) recorded (fun u => (launchAt u 9).any (fun l => l.started && l.left == 1)) &&
      goes (.launchStart 9) (withMem recorded [(0x60010, 0)]) (fun u => (launchAt u 9).isNone &&
        u.hub.faultLog.length == 1)) = true := by
  decide +kernel

/-- The recorded launch, as `l`, an item of job 5. -/
def underJob (f : Launch → Launch) : State :=
  { recorded with hub := { recorded.hub with launches := [(9, f { asid := 1, serial := 0, record := 0x60000, parent := .job 5 })]
                                             jobs := [(5, { asid := 1, counter := 0, usable := false, left := 2 })] } }

/-- Behind an earlier item, external, external in a replay, under a cancelled job, one that fails, and with an automatic
bench due. -/
theorem witness_launchStarts :
    (let began := fun (u : State) => (launchAt u 9).any (·.started)
     let behind := underJob id
     let behind := { behind with hub := { behind.hub with launches := tabSet 4 { asid := 1, serial := 0, record := 0x60000, parent := .job 5 } behind.hub.launches } }
     goes (.launchStart 9) behind (fun u => u == behind) &&
       goes (.launchStart 9) (underJob (fun l => { l with external := true }))
         (fun u => began u && (readLog u 1).nextSeq == (readLog recorded 1).nextSeq + 1) &&
       (let s := withMem (underJob (fun l => { l with external := true })) [(0xA000018, 0x1A0200)]
        effectAhead s 1 && goes (.launchStart 9) s (fun u => !began u && (domOf u 1).any (·.logStopped))) &&
       goes (.launchStart 9) (underJob (fun l => { l with cancelled := true }))
         (fun u => (launchAt u 9).isNone && physNat u.mem 0x1000000044 4 == 2) &&
       (let s := underJob id
        goes (.launchStart 9) (withMem s [(0x60010, 0)])
          (fun u => (launchAt u 9).isNone && (tabFind 5 u.hub.jobs).any (fun j => j.left == 1 && j.faulted))) &&
       (let s := { recorded with tasks := [], hub := { recorded.hub with doms := [(1, { dom with flags := 6 })] } }
        goes (.launchStart 9) s (fun u => began u && (readLog u 1).curBench == (readLog s 1).curBench + 1))) = true := by
  decide +kernel

theorem witness_dispatch :
    (!(startChoices (withLaunch base startable) true 0).isEmpty &&
      goes (.dispatchTaskStart ⟨0, true⟩) (withLaunch base startable) (fun u => u.hub.msgs.length == 1) &&
      !(resumeChoices (withSaved base sleeper) true 0).isEmpty &&
      goes (.dispatchResume ⟨0, true⟩) (withSaved base sleeper) (fun u => u.hub.msgs.length == 1)) = true := by decide +kernel

theorem witness_arrival :
    (let s := { withLaunch base startable with hub := { (withLaunch base startable).hub with msgs := [(4, startOf)] } }
     let full := { s with cores := { s.cores with inbox := [(0, List.replicate 64 startOf)] } }
     !discarded s startOf && inboxRoom s startOf && !inboxRoom full startOf &&
      goes (.messageArrival 4) s (fun u => u.hub.msgs.isEmpty && (tabGet [] 0 u.cores.inbox).length == 1) &&
      goes (.messageArrival 4) full (fun u => u.hub.msgs.length == 1) &&
      (let bad := { startOf with handler := 0x4000000000 }
       discarded s bad &&
         goes (.messageArrival 4) { s with hub := { s.hub with msgs := [(4, bad)] } } (fun u => tabGet 0 0 u.cores.discarded == 1))) = true := by
  decide +kernel

theorem witness_admission :
    (let s := { withLaunch base { startable with vregs := 8 } with cores := { base.cores with inbox := [(0, [startOf])] } }
     (pickMsg s 0 [startOf] []).any (fun r => r.2.1 == startOf) &&
       goes (.taskAdmit 0) s (fun u => u.tasks.length == 2)) = true ∧
    (let m := { startOf with kind := .resume, ref := 6 }
     let s := { withSaved base sleeper with cores := { base.cores with inbox := [(0, [m])] } }
     let s0 := acctTaken s m
     let saved := loadTask (readArea s0 1 sleeper.addr sleeper.task) sleeper.task
     (pickMsg s 0 [m] []).any (fun r => r.2.1 == m) && sleeper.task.marks.isEmpty && !saved.handler &&
       (pinnedFault s0 1 sleeper.addr (saveBody sleeper.task)).isNone &&
       goes (.taskAdmit 0) s (fun u => u.hub.saved.isEmpty && u.tasks.any (fun e => e.2.id.gtid == 8))) = true := by
  decide +kernel

/-- Two domains that share cluster 0 in time. -/
def shared : State :=
  let d := { dom with timesliced := true }
  { base with hub := { base.hub with doms := [(1, d), (2, { d with evicted := [0] })] } }

theorem witness_taskEnds :
    (goes (.budgetExpiry 0) (withTask base (fun t => { t with budget := 0, cancelled := true }))
      (fun u => (me u).st == .ended) &&
      goes (.budgetExpiry 0) (withTask base (fun t => { t with budget := 0 })) (fun u => (me u).st == .preempting) &&
      goes (.budgetExpiry 0) base (fun u => (me u).st == .ready) &&
      goes (.timeSliceEnd 1 2) shared (fun u => (me u).st == .preempting && (me u).preempt == 0x21) &&
      (accessesOf base 0).isEmpty && !jobsInFlight base 7 0 &&
      goes (.preemptSave 0) { withTask base (fun t => { t with st := .preempting }) with
        hub := { base.hub with doms := [(1, { dom with place := { place with saveLen := 0 } })] } } (fun u => u.tasks.length == 1) &&
      goes (.taskFinish 0) (withTask (withLaunch base { launch1 with left := 2 })
        (fun t => { t with st := .ended, launch := 9 }))
        (fun u => u.tasks.isEmpty && (launchAt u 9).any (fun l => l.left == 1)) &&
      goes (.taskFinish 0) (withTask (withLaunch base launch1) (fun t => { t with st := .ended, launch := 9, faulted := true }))
        (fun u => u.tasks.isEmpty && (launchAt u 9).isNone && physNat u.mem 0x1000000044 4 == 3)) = true := by decide +kernel

/-! ### Events: graphs -/

def walker1 : Walker := { asid := 1, first := 0x70000, block := 0x1000000080, snap := false, state := .atNode, arms := 1, counter := 0x1000000080, left := 2, len := 0 }
/-- The walker, with words of memory. -/
def graphed (w : Walker) (l : List (Nat × Nat)) : State :=
  let s := withMem base l
  { s with hub := { s.hub with walkers := [(3, w)], nextId := 10, doms := [(1, { dom with vectors := [5] })] } }
def walks (i : Instr) (s : State) (p : Walker → Bool) : Bool := goes i s (fun u => (walkerAt u 3).any p)

theorem witness_graphArms :
    (walks (.graphArm 3) (graphed { walker1 with state := .arming, arms := 0, left := 0 } [])
      (fun w => w.state == .atNode && w.left == 1) &&
      walks (.graphArm 3) (graphed { walker1 with state := .arming } []) (fun w => w.arms == 2) &&
      walks (.graphArm 3) (graphed { walker1 with state := .arming } [(0x1000000090, 1)]) (fun w => w.faulted) &&
      goes (.graphArm 3) (graphed { walker1 with state := .arming, arms := 0, block := 8 } [])
        (fun u => u.hub.walkers.isEmpty) &&
      walks (.graphWaitDone 3) (graphed { walker1 with state := .waiting 0x1000000040 } []) (fun w => w.pos == 0) &&
      walks (.graphWaitDone 3) (graphed { walker1 with state := .waiting 0x1000000040 } [(0x1000000040,
        2 ^ 32)]) (fun w => w.pos == 1) &&
      !walkerPaused (graphed walker1 []) 1) = true := by decide +kernel

/-- Node 0: one that is none, a LAUNCH, a WAIT, a COND that fails, holds ahead and holds at itself, a HOST, an END. -/
theorem witness_graphNodes :
    (walks (.graphNodeEnd 3) (graphed walker1 []) (fun w => w.faulted && w.left == 1) &&
      walks (.graphNodeEnd 3) (graphed walker1 [(0x70000, 2), (0x70008, 0x1000000040)]) (fun w => w.pos == 0 &&
        !w.faulted) &&
      walks (.graphNodeLaunch 3) (graphed walker1 [(0x70000, 1), (0x70008, 0x60000), (0x60000, 0x40000), (0x60008,
        0x60080), (0x60010, 0x100000001),
        (0x60018, 1), (0x60050, 0x1000000040), (0x60080, 8)]) (fun w => w.pos == 1 && w.left == 3) &&
      (let s := graphed walker1 [(0x70000, 1), (0x70008, 0x60000)]
       walks (.graphNodeLaunch 3) s (fun w => w.pos == 1 && w.left == 2 && w.faulted && w.state == .atNode) &&
       walks (.graphNodeLaunch 3) { s with mem := { s.mem with poison := [(0x6000, true)] } }
         (fun w => w.left == 2 && w.faulted && w.state == .atNode) &&
       walks (.graphNodeLaunch 3) (graphed walker1 [(0x70000, 1), (0x70008, 0x4000000000)]) (fun w => w.state == .done)) &&
      walks (.graphNodeWait 3) (graphed walker1 [(0x70000, 2), (0x70008, 0x1000000040)])
        (fun w => w.state == .waiting 0x1000000040) &&
      walks (.graphNodeCond 3) (graphed walker1 [(0x70000, 3), (0x70008, 0x1000000040), (0x70010, 1)])
        (fun w => w.pos == 1) &&
      walks (.graphNodeCond 3) (graphed walker1 [(0x70000, 3 + 2 ^ 33), (0x70008, 0x1000000040)])
        (fun w => w.pos == 2) &&
      walks (.graphNodeCond 3) (graphed walker1 [(0x70000, 3), (0x70008, 0x1000000040)])
        (fun w => w.state == .arming && w.pos == 0) &&
      walks (.graphNodeHost 3) (graphed walker1 [(0x70000, 4), (0x70018, 5 * 2 ^ 16)]) (fun w => w.pos == 1) &&
      walks (.graphNodeEnd 3) (graphed walker1 [(0x70000, 5)]) (fun w => w.state == .done && w.left == 1) &&
      goes (.graphNodeEnd 3) (graphed { walker1 with left := 1 } [(0x70000, 5)])
        (fun u => u.hub.walkers.isEmpty)) = true := by decide +kernel

/-! ### Events: the host interface -/

theorem witness_registers :
    (let q : Queue := { err := 0 }
     let s := { base with hub := { base.hub with queues := [(1, { q with stopped := true }), (2, { q with err := 8 })] } }
     let is := fun (i : Instr) (k : Nat) (p : Queue → Bool) => goes i s (fun u => p (queueAt u k))
     is (.sqTailWrite 1 2) 1 (·.tail == 2) && is (.sqTailWrite 2 2) 2 (·.tail == 0) &&
       is (.sqStoppedClear 1) 1 (!·.stopped) &&
      is (.registerWrite ⟨2, 4096, 64⟩) 1 (·.base == 64) && is (.registerWrite ⟨2, 4104, 9⟩) 1 (·.log2 == 9) &&
      is (.registerWrite ⟨2, 4112, 9⟩) 1 (·.tail == 9) && is (.registerWrite ⟨2, 4128, 3⟩) 1 (fun q => q.en &&
        !q.stopped) &&
      is (.registerWrite ⟨2, 1024 * 4096 + 16, 9⟩) 1024 (·.tail == 9) &&
        is (.registerWrite ⟨2, 4120, 9⟩) 1 (·.head == 0) &&
      goes (.registerWrite ⟨0, 4096 + 8 * 255, 0x2000000003⟩) s (fun u => (tabGet {} 255 u.hub.vecs).thresh == 3) &&
      goes (.registerWrite ⟨0, 8, 1⟩) s (fun u => u == s) &&
      goes (.sqTailWrite 1 2) { s with hub := { s.hub with pkg := { pkg with ready := false } } } (fun u => (queueAt u 1).tail == 0)) = true := by
  decide +kernel

/-- Every write while READY is 0, offsets that name no register, and the registers that are read alone. -/
theorem witness_unlistedRegisters :
    (let s := { base with hub := { base.hub with queues := [(1, { stopped := true, log2 := 9 })], crcErrs := 5 } }
     let off := { s with hub := { s.hub with pkg := { pkg with ready := false } } }
     let drops := fun (s : State) (bar a : Nat) => goes (.registerWrite ⟨bar, a, 9⟩) s (fun u => u == s)
     [(2, 4096), (2, 4104), (2, 4112), (2, 4128), (0, 4096 + 8 * 255), (4, 0)].all (fun x => drops off x.1 x.2 &&
         readReg off x.1 x.2 == 0) &&
       [(0, 0x1800), (2, 4096 + 24), (2, 4096 + 40), (2, 4096 + 48), (2, 1025 * 4096), (4, 0)].all (fun x => drops s x.1 x.2) &&
       [(0, 0x1800), (2, 4096 + 48), (2, 1025 * 4096), (4, 0)].all (fun x => readReg s x.1 x.2 == 0) &&
       readReg s 0 0x100 == 2 && readReg s 0 0x200 == 5 && readReg s 2 4104 == 9) = true := by
  decide +kernel

/-- A queue whose next record, at host address 0, holds these words. -/
def offers (s : State) (k : Nat) (q : Queue) (l : List (Nat × Nat)) : State :=
  let s1 := withMem s (l.map (fun e => (hostAddr e.1, e.2)))
  { s1 with hub := { s1.hub with queues := [(k, { q with en := true, tail := 1 })] } }
/-- The event of a record, on domain 1's queue with a job open. -/
def fetched (i : RecordFetch → Instr) (l : List (Nat × Nat)) (p : State → Bool) : Bool :=
  let s := offers base 1 { openJob := some (4, 2) } l
  goes (i ⟨1, true⟩) { s with hub := { s.hub with nextId := 10, jobs := [(4, { asid := 1, counter := 0x1000000040, usable := true, left := 2 })] } } p

theorem witness_records :
    (running base && liveDom base 1 && (queueAt (offers base 1 {} []) 1).fetches &&
      goes (.sqNopRecord ⟨1, false⟩) (offers base 1 {} []) (fun u => (queueAt u 1).err == 7) &&
      goes (.sqNopRecord ⟨1, true⟩) (offers base 1 {} [(0, 9)]) (fun u => (queueAt u 1).stopped) &&
      goes (.sqNopRecord ⟨1, true⟩) (offers base 1 {} []) (fun u => (queueAt u 1).head == 1) &&
      goes (.sqJobRecord ⟨1, true⟩) (offers base 1 {} [(0, 0x20001), (8, 0x1000000040)])
        (fun u => u.hub.jobs.length == 1 && (queueAt u 1).openJob == some (1, 2)) &&
      fetched .sqLaunchRecord [(0, 2), (8, 0x60000)] (fun u => u.hub.launches.length == 1) &&
      fetched .sqGraphRecord [(0, 3), (8, 0x70000), (16, 0x1000000080)] (fun u => u.hub.walkers.length == 1) &&
      goes (.sqWaitRecord ⟨1, true⟩) (offers base 1 {} [(0, 4), (8, 0x1000000040)])
        (fun u => (queueAt u 1).waiting == some 0x1000000040) &&
      goes (.sqWaitRecord ⟨1, true⟩) (offers base 1 {} [(0, 4), (8, 0x1000000040), (2 ^ 64, 0)])
        (fun u => (queueAt u 1).head == 1) &&
      goes (.sqCancelRecord ⟨1, true⟩) (offers base 1 {} [(0, 5), (8, 0x1000000040)])
        (fun u => (queueAt u 1).head == 1)) = true := by
  decide +kernel

theorem witness_interrupts :
    (let w : Queue := { waiting := some 0x1000000040 }
     let q := { base with hub := { base.hub with queues := [(1, w)] } }
     let vec := fun (v : MsixVec) => { base with hub := { base.hub with vecs := [(5, v)] } }
     let at5 := fun (i : Instr) (v : MsixVec) (p : MsixVec → Bool) => goes i (vec v)
       (fun u => p (tabGet {} 5 u.hub.vecs))
     goes (.sqWaitDone 1) q (fun u => (queueAt u 1).waiting.isSome) &&
      goes (.sqWaitDone 1) (withMem q [(0x1000000040, 2 ^ 32)]) (fun u => (queueAt u 1).waiting.isNone) &&
      at5 (.msixUnmask 5 true) { masked := false } (·.masked) && at5 (.msixUnmask 5 false) {} (!·.masked) &&
      at5 (.msixUnmask 5 false) { pendingBit := true } (·.sending) &&
        at5 (.msixTimerExpiry 5) { running := true, pend := 1 } (·.pendingBit) &&
      at5 (.msixTimerExpiry 5) { running := true, pend := 1, masked := false } (·.sending) &&
        at5 (.msixTimerExpiry 5) {} (!·.sending) &&
      at5 (.msixMessageIssued 5) { sending := true } (·.sent == 1) &&
      at5 (.msixMessageIssued 5) { sending := true, dueNext := true, pend := 1, masked := false }
        (fun v => v.sent == 1 && v.sending) &&
      goes (.msixMessageIssued 5) { outstanding base with hub := { (outstanding base).hub with vecs := [(5, { sending := true, after := [1] })] } }
        (fun u => (tabGet {} 5 u.hub.vecs).sending)) = true := by decide +kernel

/-! ### Events: the administrative queue -/

/-- A state with a command offered: its kind and ASID, and ARGA to ARGC; its result lies at host address 0x1000. -/
def asks (s : State) (kind asid a b c : Nat) : State :=
  offers s admQueue {} [(0, kind + 2 ^ 16 * asid), (8, 0x1000), (16, a), (24, b), (32, c)]
/-- The command is executed, with STATUS and VALUE as given. -/
def told (i : AdminFetch → Instr) (s : State) (status value : Nat) : Bool :=
  running s && (queueAt s admQueue).fetches && goes (i ⟨true, true⟩) s (fun u =>
    (queueAt u admQueue).head == 1 && physNat u.mem (hostAddr 0x1000) 8 == status &&
      physNat u.mem (hostAddr 0x1008) 8 == value)
def bare (f : Domain → Domain) : State := { base with tasks := [], hub := { base.hub with doms := [(1, f dom)] } }
def flags1 : Nat := 20 * 128

theorem witness_adminRecords :
    (goes (.getNonce ⟨false, true⟩) (asks base 0x1C 0 0 0 0) (fun u => (queueAt u admQueue).err == 7) &&
      goes (.getNonce ⟨true, true⟩) (asks base 0x1C 1 0 0 0) (fun u => (queueAt u admQueue).err == 2) &&
      goes (.getNonce ⟨true, true⟩) (asks base 0x12 1 0 0 0) (fun u => (queueAt u admQueue).head == 0) &&
      told .domKill { asks base 0x12 1 0 0 0 with hub := { (asks base 0x12 1 0 0 0).hub with pkg := { pkg with lifecycle := .retired } } } 4 0) = true := by
  decide +kernel

/-- `n` ASIDs of the device are taken. -/
def crowded (n : Nat) : State := { base with tasks := [], hub := { base.hub with doms := (upTo n).map (fun a => (a, dom)) } }

theorem witness_domains :
    (told (fun f => .domCreate f place) (asks base 0x10 0 0 0 0) 1 0 &&
      told (fun f => .domCreate f place) (asks base 0x10 0 flags1 0x2000 0) 0 0 &&
      told .domRevoke (asks base 0x11 1 0 0 0) 0 0 && told .domRevoke (asks base 0x11 2 0 0 0) 3 0 &&
        told .domKill (asks base 0x12 1 0 0 0) 0 0 &&
      told .domKill (asks (bare (fun d => { d with state := .killed })) 0x12 1 0 0 0) 0 0 &&
        told .domKill (asks base 0x12 2 0 0 0) 3 0 &&
      !workLeft (bare id) 1 && workLeft base 1 && told .domDestroy (asks base 0x13 1 0 0 0) 4 0 &&
        told .domDestroy (asks base 0x13 2 0 0 0) 3 0 &&
      goes (.domDestroy ⟨true, true⟩)
        (asks { base with hub := { base.hub with doms := [(1, { dom with state := .revoked })] } } 0x13 1 0 0 0)
        (fun u => (queueAt u admQueue).head == 0)) = true := by decide +kernel

/-- The domain publishes an adit, receives at an endpoint, and has a message on its way and a task running. -/
def mailed (s : State) : State := { s with hub := { s.hub with msgs := [(3, msg1)] } }

theorem witness_revoked :
    goes (.domRevoke ⟨true, true⟩) (asks (mailed (granted endp adit1)) 0x11 1 0 0 0)
      (fun u => (domOf u 1).any (·.state == .revoked) && !(tabGet {} 1 u.hub.adits).valid &&
        (tabGet {} 1 u.hub.endpoints).rev == 2 && (queueAt u 1).err == 8 && u.hub.msgs.isEmpty && (me u).st == .ended) = true := by
  decide +kernel

/-- One task is in PREEMPTING and one is saved. -/
theorem witness_killed :
    goes (.domKill ⟨true, true⟩) (asks (withSaved (withTask base (fun t => { t with st := .preempting })) sleeper) 0x12 1 0 0 0)
      (fun u => (me u).marks == [(1, 2)] && u.hub.saved.all (fun y => y.2.task.marks == [(1, 2)])) = true := by
  decide +kernel

/-- A domain that is to be destroyed: ended, and without work left. -/
theorem witness_destroyed :
    (let s := asks (bare (fun d => { d with state := .revoked })) 0x13 1 0 0 0
     running s && (queueAt s admQueue).fetches && (recordBytes s (queueAt s admQueue)).isSome && !workLeft s 1 &&
       (domOf s 1).any (·.state == .revoked)) = true := by
  decide +kernel

/-- With all 1,024 taken, none is free. -/
theorem witness_deviceFull (n a : Nat) (h : a < n) : domOf (crowded n) a ≠ none := by
  have key : ∀ l : List Nat, a ∈ l → tabFind a (l.map (fun k => (k, dom))) = some dom := by
    intro l
    induction l with
    | nil => simp
    | cons k l ih =>
      intro hm
      by_cases hk : a = k
      · simp [tabFind, hk]
      · simp only [List.map_cons, tabFind, if_neg hk]
        exact ih (by simpa [hk] using hm)
  have hf : tabFind a (crowded n).hub.doms = some dom := key (upTo n) (by simpa [upTo] using h)
  simp [domOf, hf, dom]

/-- An adit image of domain 1 at 0x80000. -/
def aditImage (s : State) : State := withMem s [(0x80000, 1), (0x80008, 0x40000), (0x80010, 0x40000)]
def oneAdit (s : State) : State := { s with hub := { s.hub with adits := [(7, adit1)] } }

theorem witness_grants :
    (told .aditGrant (asks (bare (fun d => { d with state := .revoked })) 0x15 1 0 0 0) 3 0 &&
      goes (.aditPublish ⟨true, true⟩) (asks (aditImage base) 0x14 1 0x80000 0 0)
        (fun u => (tabGet {} 0 u.hub.adits).valid) &&
      told .aditPublish (asks base 0x14 1 0x80001 0 0) 1 0 &&
      goes (.aditGrant ⟨true, true⟩) (asks (oneAdit base) 0x15 1 7 0 0)
        (fun u => (domOf u 1).any (fun d => d.grants.length == 1)) &&
      told .aditGrant (asks base 0x15 1 7 0 0) 1 0 && told .aditRevoke (asks (oneAdit base) 0x16 1 7 0 0) 0 0 &&
        told .aditRevoke (asks base 0x16 1 7 0 0) 1 0 &&
      goes (.epGrant ⟨true, true⟩) (asks base 0x17 1 0x10004 0 0)
        (fun u => (domOf u 1).any (fun d => d.endpoints.length == 1)) &&
      told .epGrant (asks base 0x17 1 1280 0 0) 1 0 && told .vecGrant (asks base 0x18 1 255 0 0) 0 0 &&
        told .vecGrant (asks base 0x18 1 256 0 0) 1 0 &&
      told .setAllot (asks base 0x19 1 1 0 0) 0 0 && told .setAllot (asks base 0x19 1 1 0 (2 ^ 63 + 99 * 2 ^ 40)) 1 0 &&
      told .setAllot (asks base 0x19 1 1 0 (2 ^ 63 + 100 * 2 ^ 40)) 0 0) = true := by decide +kernel

def inLife (l : Lifecycle) (s : State) : State := { s with hub := { s.hub with pkg := { s.hub.pkg with lifecycle := l } } }

/-- A KEY_IMPORT whose blob is all zero is legal as far as its fields go: either the key unwraps or it does not. -/
theorem witness_keyImport :
    (running (asks base 0x1A 1 0x2000 0 0) && (hostRead (asks base 0x1A 1 0x2000 0 0) 0x2000 1676).isSome) = true ∧
    (∀ k b, (∃ key, unwrapKey k b = some key) ∨ unwrapKey k b = none) := by
  refine ⟨by decide +kernel, fun k b => ?_⟩
  cases h : unwrapKey k b
  · exact .inr rfl
  · exact .inl ⟨_, rfl⟩

/-- What `HostFormsComplete` asks beyond the records above: a vector's register, and a device with an identity to sign
with. -/
theorem witness_hostForms :
    (goes (.registerWrite ⟨0, 4096 + 8 * 3, 7⟩) base (fun u => (tabGet {} 3 u.hub.vecs).thresh == 7) &&
      goes (.sqTailWrite 1 5) base (fun u => (queueAt u 1).tail == 5) && base.hub.pkg.ready &&
      decide (pkg.lifecycle ≠ .retired) &&
      (hostRead (asks base 0x1B 1 0x3000 0x2000 0) 0x2000 32).isSome && running (asks base 0x1B 1 0x3000 0x2000 0) &&
      (inLife .deployed { base with hub := { base.hub with pkg := { pkg with identity := some 5 } } }).hub.pkg.identity.isSome)
      = true := by decide +kernel

theorem witness_lifecycle :
    (goes (.getNonce ⟨true, true⟩) (asks base 0x1C 0 0x2000 0 0) (fun u => u.hub.pkg.nonce.isSome) &&
      goes .nonceExpiry base (fun u => u.hub.pkg.nonce.isNone) &&
      told .lifecycle (asks base 0x1D 0 2 0 0) 4 0 &&
      goes (.lifecycle ⟨true, true⟩) (asks (inLife .manufacture base) 0x1D 0 1 0 0)
        (fun u => u.hub.pkg.lifecycle == .provisioned && !u.hub.pkg.ready) &&
      goes (.lifecycle ⟨true, true⟩) (asks base 0x1D 0 4 0 0) (fun u => u.hub.pkg.lifecycle == .retired &&
        u.hub.pkg.identity.isNone) &&
      told .lifecycle (asks base 0x1D 0 3 0 0) 5 0 &&
      told .attest (asks (inLife .retired base) 0x1B 1 0 0 1) 4 0) = true := by decide +kernel

/-! ### Events: the package -/

theorem witness_resets :
    ([Instr.powerOn, .perstAssert, .pcieHotReset, .functionLevelResetF0,
      .supervisorReset].all (fun i => goes i base (fun u => u.hub.pkg.resetHeld && u.tasks.isEmpty)) &&
      (let held := { State.reset with hub := { pkg := { resetHeld := true } } }
       let b : BringUp := ⟨[3], [], [], false, true, true, false, [], []⟩
       goes .resetRelease held (fun u => !u.hub.pkg.resetHeld) &&
         goes .wipeComplete State.reset (fun u => !u.hub.pkg.wiping) &&
        goes .wipeComplete held (fun u => u.hub.pkg.wiping) &&
          goes (.bringupComplete b) State.reset (fun u => !u.hub.pkg.ready) &&
        goes (.bringupComplete b) { State.reset with hub := { pkg := { wiping := false } } }
          (fun u => u.hub.pkg.ready && u.hub.pkg.replReq && u.hub.pkg.quarCores == [3]))) = true := by
  decide +kernel

theorem witness_limits :
    (goes (.flitCrcError 2) base (fun u => tabGet 0 2 u.hub.pkg.retransmits == 1) &&
      goes (.linkRetrainFail 3) base (fun u => !u.hub.pkg.fatal) &&
      goes (.linkRetrainFail 4) base (fun u => u.hub.pkg.fatal) &&
        goes (.powerLimitStep ⟨2801, 0⟩) base (fun u => u.hub.pkg.powerSteps == 1) &&
      goes (.powerLimitStep ⟨2715, 2801⟩) base (fun u => u.hub.pkg.powerSteps == 0) &&
        goes (.powerLimitStep ⟨2716, 1199⟩) base (fun u => u.hub.pkg.powerSteps == 0) &&
      goes (.powerLimitStep ⟨2800, 2800⟩) base (fun u => u.hub.pkg.powerSteps == 0) &&
        goes (.powerLimitStep ⟨1201, 1200⟩) base (fun u => u.hub.pkg.powerSteps == 1 && u.hub.pkg.powerLimit == 1200) &&
        goes (.thermalLimitStep 100) base (fun u => u.hub.pkg.thermSteps == 1) &&
      goes (.thermalLimitStep 94) base (fun u => u.hub.pkg.thermSteps == 0) &&
        goes (.thermalLimitStep 95) base (fun u => u.hub.pkg.thermSteps == 0) &&
      goes (.thermalTrip 110) base (fun u => u.hub.pkg.tripped) &&
        goes (.thermalTrip 109) base (fun u => !u.hub.pkg.tripped) &&
      goes (.unitQuarantine ⟨.core, 0, []⟩) base (fun u => (me u).preempt == 0x22 && (me u).st == .preempting) &&
      goes (.unitQuarantine ⟨.core, 0, [0]⟩) base (fun u => (me u).st == .ended && (me u).faulted) &&
      goes (.unitQuarantine ⟨.cluster, 0, []⟩) (jobbed job0) (fun u => (jobAt u 0 5).any (fun j => j.code == 10)) &&
      goes (.unitQuarantine ⟨.slice, 5, []⟩) { base with cores := { base.cores with l2 := [(5, [{ line := 7 }])] } }
        (fun u => u.hub.pkg.replReq && (tabGet [] 5 u.cores.l2).isEmpty) &&
      goes (.unitQuarantine ⟨.hbmGranule, 7, []⟩) base
        (fun u => tabGet false 7 u.mem.poison)) = true := by decide +kernel

/-! ### Events: the debug function -/

def sess : Session := { keyHash := 0, authority := false }
def cmd (addr arg len : Word) : DebugCmd :=
  { session := 2, asid := 1, gtid := 0, addr := addr, arg := arg, len := len, buf := 0x4000, byte1 := 0, bytes4 := 0, bytes48 := 0 }
/-- The same, naming no host buffer. -/
def cmd0 (addr arg len : Word) : DebugCmd := { cmd addr arg len with buf := 0 }
/-- A session with domain 1 in it. -/
def watched (s : State) : State := { s with hub := { s.hub with sessions := [(2, sess)] } }
/-- The command's STATUS. -/
def tells (i : Instr) (s : State) (st : Nat) : Bool := goes i s
  (fun u => (sessionAt u 2).any (fun x => x.status == st && x.busy.isNone))
def resting : State := watched (bare (fun d => { d with logStopped := true }))
/-- The domain in a replay. -/
def replayed : State :=
  let s := watched (bare
    (fun d => { d with logStopped := true, replay := some { gtid := 7, count := 5, force := false, session := 2 } }))
  withMem s [(0xA000018, 0x1A0200)]

theorem witness_debugSession :
    (goes (.debugSessionOpen ⟨2, 0, false⟩) base (fun u => (sessionAt u 2).isSome) &&
      goes (.debugSessionOpen ⟨2, 1, false⟩) base (fun u => (sessionAt u 2).isNone) &&
      reaches pkg sess dom && !reaches pkg { sess with keyHash := 1 } dom &&
      tells (.halt (cmd 0 0 0))
        (watched { base with hub := { base.hub with doms := [(1, { dom with flags := 0 })] } }) 8 &&
      tells (.rewind (cmd 0 0 0))
        (watched { base with hub := { base.hub with doms := [(1, { dom with flags := 0 })] } }) 8 &&
      goes (.slog (cmd 0 0 0)) { base with hub := { base.hub with sessions := [(2, { sess with busy := some (.replaying 1) })] } } (fun u => (sessionAt u 2).any (·.busy.isSome)) &&
      tells (.rewind { cmd 0 0 0 with byte1 := 1 }) resting 9 && tells (.rewind { cmd 0 0 0 with bytes48 := 1 }) resting 9 &&
      tells (.halt { cmd 0 1 0 with gtid := 9 }) (watched base) 9 &&
        tells (.debugResume { cmd 0 1 0 with gtid := 9 }) (watched base) 9 &&
      goes (.halt (cmd 0 0 0)) (watched base) (fun u => (me u).preempt == 0x23 && (domOf u 1).any (·.halted)) &&
      tells (.debugResume { cmd 0 1 0 with gtid := 8 }) (watched
        (withSaved base { sleeper with withheld := true })) 0 &&
      tells (.debugResume (cmd 0 0 0)) (watched base) 0) = true := by decide +kernel

theorem witness_debugReads :
    (tells (.readMem (cmd 0x40000 0 16)) (watched base) 0 &&
      tells (.readMem (cmd 0x4000000000 0 16)) (watched base) 4 &&
      tells (.readTask { cmd 0 0 0 with gtid := 8 }) (watched
        (withSaved base { sleeper with withheld := true, area := 2 })) 8 &&
      tells (.readTask { cmd 0 0 0 with gtid := 8 }) (watched (withSaved base sleeper)) 10 &&
        tells (.writeMem (cmd 0x50000 0 16)) replayed 1 &&
      tells (.writeMem (cmd 0x4000000000 0 16)) (watched base) 4 &&
        tells (.writeMem (cmd 0x50000 0 16)) (watched base) 0 &&
      (readLog base 1).policy == 0 && tells (.setBp (cmd 0x40000 0x507 0)) (watched base) 0 &&
        tells (.setBp (cmd 0x40000 7 0)) (watched base) 0 &&
      tells (.setWp (cmd 8 0x703 (2 ^ 21))) (watched base) 0 &&
        tells (.setWp (cmd 8 0x703 (2 ^ 21 + 8))) (watched base) 9 &&
      tells (.setWp (cmd 4 0x703 8)) (watched base) 9 &&
        tells (.setWp (cmd 8 3 8)) (watched base) 0) = true := by decide +kernel

theorem witness_tailAndAccounting :
    (tells (.tail (cmd 0 0 0)) (watched base) 0 && tells (.tail (cmd 0x4000000000 1 0)) (watched base) 4 &&
      tells (.tail (cmd 0x90000 1 0)) (watched (withMem base [(0x90000, 7)])) 9 &&
      tells (.tail (cmd 0x90000 1 0)) (watched (withMem base [(0x90000, 8)])) 0 &&
        tells (.tail (cmd 0x90000 1 0)) (watched (withMem base [(0x90000, 24)])) 0 &&
      tells (.tail (cmd 0x90000 1 0)) (watched (withMem base [(0x90000, 25)])) 9 &&
        tells (.acct (cmd 0 1 32)) (watched base) 0 && tells (.acct (cmd 0 1 34)) (watched base) 9 &&
      tells (.acct (cmd 0 1 31)) (watched base) 9 && tells (.acct (cmd 0 0 0)) (watched base) 0 &&
        tells (.slog (cmd 0 1 0)) (watched base) 9 &&
      tells (.slog (cmd 0 (BitVec.ofNat 64 (2 ^ 63 + 2 ^ 43)) 0)) (watched base) 0 &&
        tells (.slog (cmd 0 (BitVec.ofNat 64 (2 ^ 63)) 0)) (watched base) 8) = true := by decide +kernel

theorem witness_lostPacket :
    (let s := { bare id with cores := { base.cores with tailLost := [(1, 4)] } }
     let on := { s with hub := { s.hub with doms := [(1, { dom with tail := some { ring := 0x90000, session := 2 } })] } }
     goes (.tailLostPacket 0) s (fun u => u.cores.tailLost.isEmpty) &&
       goes (.tailLostPacket 0) (withMem on [(0x90000, 8)]) (fun u => u.cores.tailLost.isEmpty) &&
      goes (.tailLostPacket 0) (withMem on [(0x90000, 8), (0x90008, 2 ^ 8)])
        (fun u => u == withMem on [(0x90000, 8), (0x90008, 2 ^ 8)])) = true := by decide +kernel

/-- Bench 0 alone in the log, its entry at 0xA001000; and an IRREVOCABLE entry after it. -/
def benched (s : State) (n : Nat) : State :=
  let m := (withMem s [(0xA000000, n), (0xA000018, 0x1A0000)]).mem
  let b := leBytes 8 (4 * 2 ^ 57) ++ leBytes 8 0 ++ leBytes 48 0 ++ leBytes 8 (7 * 2 ^ 57) ++ leBytes 8
    (2 ^ 30) ++ leBytes 48 0
  { s with mem := physWrite m 0xA001000 b false }

theorem witness_rewind :
    (domainQuiet resting 1 && !domainQuiet (watched base) 1 && tells (.rewind (cmd 1 0 0)) resting 9 &&
      tells (.rewind (cmd 0 0 2)) resting 9 &&
      tells (.release (cmd0 0 0 1)) resting 9 && tells (.release (cmd 0 0 0)) resting 9 && tells (.release (cmd0 0 0 0)) resting 2 &&
        tells (.rewind (cmd 0 0 0)) (watched base) 1 &&
      tells (.rewind (cmd 0 1 0)) resting 2 && tells (.rewind (cmd 0 0 0)) (benched resting 2) 3 &&
        tells (.rewind (cmd 0 0 0)) (benched resting 1) 0 &&
      tells (.rewind (cmd 0 0 1)) (benched resting 2) 0 &&
      (listPinned resting 1 0).isNone && (match stopList (benched resting 1) 1 with | .done _ _ => true | _ => false) &&
      (let deep := { resting with tasks := [(0, { task0 with depth := 1, asid := 2 })] }
       tells (.rewind (cmd 0 0 0)) deep 7)) = true := by decide +kernel

theorem witness_replay :
    (tells (.replay (cmd0 1 0 0)) resting 9 && tells (.replay (cmd 0 0 0)) resting 9 &&
      tells (.stepback (cmd 0 0 0)) resting 9 && tells (.replay (cmd0 0 0 0)) (watched base) 1 &&
      tells (.replay (cmd0 0 0 0)) resting 2 &&
      goes (.replay { cmd0 0 5 0 with gtid := 7 }) replayed (fun u => (sessionAt u 2).any (·.busy.isSome)) &&
      tells (.replay { cmd0 0 5 0 with gtid := 7 }) { replayed with tasks := [(0, { task0 with icount := 6 })] } 5 &&
        tells (.stepback (cmd0 1 0 0)) resting 9 &&
      tells (.stepback (cmd0 0 0 0)) (watched base) 1 && tells (.stepback (cmd0 0 0 0)) resting 9 &&
      tells (.stepback { cmd0 0 1 0 with gtid := 7 }) { resting with tasks := [(0, task0)] } 2 &&
      goes (.stepback { cmd0 0 1 0 with gtid := 7 }) { benched resting 1 with tasks := [(0, { task0 with icount := 6 })] } (fun u => (domOf u 1).any (·.replay.isSome)) &&
      goes (.replayStop 1) base (fun u => u == base) && nothingRuns replayed 1 &&
        tells (.replayStop 1) replayed 5) = true := by decide +kernel

/-! ### Events: writes from outside -/

theorem witness_outsideWrites :
    (goes (.hostWrite ⟨0x2000000000000, [1], false, none, none, false, 0⟩) base (fun u => u == base) &&
      unbacked 0x2000000000000 &&
      goes (.hostWrite ⟨0x50000, [1, 2], false, none, none, true, 0⟩) base (fun u => physNat u.mem 0x50000 2 == 0x201 &&
        tabGet false 0x5000 u.mem.poison) &&
      (let r := fun (k : UaKind) (pa : Nat) => Instr.ualinkCompleterRequest ⟨k, pa, 8, 5, 0x4001, [9], false, false, 0⟩
       goes (r .read hbmEnd) base (fun u => u.hub.linkOut.length == 1) &&
         goes (r .read 0x40000) base (fun u => u.hub.linkOut.length == 1) &&
        goes (r .coherence 0x40000) base (fun u => u.mem == base.mem) &&
          goes (r .write 0x40000) base (fun u => physNat u.mem 0x40000 1 == 9) &&
        goes (r .fetchAdd 0x40000) base (fun u => physNat u.mem 0x40000 8 == 0x4006) &&
          goes (r .swap 0x40000) base (fun u => physNat u.mem 0x40000 8 == 5) &&
        goes (r .cas 0x40000) base (fun u => physNat u.mem 0x40000 8 == 5))) = true := by decide +kernel

/-! ### The machine -/

theorem witness_roundTrip : (Instr.jwait ⟨20, 0, 0, false, false, 0, 0, false, 0⟩).isIsa = true ∧
  (Instr.jwait ⟨20, 0, 0, false, false, 0, 0, false, 0⟩).wf = true := by
  decide

theorem witness_memoryCanonical : base.mem.wf = true ∧ goesOn base = true := by constructor <;> decide +kernel

/-- The task, its fetch buffer holding slots of the line at 0x40000 with these PT bits. -/
def coded (slots : List Instr) (pt : Nat) : State :=
  withTask base (fun t => { t with fbuf := some (0x40000, makeLine (slots.map encode) 1 pt), nextIssue := 0 })
/-- The slot that issues next does so with these instructions. -/
def issues (s : State) (is : List Instr) : Bool :=
  match nextSlot s, taskAt s 0 with
  | some 0, some t =>
    match fetchLine s 0 t with
    | .line u l =>
      decide (u = s) && wantsIssue s t && pcForm t.pc && (bpMatch s t [t.pc]).isNone &&
        canIssue s 0 t (completing s 0) (is.map encode) is && t.pairSrc.isNone && !replayCuts s t && (match is with
          | [i, j] =>
            match exec i (atSlot s 0 true false (encode i)), exec j (atSlot s 0 true true (encode j)) with
            | .next u1, .next u2 => !secondWaits s u1 u2 0 t (encode j)
            | _, _ => false
          | _ => true) && is.zipIdx.all (fun e => lineSlot l (pcSlot t.pc + e.2) == encode e.1)
    | _ => false
  | _, _ => false

/-- A step goes on, and the state after it is as asked. -/
def steps (s : State) (p : State → Bool) : Bool := match step s with | .next u => p u | _ => false

theorem witness_step :
    (running base && issues (coded [.add (fS 0), .nop, .nop, .nop, .nop] 0) [.add (fS 0)] &&
      issues (coded [.add (fS 0), .vmov (fV1 0 .i64), .nop, .nop, .nop] 1) [.add (fS 0), .vmov (fV1 0 .i64)] &&
        !groupIllegal (encode (.add (fS 0))) (encode (.vmov (fV1 0 .i64))) &&
      steps (coded [.add (fS 0), .nop, .nop, .nop, .nop] 0) (fun u => (me u).icount == 1 && (me u).pc == 0x40001) &&
      (let s := { base with agenda := [.nonceExpiry] }
       acts s .nonceExpiry && steps s (fun u => u.agenda.isEmpty))) = true := by decide +kernel

/-- A placed instruction is what the next step executes: `mov` of 5 to s4, first thing after reset. -/
theorem test_placed : steps (State.reset.withFetchWord 96 0x140100000800000000000005)
  (fun u => getS (me u).regs 4 == 5) = true := by
  decide +kernel

/-! ### Words, bit by bit from the encoding tables (R230, R233) -/

/-- A slot from its fields, most significant first: each a value and its width. -/
def fields (l : List (Nat × Nat)) : Slot96 := BitVec.ofNat 96 (l.foldl (fun a e => a * 2 ^ e.2 + e.1) 0)

/-- Format S (op, mq, d, a, b, fn, bi, w, sx, reserved, imm): `sub` s5 = s6 - s7, 32 bits wide, sign extended. -/
theorem test_word_sub :
    decodeSlot (fields [(3, 8), (0, 4), (5, 6), (6, 6), (7, 6), (2, 6), (0, 1), (1, 2), (1, 1), (0, 24), (0,
      32)]) = .ok (.sub ⟨5, 6, 7, 2, false, 1, true, 0⟩) := by
  decide +kernel

/-- Format B (op, mq, a, cc, mk, reserved, slot, loff): `loop` on s9, to slot 2 of the line before. -/
theorem test_word_loop :
    decodeSlot (fields [(0x25, 8), (0, 4), (9, 6), (0, 3), (0, 3), (0, 24), (2, 3), (2 ^ 45 - 1,
      45)]) = .ok (.loop ⟨9, 0, 0, 2, 2 ^ 45 - 1⟩) := by
  decide +kernel

/-- Format V (op, mq, d, a, b, c, fn, ty, rm, sat, bs, bi, neg, reserved, imm): `vadd` of F32, rounding up, saturated, the
scalar s3 broadcast and negated, under the negated m2. -/
theorem test_word_vadd :
    decodeSlot (fields [(0x40, 8), (10, 4), (4, 6), (1, 6), (3, 6), (0, 6), (0, 5), (0, 4), (3, 3), (1, 1), (1, 1),
      (0, 1), (2, 3), (0, 10), (0, 32)]) =
      .ok (.vadd ⟨10, 4, 1, 3, 0, 0, .f32, 3, true, true, false, 2, 0⟩) := by
  decide +kernel

/-- Format V, the mask group: `mlen` m3 of I8 from an immediate. -/
theorem test_word_mlen :
    decodeSlot (fields [(0x78, 8), (0, 4), (3, 6), (0, 6), (0, 6), (0, 6), (0, 5), (10, 4), (0, 3), (0, 1), (0, 1),
      (1, 1), (0, 3), (0, 10), (100, 32)]) =
      .ok (.mlen ⟨0, 3, 0, 0, 0, 0, .i8, 0, false, false, true, 0, 100⟩) := by
  decide +kernel

/-- Format M (op, mq, d, a, x, sz, ord, sc, sp, fe, ch, pc, reserved, off): `vsts` v5 at s6, stride s7, 4-byte elements, under
m1, 16 bytes back. -/
theorem test_word_vsts :
    decodeSlot (fields [(0x85, 8), (1, 4), (5, 6), (6, 6), (7, 6), (2, 3), (0, 3), (0, 3), (0, 2), (0, 2), (0, 3),
      (0, 11), (0, 7), (2 ^ 32 - 16, 32)]) =
      .ok (.vsts ⟨1, 5, 6, 7, 2, 0, 0, .global, 0, 0, 0, 2 ^ 32 - 16⟩) := by
  decide +kernel

/-- Format M: `acas` of 8 bytes at a core's scratchpad, sequentially consistent (ord 4) in device scope. -/
theorem test_word_acas :
    decodeSlot (fields [(0xA7, 8), (0, 4), (5, 6), (6, 6), (7, 6), (3, 3), (4, 3), (4, 3), (3, 2), (0, 2), (0, 3),
      (1279, 11), (0, 7), (8, 32)]) =
      .ok (.acas ⟨0, 5, 6, 7, 3, 4, 4, .anycore, 0, 0, 1279, 8⟩) := by
  decide +kernel

/-- Format M: `acq` pr (ch 2) of the object at s6, into s5, acquire (ord 1) in core scope. -/
theorem test_word_acq :
    decodeSlot (fields [(0xB0, 8), (0, 4), (5, 6), (6, 6), (0, 6), (0, 3), (1, 3), (1, 3), (0, 2), (0, 2), (2, 3),
      (0, 11), (0, 7), (0, 32)]) =
      .ok (.acq ⟨0, 5, 6, 0, 0, 1, 1, .global, 0, 2, 0, 0⟩) := by
  decide +kernel

/-- Format J (op, mq, d, f, fn, aq, rl, aqs, rls, st, reserved, imm): `cpj` of a frame at s16, acquiring sh at its SYNC. -/
theorem test_word_cpj :
    decodeSlot (fields [(0xBD, 8), (0, 4), (20, 6), (16, 6), (1, 4), (1, 1), (1, 1), (4, 3), (3, 3), (1, 1), (0, 27),
      (0, 32)]) =
      .ok (.cpj ⟨20, 16, 1, true, true, 4, 3, true, 0⟩) := by
  decide +kernel

/-- Format G (op, mq, h, vw, vn, sw, sn, mw, st, reserved, imm): `dinfo` of the handle in s8. -/
theorem test_word_dinfo :
    decodeSlot (fields [(0xD3, 8), (0, 4), (8, 6), (0, 6), (0, 5), (0, 6), (0, 4), (63, 6), (5, 6), (0, 13), (5,
      32)]) = .ok (.dinfo ⟨8, 0, 0, 0, 0, 63, 5, 5⟩) := by
  decide +kernel

/-- Format Y (op, mq, d, a, sr, fn, reserved, imm): `wsys` of s3 to FS, and `rfail` of the entry at s4. -/
theorem test_word_wsys :
    decodeSlot (fields [(0x31, 8), (0, 4), (0, 6), (3, 6), (0x20, 12), (0, 6), (0, 22), (0,
      32)]) = .ok (.wsys ⟨0, 3, 0x20, 0, 0⟩) ∧
    decodeSlot (fields [(0xDA, 8), (0, 4), (3, 6), (4, 6), (0, 12), (0, 6), (0, 22), (0,
      32)]) = .ok (.rfail ⟨3, 4, 0, 0, 0⟩) := by
  decide +kernel

/-! ### Terms that are not well formed -/

/-- One for each check: a reserved fn, an operand beside an immediate, an unused field, a register pair that is odd, a mask
that may not be written, scopes and orders that do not go together, a frame off its multiple of 8, windows too large,
  codes
too long, and events that name no unit. -/
theorem test_ill_formed :
    ([Instr.add (fS 3), .add { fS 0 with bi := true }, .add { fS 0 with imm := 1 }, .abs { fS1 0 with b := 1 },
      .bext { fS 0 with w := 1 },
      .bext { fS 0 with b := 0, bi := true, imm := 0x2000 }, .mov { fS 0 with a := 1 }, .lih (fS 0), .div (fS 2),
      .vadd (fV 0 .i32), .vadd { fV 0 .f32 with mq := 8 }, .vadd { fV 0 .f32 with fn := 1 },
        .vadd { fV 0 .f32 with c := 1 },
      .vadd { fV 0 .f32 with rm := 7 }, .vadd { fV 0 .f32 with neg := 4 },
        .vadd { fV 0 .f32 with bs := true, bi := true, b := 0 },
      .vadd { fV 0 .f16 with bi := true, b := 0, imm := 0x10000 }, .vrcp (fV1 0 .f64),
        .vmin { fV 0 .f32 with rm := 1 }, .viadd (fV 0 .f32),
      .vfcmp { fV 0 .f32 with d := 0 }, .vfcmp { fV 0 .f32 with d := 8 }, .vcvt { fV1 1 .f32 with imm := 2 },
        .vperm (fV3 1 .i8),
      .vrot (fV 0 .i32), .vred (fV1 3 .f32), .vscan (fV1 3 .f32), .vbcast { fV1 1 .f64 with imm := 64 },
        .vpack (fV 0 .i32),
      .vunpack { fV1 0 .i8 with imm := 2 }, .vdot4 (fV3 0 .i8), .vquant (fV 3 .f32),
        .mfroms { fV1 0 .i8 with imm := 8 },
      .mand { fV 0 .i8 with a := 8 }, .mlen { fV1 0 .i8 with bi := true, imm := 1 },
        .vext { fV1 0 .i8 with mq := 1 }].all (fun i => !i.wf) &&
      [Instr.br (brTo 7 0 0), .br (brTo 0 1 0), .br ⟨1, 1, 1, 0, 0⟩, .jmp (brTo 0 1 0), .calli (brTo 0 1 1),
        .loop (brTo 0 0 0),
        .endTask (brTo 0 1 0), .trap (brTo 0 0 0x10000), .rsys (fY 1 1 0 0), .wsys (fY 1 1 0x20 0),
          .xsys (fY 1 1 0x20 3),
        .ld (fM0 3 0 4), .ld (fM0 0 0 4), .ld (fM0 3 1 3), .ld (fM 3 0 3 2 0 0 1 .global 0),
          .ld (fM 3 0 3 0 1 0 1 .global 0),
        .ld (fM 3 0 3 1 6 0 1 .global 0), .ld (fM0 3 0 5), .ld { fM0 3 0 3 with mq := 1 },
          .ld { fM0 3 0 3 with pc := 1 },
        .ld { fM0 3 0 3 with fe := 1 }, .ld { fOwn 3 3 3 with fe := 3 }, .ld { fM0 3 0 3 with sp := .peer, pc := 8 },
          .vld { fM0 3 0 3 with ch := 4 },
        .mst { fM0 8 0 0 with d := 8 }, .feclr (fM0 0 0 4), .aadd (fM0 3 1 1), .amin (fM 3 1 3 0 0 2 1 .global 0),
          .acas2 (fM0 3 2 0),
        .fence (fM 0 0 0 0 0 0 0 .global 0), .acq (fM 4 1 0 1 0 0 1 .global 0), .rel (fM 1 0 0 2 0 0 1 .global 0),
          .sini (fM 4 0 0 0 0 0 1 .global 0),
        .mxj (fJ 1 1 0 0), .mxj (fJ 1 8 1 0), .cpj (fJ 1 8 4 0), .jpoll (fJ 1 8 0 0), .send (fJ 1 8 0 49),
          .recv (fJ 9 8 0 0), .hnote (fJ 0 0 0 256),
        .gcall (fG 8 17 0 63), .gcall (fG 8 0 9 63), .gcall (fG 8 0 0 62), .gret (fG0 1 0 0), .dinfo (fG0 0 1 10),
          .dinfo (fG0 1 1 4),
        .rtake (fYs 1 1 0), .rcmpl (fYs 1 1 2), .tret (fYs 1 0 0), .sqNopRecord ⟨1024, true⟩, .sqStoppedClear 1025,
          .msixUnmask 257 true,
        .taskAdmit 1280, .taskFinish 20480, .jobAccept 160, .engineJobStart 0 2, .dispatchResume ⟨4, true⟩,
          .linkRetrainFail 8].all (fun i => !i.wf)) = true := by
  decide +kernel

end Sys2Proof.Tests
end

section
/-!
O1, PKG_STATUS (R17). The register is a sum of weighted fields; each field fits its width, so that each reads back by itself.
-/

namespace Sys2Proof.Machine

/-! ### Each field fits its width -/

theorem boolNat_lt_two (b : Bool) : boolNat b < 2 := by cases b <;> decide

theorem therm_lt_four (p : Package) : therm p < 4 := by
  unfold therm
  split
  · decide
  · split <;> decide

theorem liveOf_le (quar : List Nat) : liveOf quar ≤ 160 :=
  (List.length_filter_le _ _).trans_eq List.length_range

theorem liveCores_le (p : Package) : liveCores p ≤ 1280 :=
  (List.length_filter_le _ _).trans_eq List.length_range

/-- A count that reads zero while READY is 0 fits where the count does. -/
theorem countWhen_lt (ready : Bool) {n m k : Nat} (hn : n ≤ m) (hm : m < k) : (if ready then n else 0) < k := by
  split
  · exact hn.trans_lt hm
  · exact m.zero_le.trans_lt hm

/-! ### The counts of live units -/

theorem liveOf_eq (quar : List Nat) :
    liveOf quar = ((List.range 160).filter (fun c => decide (c ∉ quar))).length := by
  simp [liveOf, upTo]

theorem liveCores_eq (p : Package) : liveCores p =
    ((List.range 1280).filter (fun c => decide (c ∉ p.quarCores ∧ c / 8 ∉ p.quarClusters))).length := by
  simp [liveCores, upTo, coreCluster]

/-! ### The fields of the register -/

/-- Ten fields of 1, 1, 1, 1, 1, 1, 2, 8, 8 and 16 bits at R17's places, each within its width: every one of them reads
back from their sum, and what lies between and above them reads zero. -/
theorem packed_fields {v : Word} {a b c d e g h i j k : Nat}
    (hv : v = BitVec.ofNat 64
      (a + 2 * b + 4 * c + 8 * d + 16 * e + 32 * g + 64 * h + 2 ^ 16 * i + 2 ^ 24 * j + 2 ^ 32 * k))
    (ha : a < 2) (hb : b < 2) (hc : c < 2) (hd : d < 2) (he : e < 2) (hg : g < 2) (hh : h < 4) (hi : i < 2 ^ 8)
    (hj : j < 2 ^ 8) (hk : k < 2 ^ 16) :
    let f := fun (lo n : Nat) => v.toNat / 2 ^ lo % 2 ^ n
    f 0 1 = a ∧ f 1 1 = b ∧ f 2 1 = c ∧ f 3 1 = d ∧ f 4 1 = e ∧ f 5 1 = g ∧ f 6 2 = h ∧ f 8 8 = 0 ∧ f 48 16 = 0 ∧
      f 16 8 = i ∧ f 24 8 = j ∧ f 32 16 = k := by
  have hsum : v.toNat = a + 2 * b + 4 * c + 8 * d + 16 * e + 32 * g + 64 * h + 2 ^ 16 * i + 2 ^ 24 * j + 2 ^ 32 * k := by
    rw [hv, BitVec.toNat_ofNat, Nat.mod_eq_of_lt (by omega)]
  dsimp only
  rw [hsum]
  refine ⟨?_, ?_, ?_, ?_, ?_, ?_, ?_, ?_, ?_, ?_, ?_, ?_⟩ <;> omega

/-- Every field of PKG_STATUS, by its place (R17). -/
theorem pkgStatus_fields (p : Package) :
    let f := fun (lo n : Nat) => (pkgStatus p).toNat / 2 ^ lo % 2 ^ n
    f 0 1 = boolNat p.fatal ∧ f 1 1 = boolNat p.ready ∧ f 2 1 = boolNat p.wiping ∧ f 3 1 = boolNat p.replReq ∧
    f 4 1 = boolNat (!p.linksDown.isEmpty) ∧ f 5 1 = boolNat (decide (0 < p.powerSteps)) ∧ f 6 2 = therm p ∧
    f 8 8 = 0 ∧ f 48 16 = 0 ∧ f 16 8 = (if p.ready then liveOf p.quarSlices else 0) ∧
    f 24 8 = (if p.ready then liveOf p.quarClusters else 0) ∧ f 32 16 = (if p.ready then liveCores p else 0) :=
  packed_fields rfl (boolNat_lt_two _) (boolNat_lt_two _) (boolNat_lt_two _) (boolNat_lt_two _) (boolNat_lt_two _)
    (boolNat_lt_two _) (therm_lt_four p) (countWhen_lt _ (liveOf_le _) (by decide))
    (countWhen_lt _ (liveOf_le _) (by decide)) (countWhen_lt _ (liveCores_le p) (by decide))

/-! ### Resets and writes -/

/-- What a reset keeps of the package shows in no field of PKG_STATUS: WIPING alone is set. -/
theorem pkgStatus_keptPackage (p : Package) : pkgStatus (keptPackage p) = 4 := rfl

theorem exec_deviceReset (s : State) {i : Instr}
    (hi : i ∈ [Instr.powerOn, .perstAssert, .pcieHotReset, .functionLevelResetF0, .supervisorReset]) :
    exec i s = .next (deviceReset s) := by
  simp only [List.mem_cons, List.not_mem_nil, or_false] at hi
  rcases hi with rfl | rfl | rfl | rfl | rfl <;> rfl

/-- No register of function 0's BAR below MSIX_COAL takes a write (R21). -/
theorem writeReg_eq_self_of_lt (s : State) {off : Nat} (hoff : off < 0x1000) (v : Word) :
    writeReg s ⟨0, off, v⟩ = s := by
  have hcoal : ¬ 0x1000 ≤ off := by omega
  unfold writeReg
  split
  · rfl
  · simp [hcoal]

theorem exec_registerWrite (w : BarWrite) (s : State) : exec (.registerWrite w) s = .next (writeReg s w) := rfl

end Sys2Proof.Machine

open Sys2Proof Sys2Proof.Machine

/-- Settles O1 (R17): the fields by `pkgStatus_fields`, the reset value since a reset keeps no field but WIPING, the write
since PKG_STATUS lies below the registers that take one. -/
theorem pkgStatusReads : Obligations.PkgStatusReads := by
  unfold Obligations.PkgStatusReads
  refine ⟨fun p => ?_, fun s => ⟨fun i hi => ?_, fun v => ?_⟩⟩
  · obtain ⟨hfatal, hready, hwiping, hrepl, hlinks, hpower, htherm, hlow, hhigh, hslices, hclusters, hcores⟩ :=
      pkgStatus_fields p
    refine ⟨hfatal, hready, hwiping, hrepl, ?_, ?_, htherm, hlow, hhigh, fun h => ⟨?_, ?_, ?_⟩⟩
    · simpa [boolNat] using hlinks
    · simpa [boolNat, Nat.pos_iff_ne_zero] using hpower
    · rw [← liveOf_eq, hslices, if_pos h]
    · rw [← liveOf_eq, hclusters, if_pos h]
    · rw [← liveCores_eq, hcores, if_pos h]
  · exact ⟨_, exec_deviceReset s hi, pkgStatus_keptPackage s.hub.pkg⟩
  · exact ⟨_, exec_registerWrite _ s, writeReg_eq_self_of_lt s (by decide) v⟩

end

section
/-!
O10, the branches (R262, R264). A transfer and a fall-through both move the acting task alone (`movesOn`), an outcome bit
touches the tail's buffers and the task's gathered bits alone (`gathersOutcome`); a branch is the one after the other.
-/

namespace Sys2Proof.Machine

/-! ### The condition (R262) -/

/-- Cond, as R262 states it for cc 0 to 6. -/
def branchTest (r : Regs) (f : FmtB) : Prop :=
  let v := getS r f.a.toNat
  f.cc = 0 ∨ (f.cc = 1 ∧ v = 0) ∨ (f.cc = 2 ∧ v ≠ 0) ∨ (f.cc = 3 ∧ v.getLsbD 63 = true) ∨
    (f.cc = 4 ∧ v.getLsbD 63 = false) ∨
    (f.cc = 5 ∧ ∃ i, i < condLanes r f ∧ (getM r f.msk.toNat).getLsbD i = true) ∨
    (f.cc = 6 ∧ ∀ i, i < condLanes r f → (getM r f.msk.toNat).getLsbD i = true)

theorem mask_mod_ne_zero_iff (m : Mask) (n : Nat) :
    m.toNat % 2 ^ n ≠ 0 ↔ ∃ i, i < n ∧ m.getLsbD i = true := by
  constructor
  · intro h
    obtain ⟨i, hi⟩ := Nat.exists_testBit_of_ne_zero h
    rw [Nat.testBit_mod_two_pow, Bool.and_eq_true, decide_eq_true_eq, BitVec.testBit_toNat] at hi
    exact ⟨i, hi⟩
  · rintro ⟨i, hi, hbit⟩ h
    have hmod : (m.toNat % 2 ^ n).testBit i = true := by simp [Nat.testBit_mod_two_pow, BitVec.testBit_toNat, hi, hbit]
    simp [h] at hmod

theorem mask_mod_eq_ones_iff (m : Mask) (n : Nat) :
    m.toNat % 2 ^ n = 2 ^ n - 1 ↔ ∀ i, i < n → m.getLsbD i = true := by
  constructor
  · intro h i hi
    have hbit := congrArg (·.testBit i) h
    simpa [Nat.testBit_mod_two_pow, Nat.testBit_two_pow_sub_one, BitVec.testBit_toNat, hi] using hbit
  · intro h
    refine Nat.eq_of_testBit_eq fun i => ?_
    rw [Nat.testBit_mod_two_pow, Nat.testBit_two_pow_sub_one, BitVec.testBit_toNat]
    by_cases hi : i < n
    · simp [hi, h i hi]
    · simp [hi]

/-- A condition tests nothing or a scalar (cc 0 to 4), or a mask (5 and 6), or is not defined (7). -/
theorem cc_cases (c : BitVec 3) : (c = 0 ∨ c = 1 ∨ c = 2 ∨ c = 3 ∨ c = 4) ∨ c = 5 ∨ c = 6 ∨ c = 7 := by
  revert c; decide

theorem condHolds_iff (r : Regs) {f : FmtB} (hcc : f.cc ≠ 7) : condHolds r f = true ↔ branchTest r f := by
  obtain hscalar | hany | hall | hundefined := cc_cases f.cc
  · rcases hscalar with h | h | h | h | h <;> simp [condHolds, branchTest, h]
  · simpa [condHolds, branchTest, hany] using mask_mod_ne_zero_iff _ _
  · simpa [condHolds, branchTest, hall] using mask_mod_eq_ones_iff _ _
  · exact absurd hundefined hcc

/-- A branch with cc 0 tests nothing. -/
theorem condHolds_of_cc_zero (r : Regs) {f : FmtB} (hcc : f.cc = 0) : condHolds r f = true := by
  simp [condHolds, hcc]

theorem condPoison_of_cc_zero (r : Regs) {f : FmtB} (hcc : f.cc = 0) : condPoison r f = false := by
  simp [condPoison, hcc]

theorem cc_ne_seven_of_wf {f : FmtB} (hw : (Instr.br f).wf = true) : f.cc ≠ 7 := by
  intro h
  simp [Instr.wf, h] at hw

theorem loop_counter_ne_zero_of_wf {f : FmtB} (hw : (Instr.loop f).wf = true) : f.a.toNat ≠ 0 := by
  have ha : f.a ≠ 0 := fun h => by simp [Instr.wf, h] at hw
  exact fun h => ha (BitVec.eq_of_toNat_eq h)

theorem directTarget_eq (s : State) (t : Task) (f : FmtB) : directTarget s t f = targetOf s t f := by
  simp [directTarget, targetOf, pcLine]

/-! ### How the task moves on -/

/-- The instruction is done: the acting task moves on as `move` says, and nothing else changes. -/
def movesOn (s u : State) (move : Task → Task) : Prop :=
  (∃ ts, u = { s with tasks := ts, grp := { s.grp with result := .retired } }) ∧
    curTask u = (curTask s).map move ∧ ∀ k, k ≠ s.cur → taskAt u k = taskAt s k

theorem settle_ok_movesOn (s s' : State) (t : Task) : movesOn s' (settle s t (.ok s'))
    (fun u => { u with pc := if s'.grp.second then u.pc else nextPc s' t, icount := u.icount + 1 }) := by
  rw [settle_ok]
  refine ⟨⟨(counted (fallThrough s' t)).tasks, ?_⟩, ?_, fun k hk => ?_⟩
  · unfold fallThrough; split <;> rfl
  · simp [Option.map_map, Function.comp_def]
  · rw [taskAt_withResult, counted, taskAt_modCur, fallThrough_cur, if_neg hk]
    unfold fallThrough
    split
    · rfl
    · rw [taskAt_modCur, if_neg hk]

theorem settle_goto_movesOn (s s' : State) (t : Task) (pc : Word) : movesOn s' (settle s t (.goto s' pc))
    (fun u => { u with pc := pc, fbuf := none, nextIssue := s'.clock + 3, icount := u.icount + 1 }) := by
  rw [settle_goto]
  refine ⟨⟨_, rfl⟩, ?_, fun k hk => ?_⟩
  · simp [Option.map_map, Function.comp_def]
  · rw [taskAt_withResult, counted, taskAt_modCur, transferTo_cur, if_neg hk, transferTo, taskAt_modCur, if_neg hk]

/-- A transfer that writes nothing (R261). -/
theorem settle_goto_onlyTask {s : State} {t : Task} (pc : Word) (ht : curTask s = some t) :
    onlyTask s (settle s t (.goto s pc)) (wentTo s t pc) := by
  obtain ⟨_, hcur, hothers⟩ := settle_goto_movesOn s s t pc
  exact ⟨rfl, by rw [hcur, ht]; rfl, hothers⟩

/-! ### The outcome bit (R220) -/

/-- The outcome bits gathered after one more branch: 96 of them leave in a packet. -/
def bitsAfter (s : State) (t : Task) (taken : Bool) : List Bool :=
  if tailFollows s t then if t.branchBits.length < 95 then t.branchBits ++ [taken] else [] else t.branchBits

/-- The tail has taken one outcome bit of the acting task `t`, of which the branch has made `t1`: the tail's buffers and
the task alone change, and the buffers only where a packet is due. -/
def gathersOutcome (s u : State) (t t1 : Task) (taken : Bool) : Prop :=
  (∃ ts buf lost last, u = { s with
    tasks := ts, cores := { s.cores with tailBuf := buf, tailLost := lost, tailLast := last } }) ∧
  curTask u = some { t1 with branchBits := bitsAfter s t taken } ∧ (∀ k, k ≠ s.cur → taskAt u k = taskAt s k) ∧
  (tailFollows s t = false ∨ t.branchBits.length < 95 → u.cores = s.cores)

theorem tailPacket_frame (s : State) (asid slot type body : Nat) : ∃ buf lost last,
    tailPacket s asid slot type body =
      { s with cores := { s.cores with tailBuf := buf, tailLost := lost, tailLast := last } } := by
  unfold tailPacket
  dsimp only
  split <;> exact ⟨_, _, _, rfl⟩

/-- Gathered bits that are some leave in a packet (R219). -/
theorem flushBranch_frame (s : State) (k : Nat) {t : Task} (hbits : t.branchBits ≠ []) : ∃ buf lost last,
    flushBranch s k t = modTask
      { s with cores := { s.cores with tailBuf := buf, tailLost := lost, tailLast := last } } k
      (fun t => { t with branchBits := [] }) := by
  unfold flushBranch
  rw [if_neg (by simpa using hbits)]
  obtain ⟨buf, lost, last, hpacket⟩ := tailPacket_frame s t.asid k 3 (t.branchBits.length +
    2 ^ 7 * (t.branchBits.zip (upTo t.branchBits.length)).foldl (fun a b => a + (if b.1 then 2 ^ b.2 else 0)) 0)
  exact ⟨buf, lost, last, by rw [← hpacket]⟩

theorem oneTask_self {s : State} {t : Task} (ht : curTask s = some t) : oneTask s s s.cur t :=
  ⟨rfl, ht, fun _ _ => rfl⟩

theorem oneTask_writeS {s : State} {t : Task} {d : Nat} (v : Word) (p : Bool) (lat : Nat) (ht : curTask s = some t)
    (hd : d ≠ 0) : oneTask s (writeS s d v p lat) s.cur
      { t with regs := putS t.regs d v p, pend := tabPut 0 d (s.clock + lat) t.pend } := by
  refine ⟨rfl, ?_, fun k hk => by rw [writeS, taskAt_modCur, if_neg hk]⟩
  exact (curTask_writeS s d v p lat).trans (by simp [ht, mark, hd])

/-- The outcome bit of a task that the tail follows: it is gathered, and 96 of them leave at once. -/
theorem tailOutcome_eq {s : State} {t : Task} (taken : Bool) (ht : curTask s = some t) : tailOutcome s taken =
    if tailFollows s t then
      if 95 ≤ t.branchBits.length then
        flushBranch (setTask s s.cur { t with branchBits := t.branchBits ++ [taken] }) s.cur
          { t with branchBits := t.branchBits ++ [taken] }
      else setTask s s.cur { t with branchBits := t.branchBits ++ [taken] }
    else s := by
  unfold tailOutcome
  simp [ht]

theorem tailOutcome_gathers {s s1 : State} {t t1 : Task} (taken : Bool) (h1 : oneTask s s1 s.cur t1)
    (ht1 : t1 = { t with regs := t1.regs, pend := t1.pend }) : gathersOutcome s (tailOutcome s1 taken) t t1 taken := by
  obtain ⟨hs1, hc1, ho1⟩ := h1
  have hcur : s1.cur = s.cur := by rw [hs1]
  have hcores : s1.cores = s.cores := by rw [hs1]
  have hfollows : tailFollows s1 t1 = tailFollows s t := by rw [hs1, ht1]; rfl
  have hbits : t1.branchBits = t.branchBits := by rw [ht1]
  have hc1 : curTask s1 = some t1 := by rw [← hc1, ← hcur]; rfl
  have ht1 : { t1 with branchBits := t.branchBits } = t1 := by rw [← hbits]
  rw [tailOutcome_eq taken hc1, hfollows, hbits]
  cases hf : tailFollows s t with
  | false => exact ⟨⟨_, _, _, _, hs1⟩, by simpa [bitsAfter, hf, ht1] using hc1, ho1, fun _ => hcores⟩
  | true =>
    rw [if_pos rfl]
    by_cases hlen : 95 ≤ t.branchBits.length
    · rw [if_pos hlen]
      obtain ⟨buf, lost, last, hflush⟩ := flushBranch_frame
        (setTask s1 s1.cur { t1 with branchBits := t.branchBits ++ [taken] }) s1.cur
        (t := { t1 with branchBits := t.branchBits ++ [taken] }) (by simp)
      rw [hflush]
      refine ⟨⟨_, buf, lost, last, by rw [hs1]; rfl⟩, ?_, fun k hk => ?_, fun h => ?_⟩
      · exact (tabFind_tabMod_self _ _ _).trans (by simp [bitsAfter, hf, hlen])
      · rw [taskAt_modTask, hcur, if_neg hk]
        exact ((tabFind_tabSet _ _ _ _).trans (if_neg hk)).trans (ho1 k hk)
      · exact absurd h (by simp [hf, hlen])
    · rw [if_neg hlen]
      refine ⟨⟨_, _, _, _, by rw [hs1]; rfl⟩, ?_, fun k hk => ?_, fun _ => hcores⟩
      · exact (tabFind_tabSet_self _ _ _).trans (by simp [bitsAfter, hf, hlen])
      · rw [taskAt_setTask, hcur, if_neg hk, ho1 k hk]

/-! ### A branch: its outcome, then its move -/

/-- What a branch leaves in the tail, where the tail follows the task (R220). -/
def addsOutcome (s : State) (t : Task) (u : State) (taken : Bool) : Prop :=
  tailFollows s t = true →
    (curTask u).map (·.branchBits) = some (if t.branchBits.length < 95 then t.branchBits ++ [taken] else []) ∧
      (t.branchBits.length < 95 → u.cores = s.cores)

/-- A branch whose outcome the tail has taken in `s2`, and whose task then moves on. -/
theorem tracedTask_of_movesOn {s s2 u : State} {t t1 t' : Task} {move : Task → Task} {taken : Bool}
    (h2 : gathersOutcome s s2 t t1 taken) (hmoves : movesOn s2 u move)
    (hmove : ∀ b, move { t1 with branchBits := b } = { t' with branchBits := b }) :
    tracedTask s u t t' ∧ addsOutcome s t u taken := by
  obtain ⟨⟨ts2, buf, lost, last, rfl⟩, hc2, ho2, hcores2⟩ := h2
  obtain ⟨⟨ts, rfl⟩, hc, ho⟩ := hmoves
  rw [hc2, Option.map_some, hmove] at hc
  refine ⟨⟨rfl, ⟨_, hc⟩, fun k hk => (ho k hk).trans (ho2 k hk), fun hoff => ?_⟩,
    fun hf => ⟨?_, fun hlen => hcores2 (.inr hlen)⟩⟩
  · have hf : tailFollows s t = false := by simp [tailFollows, hoff]
    exact ⟨hcores2 (.inl hf), by rw [hc]; simp [bitsAfter, hf]⟩
  · rw [hc]; simp [bitsAfter, hf]

/-- A branch that is not taken goes on at NextPC. -/
theorem settle_ok_tailOutcome {s s1 : State} {t : Task} {regs : Regs} {pend : SMap Nat} (taken : Bool)
    (h1 : oneTask s s1 s.cur { t with regs := regs, pend := pend }) :
    tracedTask s (settle s t (.ok (tailOutcome s1 taken))) t { wentBy s t with regs := regs, pend := pend } ∧
      addsOutcome s t (settle s t (.ok (tailOutcome s1 taken))) taken := by
  have h2 := tailOutcome_gathers taken h1 rfl
  refine tracedTask_of_movesOn h2 (settle_ok_movesOn s _ t) fun b => ?_
  obtain ⟨⟨_, _, _, _, hs2⟩, -⟩ := h2
  rw [hs2]; rfl

/-- A branch that is taken transfers to its target. -/
theorem settle_goto_tailOutcome {s s1 : State} {t : Task} {regs : Regs} {pend : SMap Nat} (taken : Bool) (pc : Word)
    (h1 : oneTask s s1 s.cur { t with regs := regs, pend := pend }) :
    tracedTask s (settle s t (.goto (tailOutcome s1 taken) pc)) t { wentTo s t pc with regs := regs, pend := pend } ∧
      addsOutcome s t (settle s t (.goto (tailOutcome s1 taken) pc)) taken := by
  have h2 := tailOutcome_gathers taken h1 rfl
  refine tracedTask_of_movesOn h2 (settle_goto_movesOn s _ t pc) fun b => ?_
  obtain ⟨⟨_, _, _, _, hs2⟩, -⟩ := h2
  rw [hs2]; rfl

/-! ### The effect of `br` and `loop` -/

/-- What a checked branch to `z` comes to that leaves `s1` where it goes on. -/
def branchEff (s s1 : State) (t : Task) (poi taken : Bool) (z : Int) : Eff :=
  checkedBranch s t poi taken z (if taken then jumpTo s s1 t z else .ok s1)

section
variable (s s1 : State) (t : Task) (z : Int)

theorem branchEff_notTaken : branchEff s s1 t false false z = .ok s1 := rfl

theorem branchEff_taken (hz : targetBad s t z = false) :
    branchEff s s1 t false true z = .goto s1 (BitVec.ofNat 64 z.toNat) := by
  simp [branchEff, checkedBranch, jumpTo, hz]

/-- CONTROL of a bad target has the lower rank, whatever the test's poison (R169). -/
theorem branchEff_control (poi : Bool) (hz : targetBad s t z = true) :
    branchEff s s1 t poi true z = trapOf s .control := by
  cases poi <;> simp [branchEff, checkedBranch, jumpTo, hz]

theorem branchEff_poisoned {taken : Bool} (hz : ¬(taken = true ∧ targetBad s t z = true)) :
    branchEff s s1 t true taken z = trapOf s .poisonConsumed := by
  simp [branchEff, checkedBranch, hz]

end

/-- Either way a poisoned test traps (R108, R169). -/
theorem raises_of_poisoned {i : Instr} {s s1 : State} {t : Task} {taken : Bool} {z : Int}
    (hexec : exec i s = .next (settle s t (branchEff s s1 t true taken z))) :
    (taken = true ∧ targetBad s t z = true → raises i s .control) ∧
      (¬(taken = true ∧ targetBad s t z = true) → raises i s .poisonConsumed) := by
  refine ⟨fun ⟨htaken, hz⟩ => ?_, fun h => ?_⟩
  · rw [htaken, branchEff_control s s1 t z true hz] at hexec
    exact hexec
  · rw [branchEff_poisoned s s1 t z h] at hexec
    exact hexec

theorem exec_br {f : FmtB} {s : State} {t : Task} (h : canRun (.br f) s t) :
    exec (.br f) s = .next (settle s t (branchEff s
      (if f.cc = 0 then s else tailOutcome s (condHolds (srcRegs s t) f)) t
      (condPoison (srcRegs s t) f) (condHolds (srcRegs s t) f) (targetOf s t f))) := by
  obtain ⟨ht, hr, hw, hv⟩ := h
  rw [← directTarget_eq]
  exact runIsa_eq _ s t _ ht hr hw hv

theorem exec_jmp {f : FmtB} {s : State} {t : Task} (h : canRun (.jmp f) s t) :
    exec (.jmp f) s = .next (settle s t (branchEff s s t false true (targetOf s t f))) := by
  obtain ⟨ht, hr, hw, hv⟩ := h
  rw [← directTarget_eq]
  exact runIsa_eq _ s t _ ht hr hw hv

/-- A branch without a test is a `jmp`. -/
theorem exec_br_of_cc_zero {f : FmtB} {s : State} {t : Task} (h : canRun (.br f) s t) (hcc : f.cc = 0) :
    exec (.br f) s = .next (settle s t (branchEff s s t false true (targetOf s t f))) := by
  rw [exec_br h, if_pos hcc, condPoison_of_cc_zero _ hcc, condHolds_of_cc_zero _ hcc]

theorem exec_loop {f : FmtB} {s : State} {t : Task} (h : canRun (.loop f) s t) :
    exec (.loop f) s = .next (settle s t (branchEff s
      (tailOutcome (writeS s f.a.toNat (getS (srcRegs s t) f.a.toNat - 1) false latSalu)
        (getS (srcRegs s t) f.a.toNat - 1 != 0)) t
      (poiS (srcRegs s t) f.a.toNat) (getS (srcRegs s t) f.a.toNat - 1 != 0) (targetOf s t f))) := by
  obtain ⟨ht, hr, hw, hv⟩ := h
  rw [← directTarget_eq]
  refine (runIsa_eq _ s t _ ht hr hw hv).trans ?_
  simp [branchEff]

/-- `loop` is taken unless its counter was 1 (R264). -/
theorem loop_taken_iff (v : Word) : (v - 1 != 0) = true ↔ v ≠ 1 :=
  bne_iff_ne.trans (not_congr sub_eq_zero)

/-! ### Branches without and with a test -/

theorem jump_executes {i : Instr} {s : State} {t : Task} {z : Int} (ht : curTask s = some t)
    (hexec : exec i s = .next (settle s t (branchEff s s t false true z))) :
    (targetBad s t z = false → completes i s fun u => onlyTask s u (wentTo s t (BitVec.ofNat 64 z.toNat))) ∧
    (targetBad s t z = true → raises i s .control) := by
  refine ⟨fun hz => ?_, fun hz => ?_⟩
  · rw [branchEff_taken s s t z hz] at hexec
    exact ⟨_, hexec, rfl, settle_goto_onlyTask _ ht⟩
  · rw [branchEff_control s s t z false hz] at hexec
    exact hexec

/-- A clean branch whose registers are written in `s1`. -/
theorem branch_executes {i : Instr} {s s1 : State} {t : Task} {regs : Regs} {pend : SMap Nat} {taken : Bool} {z : Int}
    (hexec : exec i s = .next (settle s t (branchEff s (tailOutcome s1 taken) t false taken z)))
    (h1 : oneTask s s1 s.cur { t with regs := regs, pend := pend }) :
    (taken = false → completes i s fun u =>
      tracedTask s u t { wentBy s t with regs := regs, pend := pend } ∧ addsOutcome s t u false) ∧
    (taken = true → targetBad s t z = false → completes i s fun u =>
      tracedTask s u t { wentTo s t (BitVec.ofNat 64 z.toNat) with regs := regs, pend := pend } ∧
        addsOutcome s t u true) ∧
    (taken = true → targetBad s t z = true → raises i s .control) := by
  refine ⟨fun htaken => ?_, fun htaken hz => ?_, fun htaken hz => ?_⟩ <;> subst htaken
  · rw [branchEff_notTaken] at hexec
    exact ⟨_, hexec, rfl, settle_ok_tailOutcome false h1⟩
  · rw [branchEff_taken _ _ _ _ hz] at hexec
    exact ⟨_, hexec, rfl, settle_goto_tailOutcome true _ h1⟩
  · rw [branchEff_control _ _ _ _ _ hz] at hexec
    exact hexec

/-- The task after `loop`: as `t0`, with the counter written at SALU latency (R264). -/
def countedDown (s : State) (t : Task) (a : Nat) (v : Word) (t' t0 : Task) : Prop :=
  t' = { t0 with regs := t'.regs, pend := t'.pend } ∧ setsScalar t.regs t'.regs a v false ∧
    ∀ k, tabGet 0 k t'.pend = if k = a then s.clock + 1 else tabGet 0 k t.pend

theorem countedDown_of_write (s : State) (t t0 : Task) {a : Nat} (v : Word) (ha : a < 64) : countedDown s t a v
    { t0 with regs := putS t.regs a v false, pend := tabPut 0 a (s.clock + latSalu) t.pend } t0 :=
  ⟨rfl, setsScalar_putS _ _ _ _ ha, fun _ => by simp only [tabGet_tabPut, latSalu]⟩

theorem completes_mono {i : Instr} {s : State} {p q : State → Prop} (h : completes i s p) (hpq : ∀ u, p u → q u) :
    completes i s q := by
  obtain ⟨u, hexec, hretired, hp⟩ := h
  exact ⟨u, hexec, hretired, hpq u hp⟩

end Sys2Proof.Machine

open Sys2Proof Sys2Proof.Machine

/-- Settles O10 (R262, R264): `br` and `loop` come to `branchEff`. A clean one goes by `branch_executes`, or, without a
test, by `jump_executes`; a poisoned one traps by `raises_of_poisoned`. -/
theorem branchesExecute : Obligations.BranchesExecute := by
  unfold Obligations.BranchesExecute
  intro f s t
  refine ⟨fun h hcc hclean => ?_, fun h hpoison => ?_, fun i hi h => ?_, fun h hclean => ?_, fun h hpoison => ?_⟩
  · have ⟨ht, _, hw, _⟩ := h
    have hexec := exec_br h
    have htest := condHolds_iff (srcRegs s t) (cc_ne_seven_of_wf hw)
    rw [if_neg hcc, hclean] at hexec
    obtain ⟨hfalls, hgoes, hbad⟩ := branch_executes hexec (oneTask_self ht)
    exact ⟨fun hnot => hfalls (Bool.eq_false_iff.2 (mt htest.1 hnot)), fun htrue => hgoes (htest.2 htrue),
      fun htrue => hbad (htest.2 htrue)⟩
  · have ⟨_, _, hw, _⟩ := h
    have hexec := exec_br h
    rw [hpoison] at hexec
    obtain ⟨hcontrol, hconsumed⟩ := raises_of_poisoned hexec
    rw [condHolds_iff _ (cc_ne_seven_of_wf hw)] at hcontrol hconsumed
    exact ⟨hcontrol, hconsumed⟩
  · have ⟨ht, _⟩ := h
    rcases hi with rfl | ⟨rfl, hcc⟩
    · exact jump_executes ht (exec_jmp h)
    · exact jump_executes ht (exec_br_of_cc_zero h hcc)
  · have ⟨ht, _, hw, _⟩ := h
    have hexec := exec_loop h
    have htaken := loop_taken_iff (getS (srcRegs s t) f.a.toNat)
    rw [hclean] at hexec
    obtain ⟨hfalls, hgoes, hbad⟩ :=
      branch_executes hexec (oneTask_writeS _ false latSalu ht (loop_counter_ne_zero_of_wf hw))
    refine ⟨fun hone => ?_, fun hv hz => ?_, fun hv => hbad (htaken.2 hv)⟩
    · exact completes_mono (hfalls (Bool.eq_false_iff.2 fun h => htaken.1 h hone)) fun _ ⟨htraced, hadds⟩ =>
        ⟨hadds, _, htraced, countedDown_of_write s t _ _ f.a.isLt⟩
    · exact completes_mono (hgoes (htaken.2 hv) hz) fun _ ⟨htraced, hadds⟩ =>
        ⟨hadds, _, htraced, countedDown_of_write s t _ _ f.a.isLt⟩
  · have hexec := exec_loop h
    rw [hpoison] at hexec
    obtain ⟨hcontrol, hconsumed⟩ := raises_of_poisoned hexec
    rw [loop_taken_iff] at hcontrol hconsumed
    exact ⟨hcontrol, hconsumed⟩

end

section
/-!
O2, `vfclass` (R284). The model classifies the decoded element, the rule its magnitude between the format's bounds. Both are
the class by the exponent and fraction fields (`fieldClass`), since the magnitude is the one field above the other.
-/

namespace Sys2Proof.Machine

/-! ### The types of F (R129, R273) -/

/-- A format that R284's classes fit: it has infinities, a quiet bit, and an exponent field of more than one bit. -/
def FloatFmt.ieee (m : FloatFmt) : Prop := m.hasInf = true ∧ 0 < m.frac ∧ m.frac + 1 < m.width

/-- The fraction bits of a type in F. -/
def fracBits : ElemTy → Nat
  | .f64 => 52
  | .f32 => 23
  | .f16 => 10
  | _ => 7

theorem mem_of_inF {ty : ElemTy} (h : ty.inF = true) : ty ∈ [ElemTy.f64, .f32, .f16, .bf16] := by
  cases ty <;> simp_all [ElemTy.inF]

theorem fmtOf_of_inF {ty : ElemTy} (h : ty.inF = true) :
    (fmtOf ty).ieee ∧ (fmtOf ty).width = ty.width ∧ (fmtOf ty).frac = fracBits ty := by
  cases ty <;> simp_all [ElemTy.inF, fmtOf, FloatFmt.ieee, ElemTy.width, fracBits]

/-- The exponent 0 is not that of the infinities. -/
theorem FloatFmt.ieee.expMax_pos {m : FloatFmt} (hm : m.ieee) : 0 < m.expMax := by
  obtain ⟨-, -, hw⟩ := hm
  have htwo : 1 < 2 ^ (m.width - 1 - m.frac) := Nat.one_lt_two_pow (by omega)
  unfold FloatFmt.expMax
  omega

/-! ### The fields of an element (R129) -/

/-- The exponent field. -/
def expField (m : FloatFmt) (x : Nat) : Nat := natBits x m.frac (m.width - 1 - m.frac)

/-- The fraction field. -/
def fracField (m : FloatFmt) (x : Nat) : Nat := x % 2 ^ m.frac

theorem fracField_lt (m : FloatFmt) (x : Nat) : fracField m x < 2 ^ m.frac := Nat.mod_lt _ (Nat.two_pow_pos _)

theorem expField_le_expMax (m : FloatFmt) (x : Nat) : expField m x ≤ m.expMax :=
  Nat.le_sub_one_of_lt (Nat.mod_lt _ (Nat.two_pow_pos _))

/-- Without its sign, an element is its exponent field above its fraction field. -/
theorem magnitude_eq_fields {m : FloatFmt} (hm : m.ieee) (x : Nat) :
    x % 2 ^ (m.width - 1) = expField m x * 2 ^ m.frac + fracField m x := by
  obtain ⟨-, -, hw⟩ := hm
  have hsplit : m.width - 1 = m.frac + (m.width - 1 - m.frac) := by omega
  rw [expField, fracField, natBits, Nat.shiftRight_eq_div_pow, hsplit, Nat.pow_add, Nat.mod_mul, Nat.add_sub_cancel_left]
  ring

/-- The top bit of a number says whether the number reaches that bit's weight. -/
theorem testBit_top {n k : Nat} (h : n < 2 ^ (k + 1)) : n.testBit k = decide (2 ^ k ≤ n) := by
  by_cases hle : 2 ^ k ≤ n
  · rw [Nat.testBit_of_two_pow_le_and_two_pow_add_one_gt hle h, decide_eq_true hle]
  · rw [Nat.testBit_lt_two_pow (Nat.not_le.1 hle), decide_eq_false hle]

/-- Decoding, by the fields of the element (R130). -/
theorem fdecode_eq {m : FloatFmt} (hm : m.ieee) {x : Nat} (hx : x < 2 ^ m.width) : fdecode m x =
    if expField m x = m.expMax then
      if fracField m x = 0 then .inf (decide (2 ^ (m.width - 1) ≤ x))
      else .nan (decide (fracField m x < 2 ^ (m.frac - 1)))
    else if expField m x = 0 then .fin (decide (2 ^ (m.width - 1) ≤ x)) (fracField m x) (m.emin - m.frac)
    else .fin (decide (2 ^ (m.width - 1) ≤ x)) (fracField m x + 2 ^ m.frac)
      ((expField m x : Int) - m.bias - m.frac) := by
  obtain ⟨hinf, hq, hw⟩ := hm
  have hneg : x.testBit (m.width - 1) = decide (2 ^ (m.width - 1) ≤ x) :=
    testBit_top (by rwa [Nat.sub_add_cancel (by omega)])
  have hsig : (!(fracField m x).testBit (m.frac - 1)) = decide (fracField m x < 2 ^ (m.frac - 1)) := by
    rw [testBit_top (by rw [Nat.sub_add_cancel hq]; exact fracField_lt m x), ← decide_not]
    simp
  rw [← hneg, ← hsig]
  unfold fdecode expField fracField
  simp [hinf]

theorem fsubnormal_eq (m : FloatFmt) (x : Nat) :
    fsubnormal m x = (expField m x == 0 && fracField m x != 0) := rfl

/-! ### The class, by magnitude and by fields (R284) -/

/-- The number of the bit that names the class of an element `w` bits wide with a fraction of `q`, as R284 lists them. -/
def classBit (w q x : Nat) : Nat :=
  let inf := (2 ^ (w - 1 - q) - 1) * 2 ^ q
  let neg := 2 ^ (w - 1) ≤ x
  let mag := x % 2 ^ (w - 1)
  if mag = 0 then (if neg then 3 else 4)
  else if mag < 2 ^ q then (if neg then 2 else 5)
  else if mag < inf then (if neg then 1 else 6)
  else if mag = inf then (if neg then 0 else 7)
  else if mag < inf + 2 ^ (q - 1) then 8 else 9

/-- The same number, by the exponent and fraction fields. -/
def fieldClass (m : FloatFmt) (x : Nat) : Nat :=
  let neg := 2 ^ (m.width - 1) ≤ x
  if expField m x = m.expMax then
    if fracField m x = 0 then (if neg then 0 else 7) else if fracField m x < 2 ^ (m.frac - 1) then 8 else 9
  else if expField m x = 0 then
    if fracField m x = 0 then (if neg then 3 else 4) else (if neg then 2 else 5)
  else (if neg then 1 else 6)

theorem classBit_eq_fieldClass {m : FloatFmt} (hm : m.ieee) (x : Nat) : classBit m.width m.frac x = fieldClass m x := by
  have hr := fracField_lt m x
  have hinf : (2 ^ (m.width - 1 - m.frac) - 1) * 2 ^ m.frac = m.expMax * 2 ^ m.frac := rfl
  have hnormal : 2 ^ m.frac ≤ m.expMax * 2 ^ m.frac := Nat.le_mul_of_pos_left _ hm.expMax_pos
  simp only [classBit, fieldClass, magnitude_eq_fields hm, hinf]
  by_cases hmax : expField m x = m.expMax
  · rw [hmax, if_neg (by omega), if_neg (by omega), if_neg (by omega)]
    simp
  · have hbelow : expField m x * 2 ^ m.frac + 2 ^ m.frac ≤ m.expMax * 2 ^ m.frac := by
      rw [← Nat.succ_mul]
      exact Nat.mul_le_mul_right _ (Nat.lt_of_le_of_ne (expField_le_expMax m x) hmax)
    rw [if_neg hmax]
    by_cases hzero : expField m x = 0
    · simp [hzero, hr]
    · have hge : 2 ^ m.frac ≤ expField m x * 2 ^ m.frac := Nat.le_mul_of_pos_left _ (Nat.pos_of_ne_zero hzero)
      rw [if_neg (by omega), if_neg (by omega), if_pos (by omega), if_neg hzero]

theorem fclass_eq_two_pow_fieldClass {m : FloatFmt} (hm : m.ieee) {x : Nat} (hx : x < 2 ^ m.width) :
    fclass m x = 2 ^ fieldClass m x := by
  rw [fclass, fdecode_eq hm hx, fieldClass, fsubnormal_eq]
  by_cases hmax : expField m x = m.expMax
  · by_cases hr : fracField m x = 0
    · simp [hmax, hr, apply_ite (2 ^ ·)]
    · by_cases hsig : fracField m x < 2 ^ (m.frac - 1) <;> simp [hmax, hr, hsig]
  · by_cases hzero : expField m x = 0
    · by_cases hr : fracField m x = 0 <;> simp [hm.expMax_pos.ne, hzero, hr, apply_ite (2 ^ ·)]
    · simp [hmax, hzero, apply_ite (2 ^ ·)]

theorem fclass_of_inF {ty : ElemTy} (h : ty.inF = true) {x : Nat} (hx : x < 2 ^ ty.width) :
    fclass (fmtOf ty) x = 2 ^ classBit ty.width (fracBits ty) x := by
  obtain ⟨hieee, hwidth, hfrac⟩ := fmtOf_of_inF h
  rw [← hwidth, ← hfrac, classBit_eq_fieldClass hieee]
  exact fclass_eq_two_pow_fieldClass hieee (hwidth ▸ hx)

/-! ### The instruction -/

theorem inF_of_wf_vfclass {f : FmtV} (hw : (Instr.vfclass f).wf = true) : f.ty.inF = true := by
  simp only [Instr.wf, Bool.and_eq_true] at hw
  exact hw.1

/-- `vfclass` is an element-wise instruction without flags, of VINT latency. -/
theorem exec_vfclass (f : FmtV) (s : State) : exec (.vfclass f) s = runIsa (.vfclass f) s
    (plainOp f latVint srcA (fun r i => fclass (fmtOf f.ty) (rawA r f i)) s) := rfl

end Sys2Proof.Machine

open Sys2Proof Sys2Proof.Machine

/-- Settles O2 (R284): the opcode by `opcode_fmtV`, the frame by `plainOp_done`, each element by `fclass_of_inF`. -/
theorem vfclassNamesTheClass : Obligations.VfclassNamesTheClass := by
  unfold Obligations.VfclassNamesTheClass
  intro f s t
  refine ⟨Laws.Opcode.opcode_fmtV _ f, fun hw => mem_of_inF (inF_of_wf_vfclass hw), fun h => ?_⟩
  have ⟨_, _, hw, _⟩ := h
  have hlane : ∀ i, fclass (fmtOf f.ty) (rawA (srcRegs s t) f i) =
      2 ^ classBit f.ty.width (fracBits f.ty) (rawA (srcRegs s t) f i) :=
    fun i => fclass_of_inF (inF_of_wf_vfclass hw) (elt_lt _ _ _)
  obtain ⟨u, hexec, hdone⟩ := plainOp_done _ f s t latVint srcA (fun r i => fclass (fmtOf f.ty) (rawA r f i)) h
  have hretired : u.grp.result = .retired := by
    obtain ⟨_, _, ⟨hu, -, -⟩, -⟩ := hdone
    rw [hu]
  simp only [hlane] at hdone
  exact ⟨u, (exec_vfclass f s).trans hexec, hretired, hdone⟩

end
